-- ==== Sys2Proof/Word.lean ====
section
/-! DEFINITION. The word types of the QF1152 and their plainest bit arithmetic (00 R4). -/
namespace Sys2Proof

abbrev Byte := BitVec 8
abbrev W64 := BitVec 64
/-- A binary32 bit pattern (05 R151). -/
abbrev F32 := BitVec 32

/-- The field `hi:lo` of a word, as a number (00 R4: bit 0 is the least significant bit). -/
def fieldNat (v hi lo : Nat) : Nat := (v >>> lo) % 2 ^ (hi + 1 - lo)

/-- Bit `i` of a word. -/
def bitAt (v i : Nat) : Bool := v.testBit i

/-- 1 or 0 of a flag. -/
def b2n (b : Bool) : Nat := if b then 1 else 0

/-- A counter of width `w` that holds at all ones ("Holds at 0xFFFF" of the register maps). -/
def satAdd {w : Nat} (a : BitVec w) (n : Nat) : BitVec w :=
  BitVec.ofNat w (min (a.toNat + n) (2 ^ w - 1))

/-- Little-endian value of a byte list (00 R4). -/
def leNat : List Byte → Nat
  | [] => 0
  | b :: bs => b.toNat + 256 * leNat bs

/-- `n` little-endian bytes of a value (00 R4). -/
def leBytes : Nat → Nat → List Byte
  | 0, _ => []
  | n + 1, v => BitVec.ofNat 8 v :: leBytes n (v / 256)

/-- Big-endian value of a byte list, as keys and signatures are stored (07 R207). -/
def beNat (l : List Byte) : Nat := l.foldl (fun a b => a * 256 + b.toNat) 0

/-- `x` rounded up to a multiple of 64 (12 R345). -/
def ceil64 (x : Nat) : Nat := (x + 63) / 64 * 64

/-- Quotient rounded up. -/
def ceilDiv (a b : Nat) : Nat := (a + b - 1) / b

end Sys2Proof
end

