-- ==== Sys2Proof/Syntax.lean ====
section
/-! DEFINITION. The commands of the QF1152: one constructor of `Instr` for each row of spec/opcode_table.json, in
the table's order. Values that the environment decides (voltages, temperatures, training and signature outcomes,
durations of waits) are operands of the command that reports them. -/
namespace Sys2Proof

/-- The header fields of a schedule word (05 R127); CLASS is the constructor. -/
structure WordHdr where
  offset : BitVec 32 := 0
  reps   : BitVec 10 := 0
  rgap   : BitVec 10 := 0
  pflag  : BitVec 3 := 0
  pinv   : Bool := false
  slot   : BitVec 6 := 0
deriving DecidableEq, Repr

/-- The body of a MAC word (05 R131), field by field. -/
structure MacArgs where
  arrg   : BitVec 2 := 0
  pmode  : BitVec 2 := 0
  aenc   : BitVec 2 := 0
  wenc   : BitVec 2 := 0
  chain  : Bool := false
  xpose  : Bool := false
  noload : Bool := false
  side   : Bool := false
  split  : BitVec 6 := 0
  asel   : BitVec 2 := 0
  rbase  : BitVec 7 := 0
  rcnt   : BitVec 7 := 0
  wline  : BitVec 11 := 0
  aline  : BitVec 11 := 0
  ring   : BitVec 4 := 0
deriving DecidableEq, Repr

/-- The body of a drain word (05 R135), field by field. -/
structure DrainArgs where
  arrg   : BitVec 2 := 0
  dfmt   : BitVec 2 := 0
  benc   : BitVec 2 := 0
  axis   : Bool := false
  sr     : Bool := false
  maxr   : BitVec 3 := 4
  pieces : BitVec 2 := 0
  side   : Bool := false
  csreg  : BitVec 4 := 0
  cvreg  : BitVec 4 := 0
  asel   : BitVec 2 := 0
  rbase  : BitVec 7 := 0
  rcnt   : BitVec 7 := 0
  dline  : BitVec 11 := 0
  mrec   : BitVec 12 := 0
deriving DecidableEq, Repr

/-- The body of a MOV word less MOP (05 R137), field by field. -/
structure MovArgs where
  loc   : Bool := false
  loff  : BitVec 16 := 0
  base  : BitVec 4 := 0
  roff  : BitVec 18 := 0
  lines : BitVec 8 := 0
  free  : BitVec 13 := 0
deriving DecidableEq, Repr

/-- The body of a SYN word less SOP (05 R142), field by field. -/
structure SynArgs where
  tgt   : BitVec 14 := 0
  ctr   : BitVec 4 := 0
  val   : BitVec 16 := 0
  qid   : BitVec 6 := 0
  cmask : BitVec 16 := 0
deriving DecidableEq, Repr

/-- The fields of a vector instruction less OPC (05 R148). -/
structure VArgs where
  i   : Bool := false
  vd  : BitVec 5 := 0
  va  : BitVec 5 := 0
  vb  : BitVec 5 := 0
  vc  : BitVec 5 := 0
  msk : BitVec 3 := 0
  mz  : Bool := false
  imm : BitVec 32 := 0
deriving DecidableEq, Repr

/-- Where a vector instruction runs: in a core as the body of a VEC word, or in the update engine of a die
(05, introduction; R106, R369). -/
inductive VUnit where
  | core (c : Nat) (h : WordHdr)
  | engine (d : Nat)
deriving DecidableEq, Repr

/-- The ports whose links retrain, replay and train (01 R15). -/
inductive Port where
  | hlk | plk0 | plk1 | bmp0 | bmp1 | bmp2 | bmp3
deriving DecidableEq, Repr

/-- One die's temperatures in 0.1 °C: junction, and the hottest stack (17 R469, R493). -/
structure DieTemp where
  die : Nat
  tj  : Int
  hbm : Int
deriving DecidableEq, Repr

/-- What trained at one port: the lanes in use, and the frames a board expander reports (08 R235, 17 R485). -/
structure PortUp where
  port   : Port
  lanes  : BitVec 8
  frames : BitVec 21 := 0
deriving DecidableEq, Repr

/-- One host request through the fixed page or the window (10 R305 to R307). -/
inductive HostReq where
  | writePage   (off : Nat) (data : List Byte)
  | readPage    (off len : Nat)
  | writeWindow (off : Nat) (data : List Byte)
  | readWindow  (off len : Nat)
deriving DecidableEq, Repr

/-- One incoming peer request (15 R426, R432). -/
inductive PeerReq where
  | write (addr : Nat) (data : List Byte)
  | read  (addr len : Nat)
  | addw  (addr : Nat) (data : List Byte)
  | count (addr : Nat) (inc : W64)
deriving DecidableEq, Repr

/-- A peer request as it arrives, with the port it comes in by; a flit for another module, with its port and destination (15 R423, R439). -/
structure PeerIn where
  port : Nat := 0
  req  : PeerReq
deriving DecidableEq, Repr
structure PeerFlit where
  port : Nat := 0
  dest : BitVec 8
deriving DecidableEq, Repr

/-- Where a memory error was found (16 R447, R448, R466). -/
inductive EccPlace where
  | hbm (addr : Nat)
  | coreStore (core : Nat)
  | shelf (cluster off : Nat)
  | dieController (die : Nat)
  | mpMemory
  | ldSram
  /-- Parity (R447): an entry of a core's schedule buffer, of a cluster's bank map, of a TLB (`g` from 640 on is an update engine). -/
  | schedule (core : Nat)
  | bankMap (cluster : Nat)
  | tlb (g part page : Nat)
deriving DecidableEq, Repr

/-- Who read data that holds an uncorrectable error (16 R448). -/
inductive EccReader where
  | none
  | coreFetch (core loff lines : Nat) (slot : BitVec 6) (shelf : Bool)
  | dma (channel : Nat)
  | engine (die : Nat)
  | migration (page part : Nat)
  | stream (s : Nat) (completion : Bool)
  | host
  | peer
  | peerQueue (q : Nat)
  | ingest (engine : Nat)
deriving DecidableEq, Repr

/-- The announcement of one lock group by the time master (15 R435). -/
structure GroupAnn where
  group : Nat
  time  : Nat
  index : Nat
  level : BitVec 4
deriving DecidableEq, Repr

/-- The key the last certificate of a chain verifies under (07 R207): the Grekosa root key, a customer's key, or none. -/
inductive Signer where
  | root
  | key (k : BitVec 512)
  | nobody
deriving DecidableEq, Repr

/-- What SM2 says of one signature value: the SM3 digest that the 64 bytes `sig` verify over, under the key at issue (07 R207). The manual
names SM2 and gives no definition of it (notes/assumptions/10.md). -/
structure SigFact where
  digest : BitVec 256
  sig    : BitVec 512
deriving DecidableEq, Repr

/-- What SM2 and X.509 say of one chain: that the bytes whose SM3 digest is `chain` verify, each certificate under the next, and the key the
last one verifies under (07 R207; notes/assumptions/10.md). -/
structure ChainFact where
  chain  : BitVec 256
  signer : Signer
deriving DecidableEq, Repr

/-- What a SIGNATURE section certifies (07 R207): a fact of SIG under the leaf certificate's key, and one of CHAIN. -/
structure Seal where
  body : SigFact
  path : ChainFact
deriving DecidableEq, Repr

/-- One command. Mnemonics are those of spec/opcode_table.json (LAWS.json maps them). -/
inductive Instr where
  -- 17: power and start-up
  | p42vStart (mv : Nat)
  | railsInRegulation
  | p42vOutOfRange (mv : Nat)
  | lossOf42v
  | railFault
  | thermalTrip
  | modResetAssert
  | modResetDeassert (goodUs assertedUs : Nat) (refStable : Bool)
  | romIdentity (derived certified : BitVec 512)
  | fwVerify (a b : Seal)
  | recorderRestore (snapA snapB repA repB : Option SigFact) (okKeys okHelper : Bool)
  | arraySelfTest (bad : List (Nat × Nat))
  | hbmTraining (failed : List (Nat × Nat))
  | linkTraining (ports : List PortUp)
  | readyEntry
  | smbWrite (addr : Nat) (val : W64)
  | smbSetReadAddress (addr : Nat)
  | smbRead
  | ppsInEdge
  | ppsOutPulse
  | ppsOutEnd
  | throttleUpdate (temps : List DieTemp)
  | powerTermUpdate (avgW : Nat)
  | currentGuardHold (ma : Nat)
  | guardHoldExpiry (ma : Nat)
  -- 00, 10: registers and the host link
  | registerWrite (addr width : Nat) (val : W64)
  | hostRequest (r : HostReq)
  | hostWriteAck (stream n : Nat)
  | hostReset
  | hostLinkDownTimeout
  | hostLinkUp (lanes : BitVec 4)
  | hostLinkRetrain (us : Nat)
  | hostLaneFailure (lane : Nat)
  | linkReplay (port : Port) (flits : Nat)
  | hlkRetrain
  | handshake (epoch : BitVec 16)
  | holdBaseWrite (val : W64)
  | frmCalWrite (val : W64)
  -- 06: the frame tick
  | groupBaseTick (g : Nat)
  | admissionCut (p : Nat)
  | decisionPoint (p : Nat)
  | frameStart (p : Nat)
  | moduleAuditPoint
  | clusterFrameDone (g : Nat)
  | drainRequest (g : Nat)
  | resume (p : Nat)
  | clrslk (p : Nat)
  -- 09: streams
  | commandTailDoorbell (stream index : Nat)
  | completionHeadDoorbell (stream index : Nat)
  | commandFetch (stream : Nat)
  | commandReread (stream : Nat)
  | scmdSetStream (stream : Nat)
  | arm (stream : Nat)
  | halt (stream : Nat)
  | disarm (stream : Nat)
  | reload (stream : Nat)
  | query (stream : Nat)
  | reservedAction (stream : Nat) (action : BitVec 4)
  | stmTableBaseWrite (val : W64)
  | stmArgBaseWrite (val : W64)
  | nop (stream : Nat)
  | run (stream : Nat)
  | dma (stream : Nat)
  | update (stream : Nat)
  | exportShard (stream : Nat)
  | importShard (stream : Nat)
  | map (stream : Nat)
  | unmap (stream : Nat)
  | place (stream : Nat)
  | evict (stream : Nat)
  | dropb (stream : Nat)
  | attr (stream : Nat)
  | copy (stream : Nat)
  | fence (stream : Nat)
  | signal (stream : Nat)
  | wait (stream : Nat)
  | waitTimeout (stream : Nat)
  | loadBitstream (stream : Nat)
  | tieSum (stream : Nat)
  | ingest (stream : Nat)
  -- 07: loads and repair
  | load
  | flash
  | abort
  | keyreg (x : Seal)
  | loadVerify (body : SigFact) (path : ChainFact)
  | loadApply
  | loadDone
  | repairStart (cluster spare : BitVec 10)
  | clusterFailure (g : Nat)
  | repairCopy (p : Nat) (lost : List Nat) (countsLost : Bool)
  | routerFault (g : Nat)
  | dieControllerFailure (d : Nat)
  | ringBreak (member : Nat) (ccw : Bool) (isolated : List Nat)
  | eccCorrectable (at_ : EccPlace)
  | eccUncorrectable (at_ : EccPlace) (by_ : EccReader)
  | mpRestart (ms : Nat)
  | patrolScrub (stack corrected : Nat)
  -- 08: memory
  | retire (d : Nat) (stack : BitVec 2) (pch : BitVec 5)
  | clrlate (p : Nat)
  | footprintPin (stream : Nat)
  | migrationCopyDone (d p page : Nat) (us : Nat)
  | dirtyRequest (p page : Nat)
  | tlbWalk (g page cycles : Nat)
  | tlbInvalidate (g p page : Nat)
  | invalidateAck (g p page : Nat)
  | bmpRetrain (n : Nat)
  | boardPortRetrain (n us : Nat)
  | boardPortDown (n : Nat)
  | poisonedLine (addr : Nat) (by_ : EccReader)
  -- 05, 04, 03: schedule words
  | mac (c : Nat) (h : WordHdr) (f : MacArgs) (rep : Nat) (parity : List (Nat × Nat × Nat))
  | drainWord (c : Nat) (h : WordHdr) (f : DrainArgs) (rep : Nat)
  | fetch (c : Nat) (h : WordHdr) (f : MovArgs)
  | fetchWithDrainFlag (c : Nat) (h : WordHdr) (f : MovArgs)
  | drain (c : Nat) (h : WordHdr) (f : MovArgs)
  | addw (c : Nat) (h : WordHdr) (f : MovArgs)
  | maxm (c : Nat) (h : WordHdr) (f : MovArgs)
  | fetchComplete (c late : Nat)
  | drainComplete (c : Nat)
  | synSignal (c : Nat) (h : WordHdr) (f : SynArgs)
  | synWait (c : Nat) (h : WordHdr) (f : SynArgs)
  | tokenIncrementArrival (c : Nat) (ctr : BitVec 4) (val : BitVec 16)
  | qput (c : Nat) (h : WordHdr) (f : SynArgs)
  | qget (c : Nat) (h : WordHdr) (f : SynArgs)
  | qrel (c : Nat) (h : WordHdr) (f : SynArgs)
  | queueAnnounceArrival (p qid : Nat) (val : BitVec 16)
  | queueCreditArrival (p qid : Nat) (val : BitVec 16)
  | cbar (c : Nat) (h : WordHdr) (f : SynArgs)
  | conversionDone (c : Nat)
  -- 05: the vector instruction set
  | vecNop (u : VUnit) (x : VArgs)
  | add (u : VUnit) (x : VArgs)
  | sub (u : VUnit) (x : VArgs)
  | mul (u : VUnit) (x : VArgs)
  | fma (u : VUnit) (x : VArgs)
  | fnma (u : VUnit) (x : VArgs)
  | min (u : VUnit) (x : VArgs)
  | max (u : VUnit) (x : VArgs)
  | clamp (u : VUnit) (x : VArgs)
  | abs (u : VUnit) (x : VArgs)
  | neg (u : VUnit) (x : VArgs)
  | sign (u : VUnit) (x : VArgs)
  | div (u : VUnit) (x : VArgs)
  | sqrt (u : VUnit) (x : VArgs)
  | rsqrt (u : VUnit) (x : VArgs)
  | rcp (u : VUnit) (x : VArgs)
  | exp2 (u : VUnit) (x : VArgs)
  | log2 (u : VUnit) (x : VArgs)
  | exp (u : VUnit) (x : VArgs)
  | tanh (u : VUnit) (x : VArgs)
  | erf (u : VUnit) (x : VArgs)
  | sel (u : VUnit) (x : VArgs)
  | mov (u : VUnit) (x : VArgs)
  | ceq (u : VUnit) (x : VArgs)
  | cne (u : VUnit) (x : VArgs)
  | clt (u : VUnit) (x : VArgs)
  | cle (u : VUnit) (x : VArgs)
  | mand (u : VUnit) (x : VArgs)
  | mor (u : VUnit) (x : VArgs)
  | mxor (u : VUnit) (x : VArgs)
  | mnot (u : VUnit) (x : VArgs)
  | mfirst (u : VUnit) (x : VArgs)
  | mcnt (u : VUnit) (x : VArgs)
  | mflag (u : VUnit) (x : VArgs)
  | rsum (u : VUnit) (x : VArgs)
  | rsumsq (u : VUnit) (x : VArgs)
  | rmax (u : VUnit) (x : VArgs)
  | rmin (u : VUnit) (x : VArgs)
  | ramax (u : VUnit) (x : VArgs)
  | bcast (u : VUnit) (x : VArgs)
  | iota (u : VUnit) (x : VArgs)
  | f2i (u : VUnit) (x : VArgs)
  | i2f (u : VUnit) (x : VArgs)
  | ld (u : VUnit) (x : VArgs)
  | st (u : VUnit) (x : VArgs)
  | ldb (u : VUnit) (x : VArgs)
  | ldq (u : VUnit) (x : VArgs)
  | stq (u : VUnit) (x : VArgs)
  | sld (u : VUnit) (x : VArgs)
  | sst (u : VUnit) (x : VArgs)
  | cvtb (u : VUnit) (x : VArgs)
  | sli (u : VUnit) (x : VArgs)
  | sadd (u : VUnit) (x : VArgs)
  | ssub (u : VUnit) (x : VArgs)
  | smul (u : VUnit) (x : VArgs)
  | sfadd (u : VUnit) (x : VArgs)
  | sfmul (u : VUnit) (x : VArgs)
  | sfdiv (u : VUnit) (x : VArgs)
  | br (u : VUnit) (x : VArgs)
  | bz (u : VUnit) (x : VArgs)
  | bnz (u : VUnit) (x : VArgs)
  | blt (u : VUnit) (x : VArgs)
  | call (u : VUnit) (x : VArgs)
  | ret (u : VUnit) (x : VArgs)
  | programHalt (u : VUnit) (x : VArgs)
  -- 11: DMA; 13: the update engine; 14: ingest
  | dmaStart (ch : Nat)
  | dmaDescriptor (ch : Nat) (preempted : List (BitVec 2))
  | dmaRetry (ch : Nat)
  | dmaStop (ch : Nat)
  | updatePass2 (d : Nat)
  | groupTimeout (d stream : Nat)
  | updAbort (d : Nat)
  | updConfigWrite (d off : Nat) (val : W64)
  | ingestRecord (e : Nat)
  | ingestTailPoll (e : Nat)
  | batchDeadline (e : Nat)
  | ingestAbort (e : Nat)
  -- 15: peer links and shared time
  | peerWrite (q : Nat)
  | peerRead (q : Nat) (data : List Byte)
  | peerAddw (q : Nat)
  | note (q : Nat)
  | peerEntryDone (q : Nat) (failed : BitVec 8) (moved : Nat)
  | peerRequest (r : PeerIn)
  | peerFlitForward (f : PeerFlit)
  | queueTailWrite (q : Nat) (tail : BitVec 16)
  | queueBell (addr : Nat) (word : W64)
  | queueStop (q : Nat)
  | queueEnable (q : Nat) (val : W64)
  | plkRetrain (n : Nat)
  | peerPortRetrain (n us : Nat)
  | peerPortDown (n : Nat)
  | timeMasterSet
  | timingFlitExchange (port : Nat) (master hops : BitVec 8) (skews : List (Nat × BitVec 16)) (second : Option (BitVec 8))
  | timeAnnouncement (port : Nat) (master hops : BitVec 8) (shared : Nat) (period : BitVec 24) (groups : List GroupAnn)
  | throttleLevelReport (module_ : BitVec 8) (group : Nat) (level : BitVec 4) (index : Nat)
  -- 16, 17: audit, recorder, power registers
  | recon (pool : BitVec 4) (target : BitVec 5)
  | dump
  | dumpDone
  | snap
  | periodicSnapshot
  | clear (x : Seal)
  | clrmax
  | fwupd (x : Seal)
  | quote
  | quoteDone
  | pwrLimitWrite (val : W64)
  | p42vBelow30V
  | supportEnd
  | bmpEnable (n : Nat) (en : Bool)
  | plkEnable (n : Nat) (en : Bool)
deriving DecidableEq, Repr

end Sys2Proof
end

