-- ==== Sys2Proof/Decode.lean ====
section
/-! DEFINITION. The host's table decoder. The rows of spec/opcode_table.json give no bits (their "fields" are empty and
no row carries "fixed"), so no word spells a command. -/
namespace Sys2Proof

/-- The command a word spells by the table's bits: none, because no row of the table gives bits. -/
def decodeTableWord (_nbits _w : Nat) : Option Instr := none

end Sys2Proof
end

