-- ==== Sys2Proof/Config.lean ====
section
/-! DEFINITION. The values the manual leaves open: opaque constants with no body, so that no proof can
see what they are (notes/assumptions names each). -/
namespace Sys2Proof.Config

/-- Lane content of a core's V registers after a frame start (05 R147 "Undefined at frame start"):
generation counter, then register × lane key. -/
opaque freeLane : Nat → Nat → BitVec 32

/-- What a unit computes for an operation the manual only bounds in units in the last place (05 R151, 13 R380):
operation number, operand bit pattern. -/
opaque approx : Nat → BitVec 32 → BitVec 32

/-- Bytes of a signature the module itself makes (16 R460, 17 R492): its draw number and the byte's index. -/
opaque signatureByte : Nat → Nat → BitVec 8

/-- Nonces the module draws (16 R462): draw number. -/
opaque nonce : Nat → BitVec 64

/-- Bytes whose value a race or an overlap leaves open (00 R39, 04 R109, 05 R155, 11 R328): draw number, byte index. -/
opaque raceByte : Nat → Nat → BitVec 8

/-- The credits of each of the 30 link directions, "Fixed by the module" (16 R440). -/
opaque linkCredits : Nat → BitVec 15

/-- The order in which an update engine adds the terms of a sum whose order the manual leaves open (13 R377, R384, R389; 02 R58):
key of the sum, sum, position. -/
opaque sumOrder : Nat → Nat → Nat → Nat

/-- The place of an element in the engine's stochastic conversion, 256 × cycle + lane (13 R392): rows, columns, element. -/
opaque convLane : Nat → Nat → Nat → Nat

/-- Bytes of the copies of Bubarus that the module leaves the factory with (17 R484): copy B or A, byte index. -/
opaque factoryByte : Bool → Nat → BitVec 8

/-- Which of the four routers of a stack an endpoint's traffic uses (01 R19, 07 R198): the other endpoint's code, the stack. -/
opaque attach : Nat → Nat → Nat

end Sys2Proof.Config
end

