-- ==== Sys2Proof/Machine/Fp.lean ====
section
/-! DEFINITION. Binary floating point, computed exactly and rounded once (05 R151): binary32, BF16 and FP16. -/
namespace Sys2Proof.Machine

/-- Bits of a number. -/
def bitLen (n : Nat) : Nat := if n = 0 then 0 else n.log2 + 1

/-- Shift a natural by an integer number of places, rounding down. -/
def shiftI (n : Nat) (k : Int) : Nat := if 0 ≤ k then n <<< k.toNat else n >>> (-k).toNat

/-- What a floating-point pattern stands for: `fin neg m e` is (−1)^neg × m × 2^e exactly. -/
inductive Num where
  | nan
  | inf (neg : Bool)
  | fin (neg : Bool) (m : Nat) (e : Int)
deriving DecidableEq, Repr

/-- A binary format: exponent bits and stored mantissa bits. -/
structure Fmt where
  eb : Nat
  mb : Nat
deriving DecidableEq, Repr

def fmt32 : Fmt := ⟨8, 23⟩
def fmtBf16 : Fmt := ⟨8, 7⟩
def fmtFp16 : Fmt := ⟨5, 10⟩

/-- Exponent bias. -/
def Fmt.bias (f : Fmt) : Nat := 2 ^ (f.eb - 1) - 1
/-- The pattern of +Infinity. -/
def Fmt.infBits (f : Fmt) : Nat := (2 ^ f.eb - 1) * 2 ^ f.mb
/-- The pattern of the quiet NaN (05 R151, 03 R73). -/
def Fmt.nanBits (f : Fmt) : Nat := f.infBits + 2 ^ (f.mb - 1)
/-- The sign bit's weight. -/
def Fmt.signBit (f : Fmt) : Nat := 2 ^ (f.eb + f.mb)

/-- Decode a pattern of a format. -/
def fdecode (f : Fmt) (x : Nat) : Num :=
  let neg := x.testBit (f.eb + f.mb)
  let e := x / 2 ^ f.mb % 2 ^ f.eb
  let m := x % 2 ^ f.mb
  if e = 2 ^ f.eb - 1 then (if m = 0 then .inf neg else .nan)
  else if e = 0 then .fin neg m (1 - (f.bias : Int) - f.mb)
  else .fin neg (2 ^ f.mb + m) ((e : Int) - f.bias - f.mb)

/-- The magnitude pattern nearest to m × 2^e (ties to even), where `sticky` says the exact value lies strictly between
m and m + 1 units; at or beyond `infBits` the result has overflowed. -/
def roundMag (f : Fmt) (m : Nat) (e : Int) (sticky : Bool) : Nat :=
  if m = 0 then 0
  else
    let top : Int := (bitLen m : Int) - 1 + e
    let emin : Int := 1 - (f.bias : Int)
    let ex := if top < emin then emin else top
    let q := ex - f.mb
    let n :=
      if q ≤ e then m <<< (e - q).toNat
      else
        let sh := (q - e).toNat
        let n := m >>> sh
        let r := m % 2 ^ sh
        let half := 2 ^ (sh - 1)
        if half < r || (r == half && (sticky || n % 2 == 1)) then n + 1 else n
    (ex + f.bias - 1).toNat * 2 ^ f.mb + n

/-- Overflow handling of a rounding. -/
inductive Ovf where
  | toInf
  | saturate
deriving DecidableEq, Repr

/-- Round an exact signed value to a format. -/
def fround (f : Fmt) (o : Ovf) (neg : Bool) (m : Nat) (e : Int) (sticky : Bool) : Nat :=
  let b := roundMag f m e sticky
  let b := if f.infBits ≤ b then (match o with | .toInf => f.infBits | .saturate => f.infBits - 1) else b
  if neg then f.signBit + b else b

/-- Whether the rounding overflows the format's finite range. -/
def foverflows (f : Fmt) (m : Nat) (e : Int) (sticky : Bool) : Bool := decide (f.infBits ≤ roundMag f m e sticky)

/-- Encode a value in a format, rounding to nearest even; with `saturate`, infinities become the largest finite value. -/
def fencode (f : Fmt) (o : Ovf) : Num → Nat
  | .nan => f.nanBits
  | .inf neg =>
    let b := match o with | .toInf => f.infBits | .saturate => f.infBits - 1
    if neg then f.signBit + b else b
  | .fin neg m e => fround f o neg m e false

/-! ## Exact arithmetic on values -/

def Num.negate : Num → Num
  | .nan => .nan
  | .inf n => .inf (!n)
  | .fin n m e => .fin (!n) m e

def Num.mag : Num → Num
  | .nan => .nan
  | .inf _ => .inf false
  | .fin _ m e => .fin false m e

/-- The signed integer of a finite value at the exponent `q ≤ e`. -/
def scaled (neg : Bool) (m : Nat) (e q : Int) : Int :=
  let v : Int := ((m <<< (e - q).toNat : Nat) : Int)
  if neg then -v else v

/-- Exact sum. The sum of two opposite values is +0, and −0 only for two −0 (05 R151). -/
def Num.add : Num → Num → Num
  | .nan, _ => .nan
  | _, .nan => .nan
  | .inf a, .inf b => if a = b then .inf a else .nan
  | .inf a, _ => .inf a
  | _, .inf b => .inf b
  | .fin n1 m1 e1, .fin n2 m2 e2 =>
    let q := if e1 ≤ e2 then e1 else e2
    let v := scaled n1 m1 e1 q + scaled n2 m2 e2 q
    if v = 0 then .fin (n1 && n2 && m1 == 0 && m2 == 0) 0 q
    else .fin (decide (v < 0)) v.natAbs q

/-- Exact product. -/
def Num.mul : Num → Num → Num
  | .nan, _ => .nan
  | _, .nan => .nan
  | .inf a, .inf b => .inf (a != b)
  | .inf a, .fin n m _ => if m = 0 then .nan else .inf (a != n)
  | .fin n m _, .inf b => if m = 0 then .nan else .inf (n != b)
  | .fin n1 m1 e1, .fin n2 m2 e2 => .fin (n1 != n2) (m1 * m2) (e1 + e2)

/-- Ordering of two values that are not NaN: a < b. −0 and +0 are equal. -/
def Num.lt : Num → Num → Bool
  | .nan, _ => false
  | _, .nan => false
  | .inf a, .inf b => a && !b
  | .inf a, .fin _ _ _ => a
  | .fin _ _ _, .inf b => !b
  | .fin n1 m1 e1, .fin n2 m2 e2 =>
    let q := if e1 ≤ e2 then e1 else e2
    decide (scaled n1 m1 e1 q < scaled n2 m2 e2 q)

def Num.eqv (a b : Num) : Bool :=
  match a, b with
  | .nan, _ => false
  | _, .nan => false
  | a, b => !(Num.lt a b) && !(Num.lt b a)

def Num.le (a b : Num) : Bool := Num.lt a b || Num.eqv a b

def Num.isNan : Num → Bool
  | .nan => true
  | _ => false

def Num.isInf : Num → Bool
  | .inf _ => true
  | _ => false

def Num.isZero : Num → Bool
  | .fin _ m _ => m == 0
  | _ => false

def Num.isNeg : Num → Bool
  | .inf n => n
  | .fin n _ _ => n
  | .nan => false

/-- The larger value: NaN if either is NaN; +0 above −0 (05 R151). -/
def Num.max (a b : Num) : Num :=
  if a.isNan || b.isNan then .nan
  else if Num.lt a b then b
  else if Num.lt b a then a
  else if a.isNeg then b else a

/-- The smaller value, in the same way. -/
def Num.min (a b : Num) : Num :=
  if a.isNan || b.isNan then .nan
  else if Num.lt a b then a
  else if Num.lt b a then b
  else if a.isNeg then a else b

/-- An integer as a value. -/
def Num.ofInt (i : Int) : Num := .fin (decide (i < 0)) i.natAbs 0

/-! ## binary32 -/

def f32 (x : F32) : Num := fdecode fmt32 x.toNat
def toF32 (n : Num) : F32 := BitVec.ofNat 32 (fencode fmt32 .toInf n)
/-- Rounded to binary32 with overflow to the largest finite value (03 R72, 08 R260). -/
def toF32Sat (n : Num) : F32 := BitVec.ofNat 32 (fencode fmt32 .saturate n)
def qnan : F32 := 0x7FC00000#32
def fone : F32 := 0x3F800000#32

def fadd (a b : F32) : F32 := toF32 ((f32 a).add (f32 b))
def fsub (a b : F32) : F32 := toF32 ((f32 a).add (f32 b).negate)
def fmul (a b : F32) : F32 := toF32 ((f32 a).mul (f32 b))
/-- a × b + c, rounded once. -/
def ffma (a b c : F32) : F32 := toF32 (((f32 a).mul (f32 b)).add (f32 c))
/-- c − a × b, rounded once. -/
def ffnma (a b c : F32) : F32 := toF32 ((f32 c).add ((f32 a).mul (f32 b)).negate)
def fmin (a b : F32) : F32 := toF32 ((f32 a).min (f32 b))
def fmax (a b : F32) : F32 := toF32 ((f32 a).max (f32 b))
def fabs (a : F32) : F32 := toF32 (f32 a).mag
def fneg (a : F32) : F32 := toF32 (f32 a).negate

/-- −1, 0 or +1 as the sign of a; ±0 gives +0, NaN gives NaN (05 R150). -/
def fsign (a : F32) : F32 :=
  match f32 a with
  | .nan => qnan
  | n => if n.isZero then 0 else if n.isNeg then 0xBF800000#32 else fone

/-- Correctly rounded quotient of two values in a format. -/
def divNum (f : Fmt) (o : Ovf) (a b : Num) : Nat :=
  match a, b with
  | .nan, _ => f.nanBits
  | _, .nan => f.nanBits
  | .inf _, .inf _ => f.nanBits
  | .inf x, b => fencode f .toInf (.inf (x != b.isNeg))
  | .fin x _ _, .inf y => fencode f o (.fin (x != y) 0 0)
  | .fin x m1 e1, .fin y m2 e2 =>
    if m2 = 0 then (if m1 = 0 then f.nanBits else fencode f .toInf (.inf (x != y)))
    else
      let k := f.mb + 4 + bitLen m2
      let n := m1 <<< k
      fround f o (x != y) (n / m2) (e1 - e2 - k) (decide (n % m2 ≠ 0))

def fdiv (a b : F32) : F32 := BitVec.ofNat 32 (divNum fmt32 .toInf (f32 a) (f32 b))

/-- Integer square root by successive bits: `k` bits of the result. -/
def isqrtAux : Nat → Nat → Nat → Nat
  | 0, _, r => r
  | k + 1, n, r =>
    let c := r + 2 ^ k
    if c * c ≤ n then isqrtAux k n c else isqrtAux k n r

def isqrt (n : Nat) : Nat := isqrtAux ((bitLen n + 1) / 2) n 0

/-- Correctly rounded square root; of −0 it is −0, of other negative values NaN. -/
def sqrtNum (a : Num) : Nat :=
  match a with
  | .nan => fmt32.nanBits
  | .inf n => if n then fmt32.nanBits else fmt32.infBits
  | .fin n m e =>
    if m = 0 then fencode fmt32 .toInf (.fin n 0 0)
    else if n then fmt32.nanBits
    else
      let e' := if e % 2 = 0 then e else e - 1
      let m' := if e % 2 = 0 then m else m * 2
      let r := m' <<< 64
      let q := isqrt r
      fround fmt32 .toInf false q (e' / 2 - 32) (decide (q * q ≠ r))

def fsqrt (a : F32) : F32 := BitVec.ofNat 32 (sqrtNum (f32 a))

/-- Nearest integer, ties to even. -/
def roundInt (neg : Bool) (m : Nat) (e : Int) : Int :=
  let n :=
    if 0 ≤ e then m <<< e.toNat
    else
      let sh := (-e).toNat
      let n := m >>> sh
      let r := m % 2 ^ sh
      let half := 2 ^ (sh - 1)
      if half < r || (r == half && n % 2 == 1) then n + 1 else n
  if neg then -(n : Int) else n

/-- A value rounded to nearest even and saturated to [lo, hi]; NaN gives `nan` (05 R150, R152). -/
def satInt (lo hi nan : Int) : Num → Int
  | .nan => nan
  | .inf n => if n then lo else hi
  | .fin n m e => Max.max lo (Min.min hi (roundInt n m e))

/-- INT32 pattern of a value (05 R150 F2I). -/
def f2iBits (a : F32) : BitVec 32 := BitVec.ofInt 32 (satInt (-2147483648) 2147483647 (-2147483648) (f32 a))
/-- FP32 of an INT32 pattern (05 R150 I2F). -/
def i2fBits (a : BitVec 32) : F32 := toF32 (Num.ofInt a.toInt)

/-- BF16 and FP16 patterns widened to FP32: exact; NaN gives the quiet NaN (05 R151). -/
def widen (f : Fmt) (x : Nat) : F32 := toF32 (fdecode f x)
/-- FP32 narrowed to BF16 or FP16: nearest even, overflow and infinities saturate (05 R152, 03 R73). -/
def narrow (f : Fmt) (x : F32) : Nat := fencode f .saturate (f32 x)

/-- Whether a pattern is a positive, finite, normal binary32 (02 R49). -/
def goodScale (c : F32) : Bool :=
  let e := c.toNat / 2 ^ 23
  decide (1 ≤ e) && decide (e < 255)

/-- Order key of a pattern: neighbouring values differ by 1. -/
def ordKey (x : F32) : Int := if x.toNat < 2 ^ 31 then x.toNat else -((x.toNat : Int) - 2 ^ 31)

/-- An exact value by the FP32 value next to it toward zero, and whether it is that value; `fixed` marks a result that no bound applies to:
NaN, an infinity or an exact constant. -/
structure Near where
  lo    : F32
  exact : Bool := true
  fixed : Bool := false
deriving DecidableEq, Repr

def Near.of (x : F32) : Near := { lo := x, fixed := true }

/-- The magnitude pattern at or below m × 2^e, and whether it is exact. -/
def truncMag (f : Fmt) (m : Nat) (e : Int) : Nat × Bool :=
  if m = 0 then (0, true)
  else
    let top : Int := (bitLen m : Int) - 1 + e
    let emin : Int := 1 - (f.bias : Int)
    let ex := if top < emin then emin else top
    let q := ex - f.mb
    let r := if q ≤ e then (m <<< (e - q).toNat, true) else let sh := (q - e).toNat; (m >>> sh, decide (m % 2 ^ sh = 0))
    ((ex + f.bias - 1).toNat * 2 ^ f.mb + r.1, r.2)

/-- The value m × 2^e, or one strictly between m and m + 1 units with `sticky`. -/
def nearOf (neg : Bool) (m : Nat) (e : Int) (sticky : Bool) : Near :=
  let r := truncMag fmt32 m e
  let s := if neg then fmt32.signBit else 0
  if fmt32.infBits ≤ r.1 then .of (BitVec.ofNat 32 (s + fmt32.infBits))
  else { lo := BitVec.ofNat 32 (s + r.1), exact := r.2 && !sticky }

/-- A value just below the magnitude of `x` in magnitude. -/
def nearBelow (x : F32) : Near := { lo := x - 1, exact := false }

/-- A value the manual bounds to `k` units in the last place: the unit's own result where it lies within them of the exact value, else the
value next to it toward zero (05 R151, 13 R380). -/
def within (k : Nat) (cand : F32) (x : Near) : F32 :=
  if x.fixed || (f32 cand).isNan then x.lo
  else
    let d := if 2 ^ 31 ≤ x.lo.toNat then ordKey x.lo - ordKey cand else ordKey cand - ordKey x.lo
    if (if x.exact then -(k : Int) else 1 - (k : Int)) ≤ d ∧ d ≤ k then cand else x.lo

/-- a < b and a ≤ b of two FP32 patterns, false when either is NaN. -/
def fltb (a b : F32) : Bool := !(f32 a).isNan && !(f32 b).isNan && (f32 a).lt (f32 b)
def fleb (a b : F32) : Bool := !(f32 a).isNan && !(f32 b).isNan && (f32 a).le (f32 b)


end Sys2Proof.Machine
end

