-- ==== Sys2Proof/Machine/Sm3.lean ====
section
/-! DEFINITION. The SM3 digest the manual names for images, keys, logs and quotes (01 R40). The manual gives the name only;
the function is that of GB/T 32905 (PRESUMED, notes/assumptions/8.md). -/
namespace Sys2Proof.Machine

/-- Chaining value before the first block. -/
def sm3Iv : List (BitVec 32) :=
  [0x7380166F#32, 0x4914B2B9#32, 0x172442D7#32, 0xDA8A0600#32,
   0xA96F30BC#32, 0x163138AA#32, 0xE38DEE4D#32, 0xB0FB0E4E#32]

def sm3P0 (x : BitVec 32) : BitVec 32 := x ^^^ x.rotateLeft 9 ^^^ x.rotateLeft 17
def sm3P1 (x : BitVec 32) : BitVec 32 := x ^^^ x.rotateLeft 15 ^^^ x.rotateLeft 23

/-- Big-endian 32-bit words of a block. -/
def sm3Words : List Byte → List (BitVec 32)
  | a :: b :: c :: d :: t => BitVec.ofNat 32 (beNat [a, b, c, d]) :: sm3Words t
  | _ => []

/-- Message expansion; the list holds the words newest first. -/
def sm3Expand : Nat → List (BitVec 32) → List (BitVec 32)
  | 0, w => w
  | n + 1, w =>
    let g := fun k => w.getD k 0
    let x := sm3P1 (g 15 ^^^ g 8 ^^^ (g 2).rotateLeft 15) ^^^ (g 12).rotateLeft 7 ^^^ g 5
    sm3Expand n (x :: w)

/-- The eight chaining words of one round. -/
structure Sm3Regs where
  a : BitVec 32
  b : BitVec 32
  c : BitVec 32
  d : BitVec 32
  e : BitVec 32
  f : BitVec 32
  g : BitVec 32
  h : BitVec 32

/-- One round with message words w(j) and w(j + 4). -/
def sm3Round (j : Nat) (w w4 : BitVec 32) (r : Sm3Regs) : Sm3Regs :=
  let t : BitVec 32 := if j < 16 then 0x79CC4519#32 else 0x7A879D8A#32
  let a12 := r.a.rotateLeft 12
  let ss1 := (a12 + r.e + t.rotateLeft (j % 32)).rotateLeft 7
  let ss2 := ss1 ^^^ a12
  let ff := if j < 16 then r.a ^^^ r.b ^^^ r.c else (r.a &&& r.b) ||| (r.a &&& r.c) ||| (r.b &&& r.c)
  let gg := if j < 16 then r.e ^^^ r.f ^^^ r.g else (r.e &&& r.f) ||| (~~~ r.e &&& r.g)
  { a := ff + r.d + ss2 + (w ^^^ w4), b := r.a, c := r.b.rotateLeft 9, d := r.c,
    e := sm3P0 (gg + r.h + ss1 + w), f := r.e, g := r.f.rotateLeft 19, h := r.g }

/-- The rounds from `j` on, over the expanded words oldest first. -/
def sm3Rounds : Nat → Nat → List (BitVec 32) → Sm3Regs → Sm3Regs
  | 0, _, _, r => r
  | n + 1, j, ws, r => sm3Rounds n (j + 1) ws.tail (sm3Round j (ws.getD 0 0) (ws.getD 4 0) r)

/-- One block of 64 bytes. -/
def sm3Block (v : List (BitVec 32)) (blk : List Byte) : List (BitVec 32) :=
  let ws := (sm3Expand 52 (sm3Words blk).reverse).reverse
  let g := fun k => v.getD k 0
  let r := sm3Rounds 64 0 ws ⟨g 0, g 1, g 2, g 3, g 4, g 5, g 6, g 7⟩
  [r.a ^^^ g 0, r.b ^^^ g 1, r.c ^^^ g 2, r.d ^^^ g 3, r.e ^^^ g 4, r.f ^^^ g 5, r.g ^^^ g 6, r.h ^^^ g 7]

/-- The blocks of a padded message. -/
def sm3Blocks : Nat → List Byte → List (BitVec 32) → List (BitVec 32)
  | 0, _, v => v
  | n + 1, m, v => sm3Blocks n (m.drop 64) (sm3Block v (m.take 64))

/-- The 32 digest bytes of a message. -/
def sm3 (m : List Byte) : List Byte :=
  let l := m.length
  let z := (119 - l % 64) % 64
  let p := m ++ [0x80#8] ++ List.replicate z 0 ++ (leBytes 8 (8 * l)).reverse
  (sm3Blocks (p.length / 64) p sm3Iv).flatMap (fun w => (leBytes 4 w.toNat).reverse)

end Sys2Proof.Machine
end

