-- ==== Sys2Proof/Machine/Tbl.lean ====
section
/-! DEFINITION. Sparse tables keyed by a number, in one canonical form: keys strictly rising and no entry
equal to what an unlisted key reads as. Memory is the table of bytes (01 R39, 08 R232). -/
namespace Sys2Proof.Machine

/-- A sparse table: unlisted keys hold the table's default. -/
abbrev Tbl (α : Type) := List (Nat × α)

/-- The entry of key `k`, or `d`. -/
def tget {α : Type} (d : α) : Tbl α → Nat → α
  | [], _ => d
  | (j, a) :: t, k => if j = k then a else tget d t k

/-- Insert or replace the entry of `k`, keeping the keys rising. -/
def tput {α : Type} : Tbl α → Nat → α → Tbl α
  | [], k, v => [(k, v)]
  | (j, a) :: t, k, v =>
    if k < j then (k, v) :: (j, a) :: t
    else if k = j then (k, v) :: t
    else (j, a) :: tput t k v

/-- Remove the entry of `k`. -/
def tdel {α : Type} (t : Tbl α) (k : Nat) : Tbl α := t.filter (fun e => decide (e.1 ≠ k))

/-- Write `v` at `k`, keeping the canonical form for the default `d`. -/
def tset {α : Type} [DecidableEq α] (d : α) (t : Tbl α) (k : Nat) (v : α) : Tbl α :=
  if v = d then tdel t k else tput t k v

/-- Change the entry of `k` by a function. -/
def tmod {α : Type} [DecidableEq α] (d : α) (t : Tbl α) (k : Nat) (f : α → α) : Tbl α :=
  tset d t k (f (tget d t k))

/-- Keys strictly rising from a bound. -/
def tsorted {α : Type} : Nat → Tbl α → Bool
  | _, [] => true
  | lo, (j, _) :: t => decide (lo ≤ j) && tsorted (j + 1) t

/-- The canonical form of a table. -/
def twf {α : Type} [DecidableEq α] (d : α) (t : Tbl α) : Bool :=
  tsorted 0 t && t.all (fun e => decide (e.2 ≠ d))

/-- The table without the keys of `[lo, lo + len)`. -/
def tclear {α : Type} (t : Tbl α) (lo len : Nat) : Tbl α :=
  t.filter (fun e => decide (e.1 < lo) || decide (lo + len ≤ e.1))

/-- The entries of `[lo, lo + len)`, moved to start at `dst`. -/
def tslice {α : Type} (t : Tbl α) (lo len dst : Nat) : Tbl α :=
  (t.filter (fun e => decide (lo ≤ e.1) && decide (e.1 < lo + len))).map (fun e => (e.1 - lo + dst, e.2))

/-- Put every entry of a list. -/
def tputAll {α : Type} (t : Tbl α) : List (Nat × α) → Tbl α
  | [] => t
  | (k, v) :: l => tputAll (tput t k v) l

/-- Copy `len` keys from `src` to `dst` (unlisted ones become unlisted). -/
def tcopy {α : Type} (t : Tbl α) (src dst len : Nat) : Tbl α :=
  tputAll (tclear t dst len) (tslice t src len dst)

end Sys2Proof.Machine
end

