-- ==== Sys2Proof/Machine/State.lean ====
section
/-! DEFINITION. The state of one QF1152 module, as plain data, and the state right after reset. Every field's default
is the value the Reset column gives it (00 R12), or the value notes/assumptions/2.md names where the manual gives none. -/
namespace Sys2Proof.Machine

/-! ## Names -/

/-- Status codes (09 R301), in the order of their codes 0x00 to 0x0F. -/
inductive Status where
  | ok | bound | badOpcode | badStream | frozenSkipped | stepSkew | tiedUnsummed | hostLost
  | poisoned | overrun | busError | conservation | signature | partitionDown | stopped | notCommitted
deriving DecidableEq, Repr

/-- Start-up stages (17 R485), codes 0x0 to 0x8. -/
inductive Stage where
  | rom | fw | restore | selftest | hbm | links | ready | running | noimage
deriving DecidableEq, Repr

/-- FRM_PSTAT.STATE (06 R188). -/
inductive PState where
  | idle | running | late | halted | drained | down
deriving DecidableEq, Repr

/-- What a decision point has sent for the coming tick, with the throttle level sampled there (06 R165, R168): GO, or HOLD, which leaves the
tick without a frame. -/
inductive Verdict where
  | go (level : BitVec 4)
  | hold (level : BitVec 4)
deriving DecidableEq, Repr

/-- Stream states (09 R272), codes 0x00 to 0x05. -/
inductive SState where
  | idle | armed | running | halted | hostLost | faulted
deriving DecidableEq, Repr

/-- CFG_CLSTATg.STATE (07 R229), codes 0x0 to 0x6. -/
inductive ClState where
  | unassigned | assigned | spare | drained | loading | failed | routerFault
deriving DecidableEq, Repr

/-- States of a board or peer port (08 R267, 15 R438), codes 0x0 to 0x4; HLK uses the first three (10 R322). -/
inductive PortState where
  | down | training | up | upHalf | disabled
deriving DecidableEq, Repr

/-- CFG_STAT.PHASE (07 R229), codes 0x0 to 0x6. -/
inductive LoadPhase where
  | idle | verify | wait | drain | apply | done | failed
deriving DecidableEq, Repr

/-- CFG_RPRSTAT.PHASE (07 R229), codes 0x0 to 0x5. -/
inductive RepairPhase where
  | idle | waitTick | copy | apply | done | failed
deriving DecidableEq, Repr

/-- Page states (08 R244), codes 0x0 to 0x7. -/
inductive PageState where
  | unmapped | stacked | board | bothClean | bothDirty | promoting | evicting | relocating
deriving DecidableEq, Repr

/-- Why the machine has stopped. No meaning of this model ends in a fault; the type is here for the interface. -/
inductive Fault where
  /-- Raised by no command: the manual gives every command an effect. Safe. -/
  | unreachable
deriving DecidableEq, Repr

/-- Why a command has no meaning. -/
inductive Refusal where
  /-- An arm of `exec` whose meaning is not written. Raised by none once every arm is. Safe. -/
  | notModelled (mnemonic : String)
deriving DecidableEq, Repr

/-! ## Memory -/

/-- The memory of the device address map (08 R232) as a canonical list of bytes; unlisted addresses read 0
(DESIGN CHOICE, notes/assumptions/3.md). -/
abbrev Mem := List Host.Cell

/-! ## Management, recorder, power -/

/-- MGT registers of one die (01 R41). -/
structure Mgt where
  idfp    : W64 := 0
  breaks  : BitVec 16 := 0
  ccwOk   : Bool := false
  cwOk    : Bool := false
  alive   : Bool := false
  errVal  : Bool := false
  errAddr : BitVec 48 := 0
  scratch : Tbl W64 := []
  /-- A break of that direction, or a failure of the die's controller, has been met since reset, also before the flags are first set. -/
  cwCut   : Bool := false
  ccwCut  : Bool := false
  dead    : Bool := false
deriving DecidableEq, Repr

/-- One slot of the event recorder (16 R456); the key is in `code` and `source`. -/
structure EvSlot where
  valid   : Bool := false
  code    : BitVec 16 := 0
  source  : BitVec 16 := 0
  calset  : Bool := false
  limited : Bool := false
  count   : W64 := 0
  vmin    : BitVec 32 := 0
  vmax    : BitVec 32 := 0
  first   : W64 := 0
  last    : W64 := 0
  dropped : BitVec 32 := 0
  bins    : Tbl (BitVec 32) := []
  /-- The 1 ms interval the rate limit counts in, and the occurrences admitted in it (R457). -/
  ivl     : Nat := 0
  ivlCnt  : Nat := 0
deriving DecidableEq, Repr

/-- One occurrence kept in the staging list before the recorder is restored (16 R460). -/
structure Occ where
  code   : Nat
  source : Nat
  value  : Nat
  time   : Nat
deriving DecidableEq, Repr

/-- EVR registers and slots (16 R454 to R465). -/
structure Evr where
  slots    : Tbl EvSlot := []
  restored : Bool := false
  staging  : List Occ := []
  cstatus  : Status := .ok
  dbusy    : Bool := false
  dstatus  : Status := .ok
  dumpNext : Nat := 0
  lost     : BitVec 32 := 0
  token    : BitVec 48 := 0
  nonce0   : W64 := 0
  nonce1   : W64 := 0
  sel      : BitVec 12 := 0
  dumpAddr : BitVec 48 := 0
  clears   : BitVec 32 := 0
  rate     : Tbl (BitVec 16) := []
  /-- EVR_CTL.CLEAR has been written and Bubarus has not yet processed the token (R462). -/
  clearReq : Bool := false
  snapSeq  : Nat := 0
  /-- The flash copy that holds the snapshot in force, B when true (R460). -/
  snapCopy : Option Bool := none
deriving DecidableEq, Repr

/-- One entry of the measurement log (17 R490). -/
structure LogEntry where
  index  : Nat
  kind   : Nat
  result : Status
  time   : Nat
  digest : BitVec 256
  detail : W64
deriving DecidableEq, Repr

/-- PWR_TEMPd of one die (17 R493). -/
structure Temp where
  /-- A junction temperature has been measured since start. -/
  met  : Bool := false
  tmax : BitVec 16 := 0
  hbm  : BitVec 16 := 0
  tj   : BitVec 16 := 0
deriving DecidableEq, Repr

/-- Power, start-up, identity and attestation (17). -/
structure Pwr where
  /-- All rails in regulation; PWR_GOOD is released (R475). -/
  railsUp   : Bool := true
  starting  : Bool := false
  /-- No restart until P42V has fallen below 30 V (R476). -/
  latched   : Bool := false
  /-- THERM_TRIP_N asserted (R471). -/
  tripped   : Bool := false
  /-- MOD_RESET_N asserted, or a deassertion ignored (R477). -/
  inReset   : Bool := false
  /-- A deassertion was ignored: only a fresh assertion ends the reset (R477). -/
  lockedOut : Bool := false
  stage     : Stage := .rom
  floor     : BitVec 4 := 0
  qstatus   : Status := .ok
  fwstatus  : Status := .ok
  qbusy     : Bool := false
  /-- PWR_CTL.FWUPD has been written and the image is not yet verified (R488). -/
  fwReq     : Bool := false
  lp        : BitVec 4 := 0
  idok      : Bool := false
  pubKey    : BitVec 512 := 0
  bootcopy  : Bool := false
  fwSeq     : W64 := 0
  supportEnd : W64 := 0
  limit     : BitVec 11 := 0x5DC
  mv        : BitVec 16 := 0
  /-- P42V in mV as last met, which no reset clears; PWR_INPUT.MV shows it once Bubarus runs (notes/assumptions/71.md). -/
  p42v      : BitVec 16 := 42000
  /-- The sequencer's bias supply, from which the thermal comparator and its latch run (R471; notes/assumptions/71.md). -/
  bias      : Bool := true
  ma        : BitVec 16 := 0
  pmax      : BitVec 16 := 0
  pavg      : BitVec 16 := 0
  alert     : BitVec 6 := 0
  alertEn   : BitVec 6 := 0x3E
  attreq    : BitVec 48 := 0
  fwsrc     : BitVec 48 := 0
  log       : List LogEntry := []
  logTotal  : BitVec 32 := 0
  logDigest : BitVec 256 := 0
  temps     : Tbl Temp := []
  guardHeld : Bool := false
  guardEnd  : Nat := 0
  ppsOut    : Bool := false
  ppsOutEnd : Nat := 0
  smbAddr   : W64 := 0
  smbData   : W64 := 0
  uartCause : Nat := 0
  /-- Time from which Bubarus restarts after an uncorrectable error in its memory (16 R448). -/
  mpDown    : Option Nat := none
deriving DecidableEq, Repr

/-! ## Ledger -/

/-- One link direction's credits (16 R440, R464). -/
structure LinkDir where
  total    : BitVec 16 := 0
  free     : BitVec 16 := 0
  occ      : BitVec 16 := 0
  inflight : BitVec 15 := 0
  held     : Bool := false
deriving DecidableEq, Repr

/-- DMA pool and mover of one die (16 R440, R446). -/
structure DmaPool where
  held   : Nat := 0
  frozen : Bool := false
  /-- Free minus (total minus held): 0 unless the pool is out of balance. -/
  skew   : Int := 0
deriving DecidableEq, Repr

/-- Work that waits for Bubarus's restart (16 R448, R449). -/
inductive MpWork where
  | repair (cluster : Nat) (failed : Bool)
  | retire (stack pch : Nat)
deriving DecidableEq, Repr

/-- AUD registers of LD (16 R464). -/
structure Aud where
  /-- What AUD_ECCPOL and the repair policy have called for while Bubarus restarts (R448, R449). -/
  due        : List MpWork := []
  target     : BitVec 5 := 0
  pool       : BitVec 4 := 0
  mismatches : BitVec 32 := 0
  lastPool   : BitVec 4 := 0
  lastWhere  : BitVec 8 := 0
  cethr      : BitVec 16 := 0x0100
  cewin      : BitVec 16 := 0x0E10
  scrub      : BitVec 8 := 0x18
  sramrep    : Bool := true
  ueret      : Bool := true
  cond       : BitVec 4 := 0
  up         : W64 := 0
  down       : W64 := 0
  excl       : W64 := 0
  nocond     : W64 := 0
  linksInit  : Bool := false
  links      : Tbl LinkDir := []
  dma        : Tbl DmaPool := []
  /-- Times of the correctable errors of the last CEWIN seconds, by the source of code 0x0022 (R449). -/
  ceTimes    : Tbl (List Nat) := []
deriving DecidableEq, Repr

/-! ## Frames and partitions -/

/-- One lock group (06 R163, R188; 15 R435). -/
structure LockGroup where
  en      : Bool := false
  xmod    : Bool := false
  hasSeq  : Bool := false
  next    : Nat := 0
  skew    : BitVec 16 := 0
  level   : BitVec 4 := 0
  /-- Number of the next group base tick; the last one is one less (R163, R188). -/
  index   : Nat := 0
  /-- Level sampled at the decision point of the next group base tick, once that has passed (R165). -/
  samp    : Option (BitVec 4) := none
  /-- Own level sampled at the last group base tick (R166). -/
  own1    : BitVec 4 := 0
  /-- Level announced by the time master for the next group base tick, if one has been heard. -/
  ann     : Option (BitVec 4) := none
  /-- On the time master: 16 × index + level as last reported by each member module, and the level of the next tick; on any
  other module: the last level announced. -/
  memLvl  : Tbl Nat := []
  plan1   : BitVec 4 := 0
deriving DecidableEq, Repr

/-- FRM registers of LD (06 R188), the module epoch (R164) and calendar time (R161). -/
structure Frm where
  period : BitVec 24 := 0
  cal    : W64 := 0
  calTb  : W64 := 0
  calSet : Bool := false
  throt  : Tbl (BitVec 4) := []
  epoch  : Option Nat := none
  groups : Tbl LockGroup := []
deriving DecidableEq, Repr

/-- One program of a SCHEDULES block (07 R204); offsets are device addresses. -/
structure Program where
  prog      : Nat
  depth     : Nat
  footprint : Nat
  slots     : W64
  itab      : Nat
  fplist    : Nat
  /-- First byte of the SCHEDULES section. -/
  sect      : Nat := 0
deriving DecidableEq, Repr

/-- One inter-stage queue (06 R182, 07 R199). -/
structure Queue where
  c       : BitVec 16 := 0
  prod    : Nat := 0
  cons    : Nat := 0
  entry   : Nat := 0
  bufline : Nat := 0
  credits : Nat := 0
  announced : Nat := 0
  held    : Nat := 0
  /-- Announcements and credit returns sent and not yet arrived. -/
  annFly  : Nat := 0
  crdFly  : Nat := 0
deriving DecidableEq, Repr

/-- One route record (07 R195), segments as 32-bit words. -/
structure Route where
  src  : Nat
  dst  : Nat
  segs : List (BitVec 32)
deriving DecidableEq, Repr

/-- An occupied concurrency slot (06 R168): the command bound to it and how far its program is. -/
structure SlotUse where
  slot   : Nat
  stream : Nat
  seq    : BitVec 16
  prog   : Nat
  depth  : Nat
  k      : Nat
  /-- Frames started since admission, the admission frame included (R176). -/
  started : Nat := 0
  busErr  : Bool := false
  badOp   : Bool := false
  poison  : Bool := false
  /-- A write to host memory failed after a loss (10 R318). -/
  hostLost : Bool := false
  /-- A fetch of this program has words on a cluster cut short by a failure (07 R224). -/
  cut     : Bool := false
deriving DecidableEq, Repr

/-- A repair of one cluster (07 R221). -/
structure Repair where
  old    : Nat
  spare  : Option Nat
  failed : Bool
  /-- 1 waiting for the tick, 2 drained and copying, 4 applied, waiting for the GO of step 5. -/
  step   : Nat := 1
  after  : Nat := 0
deriving DecidableEq, Repr

/-- One partition: what the bit-stream in force declares of it, and its controller (06, 07). -/
structure Part where
  defined  : Bool := false
  home     : Nat := 0
  clusters : List Nat := []
  seed     : W64 := 0
  /-- Width masks per position, 64 each (07 R194). -/
  widths   : List (List (BitVec 16)) := []
  mode     : Bool := false
  stackMask : BitVec 16 := 0
  hbmQuota : Nat := 0
  boardQuota : Nat := 0
  ptBase   : BitVec 48 := 0
  mult     : BitVec 8 := 0
  locked   : Bool := false
  lgrp     : BitVec 4 := 0
  programs : List Program := []
  routes   : List Route := []
  queues   : Tbl Queue := []
  serial   : W64 := 0
  state    : PState := .idle
  consec   : Nat := 0
  admitted : BitVec 9 := 0
  next     : Nat := 0
  frame    : W64 := 0
  halts    : BitVec 32 := 0
  overruns : BitVec 32 := 0
  slackMin : BitVec 32 := 0xFFFFFFFF
  slackLast : BitVec 32 := 0
  gapLevel : BitVec 4 := 0
  gap      : BitVec 32 := 0
  /-- The admission cut of the coming tick has passed (R167). -/
  cut      : Bool := false
  /-- What has been sent for the coming tick (R165, R168). -/
  verdict  : Option Verdict := none
  /-- The last tick started a frame, which a gap stretches (R165). -/
  ticked   : Bool := false
  /-- A frame has been started; its clusters report frame-done through `Cluster.frameOn`. -/
  running  : Bool := false
  /-- Tick of the last frame, and arrival of its last cluster frame-done. -/
  lastTick : Nat := 0
  doneAt   : Nat := 0
  slots    : List SlotUse := []
  /-- Next stream of the rotating start (R173). -/
  rot      : Nat := 0
  /-- RESUME was written at this time (R180). -/
  resumeAt : Option Nat := none
  /-- Drain requested by a load, in effect at the next tick (07 R214). -/
  drainReq : Bool := false
  /-- The tick at which a drain request of its clusters takes effect (04 R125). -/
  drainAt  : Nat := 0
  repairs  : List Repair := []
  /-- Clusters replaced since the load, oldest first: old and new (R221 step 3). -/
  relocs   : List (Nat × Nat) := []
  /-- Number of the first group base tick at which the partition may tick (R163). -/
  firstIdx : Nat := 0
  /-- When it took effect in a lock group whose sequence no announcement had given yet (R163, 15 R435). -/
  joinAt   : Option Nat := none
  /-- Commands admitted at step 1 of a repair, to be poisoned at step 5: stream, sequence number (R224). -/
  doomed   : List (Nat × BitVec 16) := []
  /-- PARTITION_DOWN to be entered at the next tick (07 R226, R227). -/
  goDown   : Bool := false
  -- ledger (16 R440, R464)
  redTotal : Nat := 0
  redFree  : Nat := 0
  pageTotal : Nat := 0
  pageFree : Nat := 0
  credTotal : Nat := 0
  credFree : Nat := 0
  dmaHeld  : Nat := 0
  cons     : Bool := false
  consPool : BitVec 4 := 0
  audits   : BitVec 32 := 0
  diff     : W64 := 0
  /-- First tick from which the partition cannot admit frames for a cause of 16 R450. -/
  downFrom : Option Nat := none
  -- memory (08 R266)
  puseH    : BitVec 32 := 0
  puseB    : BitVec 32 := 0
  refused  : BitVec 32 := 0
  deferred : BitVec 32 := 0
  lateMax  : BitVec 32 := 0
  lateCnt  : BitVec 32 := 0
  lateHist : Tbl (BitVec 32) := []
deriving DecidableEq, Repr

/-! ## Streams -/

/-- Where an admitted command stands. -/
inductive CmdPhase where
  /-- Admitted, its own step not yet carried out. -/
  | admitted
  /-- Under way in the unit that carries it out. -/
  | started
  /-- Its work has ended with this status, reason and result; it completes at the next tick with GO. -/
  | ended (st : Status) (reason : BitVec 8) (result : W64)
  /-- Completed at this tick; its record waits to be written (09 R299). -/
  | complete (st : Status) (reason : BitVec 8) (result : W64) (tick : Nat)
deriving DecidableEq, Repr

/-- An admitted command of a stream (09 R285): its 64 bytes and where it stands. -/
structure Cmd where
  bytes  : List Byte
  seq    : BitVec 16
  aframe : BitVec 32
  tick   : Nat
  /-- Its place in the order of admissions (06 R173). -/
  adm    : Nat := 0
  /-- The descriptors of a DMA command as read at its fetch (11 R329, R330): address and 64 bytes. -/
  descs  : List (Nat × List Byte) := []
  phase  : CmdPhase := .admitted
  /-- Overruns and held ticks during its lifetime (R288). -/
  o      : Nat := 0
  /-- Time at which its record began to wait for ring space (R299). -/
  ringWait : Option Nat := none
  /-- Pins it took (08 R252) and page references (R253). -/
  pins   : List (Nat × Bool) := []
  refs   : Nat := 0
  /-- Its footprint has reached the managing engines (R252). -/
  pinned : Bool := false
  /-- A hint under way (08 R259): pages refused, deferred, done, and the pages not settled yet. -/
  hRef   : Nat := 0
  hDef   : Nat := 0
  hDone  : Nat := 0
  hWait  : List Nat := []
  hCopy  : Bool := false
  /-- A WAIT: the counter value read at its acceptance, and whether its timeout had passed (R294). -/
  waitVal : W64 := 0
  timedOut : Bool := false
  /-- A loss of the host found a write of it sent and not acknowledged (10 R317). -/
  lost   : Bool := false
deriving DecidableEq, Repr

/-- The copy of a command fetched and not yet admitted (09 R283): its bytes, and the overruns and held ticks at which it would have been
admitted (06 R185); of a DMA command also its descriptors, and why one of them fails (11 R329). -/
structure Fetched where
  bytes  : List Byte
  o      : Nat := 0
  descs  : List (Nat × List Byte) := []
  refuse : Option (Status × Nat) := none
deriving DecidableEq, Repr

/-- A completion record sent to host memory whose acknowledgement is outstanding (10 R319): SEQ, whether it wants an interrupt, its 32
bytes, and the decision point after which it was written (09 R300). -/
structure Flying where
  seq   : BitVec 16
  irq   : Bool
  bytes : List Byte
  batch : Nat := 0
deriving DecidableEq, Repr

/-- What RELOAD rereads of an entry, to apply from the next admission window (09 R276); `credits` is the limit of admission until then. -/
structure StreamCtl where
  prio    : BitVec 2
  gang    : BitVec 16
  credits : BitVec 8
  msixEn  : Bool
  vector  : BitVec 11
deriving DecidableEq, Repr

/-- One stream: what the module keeps of its table entry, and its fetched and admitted commands (09). -/
structure Stream where
  state   : SState := .idle
  inRange : Bool := false
  part    : BitVec 6 := 0
  pinned  : Bool := false
  k       : BitVec 2 := 0
  prio    : BitVec 2 := 0
  gang    : BitVec 16 := 0
  credits : BitVec 8 := 0
  msixEn  : Bool := false
  vector  : BitVec 11 := 0
  cring   : W64 := 0
  clog2   : Nat := 0
  pring   : W64 := 0
  plog2   : Nat := 0
  head    : BitVec 16 := 0
  nseq    : BitVec 16 := 0
  cph     : Bool := false
  rph     : Bool := false
  tail    : BitVec 16 := 0
  ptail   : BitVec 16 := 0
  phead   : BitVec 16 := 0
  error   : BitVec 16 := 0
  lseq    : BitVec 16 := 0
  completed : BitVec 32 := 0
  /-- Copies of commands fetched and not yet admitted, from HEAD on (R283). -/
  fetched : List Fetched := []
  /-- Tail covered by a doorbell seen before the last admission cut (R172). -/
  cutTail : BitVec 16 := 0
  rereads : Nat := 0
  /-- Time of the last reading that failed (09 R284). -/
  readAt : Nat := 0
  /-- Re-reads exhausted: fetching waits for the next doorbell (R284). -/
  stuck   : Bool := false
  /-- The next read is a re-read 1 µs after a failed check (R284). -/
  retrying : Bool := false
  cmds    : List Cmd := []
  /-- Frames of the partition started since the command at the head first reached it (R294). -/
  waited  : Option Nat := none
  /-- Records in the held-record area, and how many of them still wait for the acknowledgement of their ring copies;
  records sent from the area stand first in `inflight` (10 R319, R321). -/
  held    : Nat := 0
  heldUnacked : Nat := 0
  /-- Whether each of those is an interrupt cause (09 R300, 10 R321). -/
  heldIrq : List Bool := []
  /-- Data writes to host memory sent and not acknowledged, oldest first (10 R313): SEQ of the command, how many, and how many of
  the records in `inflight` were sent before them. -/
  unacked : List (BitVec 16 × Nat × Nat) := []
  /-- Completion records sent to host memory whose acknowledgement is outstanding, oldest first (10 R319). -/
  inflight : List Flying := []
  /-- Number of the last decision point of the stream, and those after which records that make a cause have been written and not yet
  all acknowledged (R300). -/
  batch   : Nat := 0
  irqBatches : List Nat := []
  /-- An interrupt cause has arisen and is not yet raised (R300). -/
  irqWant : Bool := false
  irqDone : Bool := false
  /-- Since when the next held record has waited for room in its ring (R299; 10 R321). -/
  heldWait : Option Nat := none
  /-- What RELOAD has taken up and the next admission window applies (R276). -/
  reload  : Option StreamCtl := none
  /-- Last use of its cache entry, 0 when not cached (R270). -/
  cached  : Nat := 0
deriving DecidableEq, Repr

/-- STM registers (09 R302). -/
structure Stm where
  tableBase : BitVec 48 := 0
  argBase   : BitVec 48 := 0
  status    : Status := .ok
  stream    : BitVec 14 := 0
  sinfo     : W64 := 0
  streams   : Tbl Stream := []
  useClock  : Nat := 0
  /-- Admissions made so far. -/
  adms      : Nat := 0
deriving DecidableEq, Repr

/-! ## Host link -/

/-- A request that a retrain of the host link holds (10 R314): the host's own, or a peer's or the SMBus master's to host memory. -/
inductive HeldReq where
  | host (r : HostReq)
  | peer (r : PeerIn)
  | smbWrite (addr : Nat) (val : W64)
  | smbRead (addr : Nat)
deriving DecidableEq, Repr

/-- HLK registers (10 R322) and what the link holds. -/
structure Hlk where
  winBase  : BitVec 47 := 0
  width    : BitVec 2 := 0
  epoch    : BitVec 16 := 0
  cause    : BitVec 4 := 0
  lanes    : BitVec 4 := 0
  needhs   : Bool := false
  state    : PortState := .down
  holdBase : BitVec 48 := 0
  losses   : BitVec 16 := 0
  retrains : BitVec 16 := 0
  replays  : BitVec 32 := 0
  errVal   : Bool := false
  errAddr  : BitVec 48 := 0
  irqEn    : Bool := false
  irqVec   : BitVec 11 := 0
  lossTime : W64 := 0
  /-- MSI-X vectors raised, newest first, and the data or abort of the last read answered to the host. -/
  msix     : List (BitVec 11) := []
  reply    : List Byte := []
  aborted  : Bool := false
  /-- Writes to host memory that an engine has made and its row has not yet entered in the stream of its command (10 R313). -/
  sent     : Nat := 0
  /-- When the link left UP, and when the retrain began, until it is up again or lost (R314, R316). -/
  downAt   : Option Nat := none
  trainAt  : Option Nat := none
  /-- Requests it holds, oldest first (R314). -/
  heldReqs : List HeldReq := []
deriving DecidableEq, Repr

/-! ## Configuration -/

/-- A queued load (07 R212). -/
structure LoadReq where
  src    : Nat
  len    : Nat
  force  : Bool := false
  /-- The stream and sequence number of the LOAD_BITSTREAM that carries it. -/
  cmd    : Option (Nat × BitVec 16) := none
  flash  : Bool := false
  part   : Option Nat := none
  phase  : LoadPhase := .idle
  /-- VERIFY began before a repair was asked for, which does not go ahead of it (07 R212). -/
  begun  : Bool := false
  /-- APPLY has done its work; DONE is next. -/
  applied : Bool := false
deriving DecidableEq, Repr

/-- An entry of the repair record (07 R210). -/
inductive RepEntry where
  | badColumn (array column : Nat)
  | failedCluster (g : Nat)
  | retiredPch (stack pch : Nat)
  | lanes (port : Nat) (mask : BitVec 8)
  | trim (block index : Nat) (value : BitVec 32)
deriving DecidableEq, Repr

/-- A range of the STREAMS section in force (07 R201). -/
structure SRange where
  first  : Nat
  count  : Nat
  part   : Nat
  pinned : Bool
  k      : BitVec 2
deriving DecidableEq, Repr

/-- CFG registers and what the loads in force have set (07 R229). -/
structure Cfg where
  force    : Bool := false
  src      : BitVec 48 := 0
  len      : BitVec 33 := 0
  status   : Status := .ok
  reason   : BitVec 8 := 0
  part     : BitVec 8 := 0
  phase    : LoadPhase := .idle
  offset   : BitVec 32 := 0
  queue    : List LoadReq := []
  rprSpare : BitVec 10 := 0x3FF
  rprClus  : BitVec 10 := 0
  rprStatus : Status := .ok
  rprPhase : RepairPhase := .idle
  rprLost  : Bool := false
  rprFailed : Bool := false
  rprOld   : BitVec 10 := 0
  rprNew   : BitVec 10 := 0
  rprLines : BitVec 28 := 0
  rtfVal   : Bool := false
  rtfRouter : BitVec 10 := 0
  recSeq   : Nat := 0
  /-- The flash copy in force, B when true (R210). -/
  recCopy  : Option Bool := none
  repRec   : List RepEntry := []
  /-- CFG_CTL.KEYREG has been written and the key record is not yet processed (R208). -/
  keyReq   : Bool := false
  /-- Customer keys, slot 0 to 3 (R208); none: empty. -/
  keys     : Tbl (Option (BitVec 512)) := []
  spares   : List Nat := []
  auto     : Bool := false
  parlim   : Nat := 0
  xmod     : BitVec 16 := 0
  ranges   : List SRange := []
  /-- Routes of every partition, PART 0xFF (R195). -/
  routes   : List Route := []
  /-- Self-test's bad columns, merged with the record (03 R83): array, physical column. -/
  badCols  : List (Nat × Nat) := []
  bootRange : Option Nat := none
  routerBad : List Nat := []
deriving DecidableEq, Repr

/-! ## Memory tiers -/

/-- What a migration engine copies a page for (08 R238). -/
inductive CopyKind where
  | promote | evict | relocate
  /-- COPY hint: destination page, and the stream and SEQ of its command. -/
  | hint (dst stream : Nat) (seq : BitVec 16)
deriving DecidableEq, Repr

/-- A copy running or waiting at an engine; `retry` is set when it waits for a frame (08 R238, R249). -/
structure PageCopy where
  part  : Nat
  page  : Nat
  kind  : CopyKind
  frame : Nat := 0
  retry : Bool := false
  /-- A victim has been chosen for it (R249). -/
  claimed : Bool := false
  /-- An eviction that began from STACKED (R247). -/
  wasStacked : Bool := false
  /-- 64-byte lines an expander returned poisoned, by index (R265). -/
  bad   : List Nat := []
  start : Nat := 0
  /-- Since when a COPY hint's write has waited on a page that leaves (R255, event 0x0207). -/
  heldAt : Option Nat := none
deriving DecidableEq, Repr

/-- Kinds of deferrable requests (08 R247). -/
inductive ReqKind where
  | evict | dropb | unmap
deriving DecidableEq, Repr

/-- A deferred request (08 R248). -/
structure Deferred where
  part : Nat
  page : Nat
  kind : ReqKind
deriving DecidableEq, Repr

/-- One migration engine and the MEM registers of its die (08 R266). -/
structure Mig where
  pch     : BitVec 5 := 0
  stack   : BitVec 2 := 0
  running : List PageCopy := []
  waiting : List PageCopy := []
  dlist   : List Deferred := []
  /-- Rotating pseudo-channel pointer per stack of the die (R497). -/
  ptr     : Tbl Nat := []
  /-- Retired pseudo-channels, key 32 × stack of the die + pseudo-channel; `true` once out of the map (R262). -/
  retired : Tbl (Option Bool) := []
  /-- Invalidations outstanding: partition, page, clusters still to acknowledge, old stacked frame and board frame to free (R121). -/
  inval   : List (Nat × Nat × List Nat × Option Nat × Option Nat) := []
deriving DecidableEq, Repr

/-- One board-memory port (08 R267). -/
structure Bmp where
  enable  : Bool := true
  width   : BitVec 2 := 0
  lanes   : BitVec 8 := 0
  state   : PortState := .down
  frames  : BitVec 21 := 0
  retrains : BitVec 16 := 0
  poison  : BitVec 16 := 0
  replays : BitVec 32 := 0
  latMax  : BitVec 16 := 0
  /-- When the port left UP, until it is up again (R264). -/
  downAt  : Option Nat := none
deriving DecidableEq, Repr

/-! ## Clusters and cores -/

/-- A TLB entry (04 R120): partition, page, the page's location and whether it is marked clean (08 R245). -/
structure TlbEntry where
  part  : Nat
  page  : Nat
  base  : Nat
  clean : Bool
deriving DecidableEq, Repr

/-- One cluster: CFG_CLSTATg, its sequencer, bank map and TLB (04, 07 R229). -/
structure Cluster where
  state   : ClState := .unassigned
  part    : BitVec 6 := 0
  parity  : BitVec 16 := 0
  /-- Column masks of its 64 arrays as presented (03 R81); empty: none loaded. -/
  widths  : List (BitVec 16) := []
  /-- Bank map bytes, bank 0 first; empty: every bank FREE (04 R118). -/
  banks   : List Byte := []
  tlb     : List TlbEntry := []
  frameOn : Bool := false
  drainReq : Bool := false
  failed  : Bool := false
deriving DecidableEq, Repr

/-- The words of a schedule (05 R127), decoded. -/
inductive Word where
  | mac (f : MacArgs)
  | drain (f : DrainArgs)
  | vec (opc : BitVec 7) (x : VArgs)
  | mov (mop : BitVec 4) (f : MovArgs)
  | syn (sop : BitVec 4) (f : SynArgs)
  | reserved
deriving DecidableEq, Repr

/-- A word of a core's stream with its header; `rep` counts issues made; `dead` marks a slot whose USE clashed (07 R205). -/
structure SWord where
  h    : WordHdr
  w    : Word
  rep  : Nat := 0
  dead : Bool := false
  /-- Scheduled cycle of its first issue: its OFFSET, or its predecessor's when that is higher (R129). -/
  eff  : Nat := 0
  /-- Bytes its earlier repetitions have written (a drain word, R136). -/
  out  : Nat := 0
  /-- A QPUT that has taken its credits and waits for drains (R144). -/
  got  : Bool := false
  /-- Position in the core's movement stream (04 R108). -/
  idx  : Nat := 0
deriving DecidableEq, Repr

/-- One column of weights in an array's registers (03 R61, R65): its encoding, element codes along the reduction, and
fine scale. -/
structure WCol where
  enc    : BitVec 2 := 0
  codes  : List (BitVec 6) := []
  scale  : Byte := 0
  /-- The parity bit of each weight register, as written with the weights (R84). -/
  par    : List Bool := []
deriving DecidableEq, Repr

/-- What the accumulator keeps with one row of one array (03 R71, R136). -/
structure RowInfo where
  started : Bool := false
  arrg    : BitVec 2 := 0
  split   : BitVec 6 := 0
  side    : Bool := false
  aenc    : BitVec 2 := 0
  wenc    : BitVec 2 := 0
  pmode   : BitVec 2 := 0
  elems   : Nat := 0
  poison  : BitVec 16 := 0
  sat     : BitVec 16 := 0
  parity  : Bool := false
  xpose   : Bool := false
  reblock : Bool := false
  /-- Cycle in which the last partial sum of its tile enters the row, and the first after an issued drain has read it (R64, R74). -/
  sumAt   : Nat := 0
  readAt  : Nat := 0
deriving DecidableEq, Repr

/-- A SIGNAL increment, QPUT announcement or QREL return on its way (05 R143, R144). -/
inductive Sent where
  | token (target : Nat) (ctr : BitVec 4) (val : BitVec 16)
  | announce (part qid : Nat) (val : BitVec 16)
  | credit (part qid : Nat) (val : BitVec 16)
deriving DecidableEq, Repr

/-- A drain or fetch in flight (04 R108, R111). -/
structure Move where
  mop  : BitVec 4
  h    : WordHdr
  f    : MovArgs
  /-- Its movement base, as the frame of the word has it (05 R138). -/
  mb   : W64 := 0
  /-- Place of the word in the program of its sequencer. -/
  idx  : Nat := 0
  /-- The page it waited on was not resident (08 R255). -/
  late : Bool := false
  /-- When the write found its page EVICTING or RELOCATING (08 R255, event 0x0207). -/
  heldAt : Option Nat := none
  /-- Translations its accesses have taken from the TLB: page number and physical address (04 R120, R121). -/
  trans : List (Nat × Nat) := []
  /-- Link directions of which it holds a credit while it is in flight (01 R24). -/
  links : List Nat := []
deriving DecidableEq, Repr

/-- What a core sequencer has still to read of one slot's words (04 R122, 07 R205): address of the next word, words left,
highest OFFSET so far, and whether the slot's USE clashed. -/
structure Feed where
  addr  : Nat
  left  : Nat
  place : Nat := 0
  dead  : Bool := false
deriving DecidableEq, Repr

/-- One core (04, 05): registers, arrays, conversion unit, run-ahead engines and sequencer. -/
structure Core where
  v     : Tbl F32 := []
  vgen  : Nat := 0
  m     : Tbl (BitVec 256) := []
  sreg  : Tbl W64 := []
  f     : BitVec 8 := 1
  mb    : Tbl W64 := []
  tok   : Tbl (BitVec 16) := []
  act   : Tbl WCol := []
  bg    : Tbl WCol := []
  acc   : Tbl F32 := []
  rows  : Tbl RowInfo := []
  maxr  : Tbl F32 := []
  gens  : Tbl W64 := []
  /-- A conversion is running; its output becomes visible at CONVERSION_DONE (05 R153). -/
  conv  : List (Nat × List Byte) := []
  compute : List SWord := []
  movement : List SWord := []
  fetches : List Move := []
  drains  : List Move := []
  /-- Fetches complete and not retired: position and OFFSET (04 R108). -/
  landed : List (Nat × Nat) := []
  /-- Failed destination buffers: first device address, length (04 R113). -/
  failBuf : List (Nat × Nat) := []
  drainCnt : Nat := 0
  cbarAt  : Option (BitVec 16) := none
  /-- SIGNAL, QPUT and QREL sent and not yet acknowledged, each with the number of its issue (05 R143). -/
  sent    : List (Nat × Sent) := []
  /-- Words of the frame not yet in the schedule buffer, by slot in rising order; the highest OFFSET of a compute word read so far,
  and the position the next MOV word gets (04 R122). -/
  feeds   : List Feed := []
  lastEff : Nat := 0
  nextIdx : Nat := 0
  /-- Issues made in the frame, the cycle of the last one, and the cycle in which what it started completes (05 R129, R139). -/
  issues  : Nat := 0
  lastAt  : Nat := 0
  doneAt  : Nat := 0
  /-- First cycle in which the next ARR, VEC or SYN issue may take place, and the next instruction of a row (05 R129, R150). -/
  classAt : Tbl Nat := []
  rowAt   : Tbl Nat := []
  /-- Cycle from which the last write of a register may be read: V registers from key 0, M from 32, S from 48, F from 64 (05 R154). -/
  ready   : Tbl Nat := []
  /-- First cycle in which a weight load may start after the last SWAP token, and in which a vector may enter, of an array's side: key 2 ×
array + side (03 R67, 05 R133). -/
  loadAt  : Tbl Nat := []
  vecAt   : Tbl Nat := []
  /-- Stores of VEC words not yet visible, newest first: cycle, core-store offset and bytes before (05 R155). -/
  fresh   : List (Nat × Nat × List Byte) := []
  /-- Issue that started the running conversion (05 R153). -/
  convNo  : Nat := 0
  /-- Lines that a drain has written before a fetch earlier in the stream has read them: the fetch's position, the line and its
  bytes before (04 R112). -/
  kept    : List (Nat × Nat × List Byte) := []
  /-- Time since which 16 incomplete drains have kept a fetch from its issue (04 R112). -/
  fullAt  : Option Nat := none
  /-- Issues of the frame, newest first: scheduled cycle, number and the cycle in which what it started completes (05 R139). -/
  made    : List (Nat × Nat × Nat) := []
  /-- A fetch of the need point at which the compute stream waits has come late from a page that was not resident (04 R110). -/
  lateFetch : Bool := false
deriving DecidableEq, Repr

/-! ## DMA, update, ingest, peer -/

/-- A DMA command at a channel (11). -/
structure DmaRun where
  stream : Nat
  seq    : BitVec 16
  part   : Nat
  prio   : BitVec 2
  /-- Descriptors as read at the fetch: address and 64 bytes. -/
  descs  : List (Nat × List Byte)
  /-- Tick of its admission, and whether its tick has come (R325). -/
  tick   : Nat := 0
  here   : Bool := false
  /-- It could not start at its tick (R325, R326; 16 R446). -/
  waited : Bool := false
  /-- Position in the chain, address of the descriptor there, and the descriptor while it runs (R330). -/
  pos    : Nat := 0
  addr   : Nat := 0
  cur    : Option (List Byte) := none
  /-- Bytes written by the command, and by the running descriptor; the byte of its source stream up to which it has read, and what it
  holds in its staging buffer (R332). -/
  bytes  : Nat := 0
  off    : Nat := 0
  rpos   : Nat := 0
  staged : List Byte := []
  /-- Bytes that the running descriptor has written and may still read, as they were before, oldest write first (R328). -/
  olds   : List (Nat × List Byte) := []
  stopReq : Bool := false
  /-- The address whose access failed and is to be repeated, and the repeats made (R335). -/
  failAt : Option Nat := none
  failTime : Nat := 0
  repeats : Nat := 0
  /-- The address whose repeat is held: it has neither failed nor succeeded (R335). -/
  again  : Option Nat := none
  /-- When the write found its page EVICTING or RELOCATING (08 R255, event 0x0207). -/
  heldAt : Option Nat := none
  /-- Its work has ended, so that it makes no further access; it holds its staging buffer until its record is written (R326). -/
  finished : Bool := false
  /-- The command has completed (R325, R337). -/
  done   : Bool := false
deriving DecidableEq, Repr

/-- One DMA channel (11 R337). -/
structure Chan where
  last   : Status := .ok
  run    : Option DmaRun := none
  queue  : List DmaRun := []
  bytes  : BitVec 55 := 0
  errVal : Bool := false
  errAddr : BitVec 48 := 0
  /-- When the last command completed (R325). -/
  freeAt : Nat := 0
deriving DecidableEq, Repr

/-- DMA registers of one die (11 R337). -/
structure DmaDie where
  retryLimit : BitVec 4 := 3
  retries    : BitVec 16 := 0
deriving DecidableEq, Repr

/-- UPD_STAT.STATE (13 R401), codes 0x0 to 0x6. -/
inductive EngState where
  | idle | pass1 | pass2 | convert | post | refresh | other
deriving DecidableEq, Repr

/-! ## Update engines (12, 13) -/

/-- A shard header (12 R339). -/
structure Shard where
  addr   : Nat
  id     : Nat
  step   : Nat
  set    : Nat
  map    : Nat
  vlow   : Nat
  lscale : F32
  owner  : Nat
  frozen : Bool
  tied   : Bool
  tier   : Bool
  k      : Nat
  summed : Bool
  zpend  : Bool
  rot    : Nat
deriving DecidableEq, Repr

/-- A shard map (R342). -/
structure ShMap where
  rows   : Nat
  cols   : Nat
  wbase  : Nat
  wbytes : Nat
  gbase  : Nat
  pbase  : Nat
  wfmt   : Nat
  nver   : Nat
  ngrad  : Nat
  ntie   : Nat
  gclass : Nat
  m1     : Nat
  m2     : Nat
  cls    : Nat
  setbytes : Nat
  nblk   : Nat
deriving DecidableEq, Repr

/-- The parameter block (13 R382). -/
structure Params where
  clip : Bool
  precond : Bool
  nesterov : Bool
  biasc : Bool
  sr : Bool
  sq16 : Bool
  sched : Nat
  proot : Nat
  lr : F32
  lrmin : F32
  warmup : Nat
  total : Nat
  clipnorm : F32
  wd : F32
  beta1 : F32
  beta2 : F32
  eps : F32
  eps2 : F32
  lsmin : F32
  lsmax : F32
  lsgrow : Nat
  gslot : Nat
  gtimeout : Nat
  prefresh : Nat
  piter : Nat
  ptol : F32
  peps : F32
  pbeta : F32
deriving DecidableEq, Repr

/-- The values formed before pass 2 (13 R380). -/
structure Scalars where
  norm : F32
  clip : F32
  gs   : F32
  lr   : F32
  bc1  : F32
  bc2  : F32
  lsnext : F32
  skip : Bool
deriving DecidableEq, Repr

/-- What pass 2 of an UPDATE needs: engine, partition, header, map, parameters, command. -/
structure UCx where
  d : Nat
  p : Option Nat
  h : Shard
  m : ShMap
  q : Params
  c : Cmd
  spare : Nat
deriving DecidableEq, Repr

/-- An UPDATE that has flipped and whose work after the flip waits (13 R394, R397): what pass 2 worked with, the non-finite basis, and the
engine cycles up to the flip and the zeroing. -/
structure Flipped where
  x : UCx
  k : Scalars
  nonfin : Nat
  cycles : Nat
deriving DecidableEq, Repr

/-- A command queued at, or parked on, an update engine (13 R373). -/
structure UpdJob where
  stream : Nat
  seq    : BitVec 16
  part   : Nat
  /-- Its place in the order of admissions. -/
  adm    : Nat := 0
  opcode : Nat
  shard  : Nat
  /-- After pass 1: own sum of squares and non-finite count (13 R377). -/
  sumsq  : F32 := 0
  nonfin : Nat := 0
  parkedAt : Option Nat := none
  parkFrames : Nat := 0
  /-- It found its group incomplete (R373). -/
  didPark : Bool := false
  /-- Engine cycles of the phases done (R400). -/
  cycles : Nat := 0
  /-- Its flip is done and the work after it waits (R394). -/
  flip   : Option Flipped := none
deriving DecidableEq, Repr

/-- One update engine and its UPD registers (13 R401). -/
structure Upd where
  state   : EngState := .idle
  queue   : List UpdJob := []
  parked  : List UpdJob := []
  ilimit  : BitVec 48 := 0x001000000000
  scrVal  : Bool := false
  scrAddr : BitVec 48 := 0
  fltVal  : Bool := false
  fltPc   : BitVec 48 := 0
  curShard : BitVec 32 := 0
  curStream : BitVec 14 := 0
  skips   : BitVec 32 := 0
  commits : BitVec 32 := 0
  spVal   : Tbl Bool := []
  spAddr  : Tbl (BitVec 48) := []
  clsize  : Tbl (BitVec 48) := []
  ctx     : Tbl W64 := []
  v       : Tbl F32 := []
  m       : Tbl (BitVec 256) := []
  sreg    : Tbl W64 := []
  pc      : W64 := 0
  /-- Where the program must leave the new master, and the largest magnitude it has stored there (R387). -/
  win     : Option (Nat × Nat) := none
  amax    : F32 := 0
  /-- The program has ended with HALT, or was stopped with this status. -/
  ended   : Option Status := none
  issued  : Nat := 0
  /-- Partition whose page table translates its unified accesses (R371). -/
  part    : Option Nat := none
  /-- State sets the EXPORTs run here hold until they complete (13 R396): stream, place in the order of admissions, address, length. -/
  holds   : List (Nat × Nat × Nat × Nat) := []
  /-- Since when a write has waited for such a hold (R396), and since when 1,024 parked jobs have kept the engine from a start (R373), each
  with the command that waits: time, stream, sequence number. -/
  holdFrom : Option (Nat × Nat × BitVec 16) := none
  capFrom : Option (Nat × Nat × BitVec 16) := none
  /-- The command the engine is on while one of its accesses waits: stream and sequence number. -/
  began    : Option (Nat × BitVec 16) := none
  /-- Since when a write has waited on an EVICTING or RELOCATING page (08 R255), and the partition of that page. -/
  writeFrom : Option (Nat × Nat) := none
  /-- The running refresh has installed a root (13 R399). -/
  rooted   : Bool := false
  tlb     : List TlbEntry := []
deriving DecidableEq, Repr

/-- Slot of a running INGEST (14 R410 to R416). -/
structure IngSlot where
  kind   : Nat := 3
  await  : Bool := false
  orig   : W64 := 0
  used   : W64 := 0
  bytes  : Nat := 0
  reason : Nat := 0
  tries  : Nat := 0
  dtype  : Nat := 0
  full   : Nat := 0
  less   : Nat := 0
deriving DecidableEq, Repr

/-- An INGEST at an engine (14 R404). -/
structure IngJob where
  stream : Nat
  seq    : BitVec 16
  part   : Nat
  aframe : W64
  bytes  : List Byte
  /-- Admission tick, place in the order of admissions (06 R173), time of its start, and whether a shared queue held it back (R404). -/
  tick   : Nat := 0
  adm    : Nat := 0
  start  : Nat := 0
  held   : Bool := false
  /-- Next slot to fill, and what is known of every slot begun. -/
  slot   : Nat := 0
  slots  : Tbl IngSlot := []
  rejects : Nat := 0
  roi    : List Byte := []
  waiting : Bool := false
  /-- Every slot has settled, the deadline has come, or it ends early: mask and manifest are being written (R405, R418). -/
  finish : Bool := false
  /-- The status of its early end (R418). -/
  ends   : Option Status := none
  /-- Since when a write of it has waited on an EVICTING or RELOCATING page (08 R255). -/
  writeFrom : Option Nat := none
  /-- Time TAIL was last read (R407). -/
  polledAt : Nat := 0
  /-- TAIL of the source queue and of the pool as last read (R407). -/
  srcTail : Nat := 0
  poolTail : Nat := 0
deriving DecidableEq, Repr

/-- One ingest engine (14 R420). -/
structure Ing where
  /-- ING_CTL.ABORT has been written and the next record boundary not reached (R418). -/
  abortReq : Bool := false
  run   : Option IngJob := none
  queue : List IngJob := []
  /-- INGESTs whose commands have completed and whose mask and manifest the engine has still to write: a write waited on a page in motion. -/
  late  : List IngJob := []
  rejects : BitVec 32 := 0
  accepted : BitVec 32 := 0
  missing : BitVec 32 := 0
  padded : BitVec 32 := 0
deriving DecidableEq, Repr

/-- One peer queue (15 R438). -/
structure PeerQ where
  base  : BitVec 48 := 0
  log2  : BitVec 4 := 4
  port  : BitVec 2 := 0
  prio  : BitVec 2 := 0
  en    : Bool := false
  stop  : Bool := false
  tail  : BitVec 16 := 0
  head  : BitVec 16 := 0
  /-- The entry running: its 64 bytes, and the status, reason and MOVED known so far. -/
  run   : Option (List Byte) := none
  res   : Option (Status × BitVec 8) := none
  moved : Nat := 0
  /-- Link directions of which the running entry holds a credit (15 R431), and whether its port has gone down since it started (15 R429). -/
  links : List Nat := []
  lost  : Bool := false
  /-- PLK_QCTLq has been written since reset. -/
  written : Bool := false
deriving DecidableEq, Repr

/-- One peer port (15 R438). -/
structure PeerPort where
  width  : BitVec 2 := 0
  enable : Bool := true
  lanes  : BitVec 8 := 0
  state  : PortState := .down
  /-- When the port left UP, until it is up again (R422). -/
  downAt : Option Nat := none
deriving DecidableEq, Repr

/-- PLK registers (15 R438) and shared time. -/
structure Plk where
  ports    : Tbl PeerPort := []
  modid    : BitVec 8 := 0
  master   : Bool := false
  masterId : BitVec 8 := 0
  hops     : BitVec 8 := 0
  srcport  : Bool := false
  locked   : Bool := false
  toffset  : Int := 0
  lastSlew : Nat := 0
  retrains : BitVec 16 := 0
  downs    : BitVec 16 := 0
  replays  : BitVec 32 := 0
  pps      : W64 := 0
  routes   : Tbl (BitVec 2) := []
  queues   : Tbl PeerQ := []
  /-- Requests sent out to the fabric, newest first, with the module each goes to; a counter update takes effect there after the
  data before it (R428). -/
  sent     : List (Nat × PeerReq) := []
  /-- Answer to the last incoming read, and whether the last request or flit from outside was answered with a failure. -/
  reply    : List Byte := []
  nak      : Bool := false
  /-- Port the last forwarded flit left by: 1 PLK0, 2 PLK1 (R423). -/
  fwdPort  : BitVec 2 := 0
  /-- As time master: what the last timing flits announced (R435). As a member: the level last sent to the time master for each group,
  with the index of its base tick (R436). -/
  told     : List GroupAnn := []
  toldLvl  : Tbl (Nat × BitVec 4) := []
  /-- Own next XMOD ticks are taken from the announcement with the master's period equal to FRM_PERIOD (R435). -/
  periodBad : Bool := false
deriving DecidableEq, Repr

/-! ## The module -/

/-- The state of the module. `pending` is the queue of waiting commands, first in, first out. -/
structure State where
  time     : Nat := 0
  /-- Counter of draws of free values (model's own; notes/assumptions/5.md). -/
  draw     : Nat := 0
  /-- The stream for whose command accesses are being made (08 R254), and the update engine that makes them (13 R371); none between
  commands. -/
  bus      : Option (Nat × Option Nat) := none
  /-- Line, by physical address over 64, that gives bad data to the access being made (08 R265; 16 R448); none between commands. -/
  badLine  : Option Nat := none
  mem      : Mem := []
  flash    : Mem := []
  mgt      : Tbl Mgt := []
  frm      : Frm := {}
  cfg      : Cfg := {}
  stm      : Stm := {}
  mig      : Tbl Mig := []
  /-- The page that holds each stacked and each board frame: 1 + partition × 2^23 + page number; 1 + 64 × 2^23 while an
  engine holds it (08 R244, R121). -/
  sAlloc   : Tbl Nat := []
  bAlloc   : Tbl Nat := []
  bmp      : Tbl Bmp := []
  hlk      : Hlk := {}
  dma      : Tbl DmaDie := []
  chans    : Tbl Chan := []
  upd      : Tbl Upd := []
  ing      : Tbl Ing := []
  plk      : Plk := {}
  aud      : Aud := {}
  evr      : Evr := {}
  pwr      : Pwr := {}
  parts    : Tbl Part := []
  clusters : Tbl Cluster := []
  cores    : Tbl Core := []
  pending  : List Instr := []
deriving DecidableEq, Repr

/-- The module right after reset (00 R12, 06 R159, 17 R477, R485): time base 0, stage ROM, rails up, every register at
its Reset value, memory with nothing listed. -/
def State.reset : State := {}

end Sys2Proof.Machine
end

