-- ==== Sys2Proof/Machine/Ops.lean ====
section
/-! DEFINITION. The named operations every meaning is written with: table accessors, memory, the clock, calendar time,
the event recorder, alerts, the measurement log and the address map. -/
namespace Sys2Proof.Machine

/-! ## Accessors: one home per unit -/

def State.part (s : State) (p : Nat) : Part := tget {} s.parts p
def State.cluster (s : State) (g : Nat) : Cluster := tget {} s.clusters g
def State.core (s : State) (c : Nat) : Core := tget {} s.cores c
def State.stream (s : State) (n : Nat) : Stream := tget {} s.stm.streams n
def State.migOf (s : State) (d : Nat) : Mig := tget {} s.mig d
def State.bmpOf (s : State) (n : Nat) : Bmp := tget {} s.bmp n
def State.dmaOf (s : State) (d : Nat) : DmaDie := tget {} s.dma d
def State.chan (s : State) (c : Nat) : Chan := tget {} s.chans c
def State.updOf (s : State) (d : Nat) : Upd := tget {} s.upd d
def State.ingOf (s : State) (e : Nat) : Ing := tget {} s.ing e
def State.mgtOf (s : State) (d : Nat) : Mgt := tget {} s.mgt d
def State.group (s : State) (g : Nat) : LockGroup := tget {} s.frm.groups g
def State.pq (s : State) (q : Nat) : PeerQ := tget {} s.plk.queues q
def State.pport (s : State) (n : Nat) : PeerPort := tget {} s.plk.ports n

def State.modPart (s : State) (p : Nat) (f : Part → Part) : State := { s with parts := tmod {} s.parts p f }
def State.modCluster (s : State) (g : Nat) (f : Cluster → Cluster) : State := { s with clusters := tmod {} s.clusters g f }
def State.modCore (s : State) (c : Nat) (f : Core → Core) : State := { s with cores := tmod {} s.cores c f }
def State.modStream (s : State) (n : Nat) (f : Stream → Stream) : State :=
  { s with stm := { s.stm with streams := tmod {} s.stm.streams n f } }
def State.modMig (s : State) (d : Nat) (f : Mig → Mig) : State := { s with mig := tmod {} s.mig d f }
def State.modBmp (s : State) (n : Nat) (f : Bmp → Bmp) : State := { s with bmp := tmod {} s.bmp n f }
def State.modDma (s : State) (d : Nat) (f : DmaDie → DmaDie) : State := { s with dma := tmod {} s.dma d f }
def State.modChan (s : State) (c : Nat) (f : Chan → Chan) : State := { s with chans := tmod {} s.chans c f }
def State.modUpd (s : State) (d : Nat) (f : Upd → Upd) : State := { s with upd := tmod {} s.upd d f }
def State.modIng (s : State) (e : Nat) (f : Ing → Ing) : State := { s with ing := tmod {} s.ing e f }
def State.modMgt (s : State) (d : Nat) (f : Mgt → Mgt) : State := { s with mgt := tmod {} s.mgt d f }
def State.modGroup (s : State) (g : Nat) (f : LockGroup → LockGroup) : State :=
  { s with frm := { s.frm with groups := tmod {} s.frm.groups g f } }
def State.modPq (s : State) (q : Nat) (f : PeerQ → PeerQ) : State :=
  { s with plk := { s.plk with queues := tmod {} s.plk.queues q f } }
def State.modPport (s : State) (n : Nat) (f : PeerPort → PeerPort) : State :=
  { s with plk := { s.plk with ports := tmod {} s.plk.ports n f } }
def State.modPwr (s : State) (f : Pwr → Pwr) : State := { s with pwr := f s.pwr }
def State.modHlk (s : State) (f : Hlk → Hlk) : State := { s with hlk := f s.hlk }
def State.modCfg (s : State) (f : Cfg → Cfg) : State := { s with cfg := f s.cfg }
def State.modAud (s : State) (f : Aud → Aud) : State := { s with aud := f s.aud }
def State.modEvr (s : State) (f : Evr → Evr) : State := { s with evr := f s.evr }
def State.modPlk (s : State) (f : Plk → Plk) : State := { s with plk := f s.plk }
def State.modStm (s : State) (f : Stm → Stm) : State := { s with stm := f s.stm }
def State.modFrm (s : State) (f : Frm → Frm) : State := { s with frm := f s.frm }

/-- Fold a step over the numbers of a list. -/
def State.each (s : State) (l : List Nat) (f : State → Nat → State) : State := l.foldl f s

/-- The partitions a bit-stream in force defines, in rising order. -/
def State.partList (s : State) : List Nat := (s.parts.filter (fun e => e.2.defined)).map (·.1)

/-! ## Memory: bytes of the address map, and module flash -/

/-- Bytes `[a, a + n)` of a memory. -/
def rdBytes (m : Mem) (a : Nat) : Nat → List Byte
  | 0 => []
  | n + 1 => tget 0 m a :: rdBytes m (a + 1) n

/-- Store bytes from address `a` on. -/
def wrBytes (m : Mem) (a : Nat) : List Byte → Mem
  | [] => m
  | b :: bs => wrBytes (tset 0 m a b) (a + 1) bs

def State.rd (s : State) (a n : Nat) : List Byte := rdBytes s.mem a n
def State.rdN (s : State) (a n : Nat) : Nat := leNat (rdBytes s.mem a n)
def State.wr (s : State) (a : Nat) (l : List Byte) : State := { s with mem := wrBytes s.mem a l }
def State.wrN (s : State) (a n v : Nat) : State := s.wr a (leBytes n v)
def State.zero (s : State) (a n : Nat) : State := { s with mem := tclear s.mem a n }
def State.copyMem (s : State) (src dst n : Nat) : State := { s with mem := tcopy s.mem src dst n }
def State.flWr (s : State) (a : Nat) (l : List Byte) : State := { s with flash := wrBytes s.flash a l }
def State.flRd (s : State) (a n : Nat) : List Byte := rdBytes s.flash a n

/-- Fields of a byte list (00 R4). -/
def byteAt (l : List Byte) (i : Nat) : Nat := (l.getD i 0).toNat
def bytesN (l : List Byte) (off n : Nat) : Nat := leNat ((l.drop off).take n)
def isZero (l : List Byte) : Bool := l.all (fun b => b == 0)
/-- Replace the bytes of `l` from `off` on. -/
def patch (l : List Byte) (off : Nat) (x : List Byte) : List Byte := l.take off ++ x ++ l.drop (off + x.length)

/-! ## Free values -/

/-- Draw a free value: the counter names it (notes/assumptions/5.md). -/
def State.drawNext (s : State) : State := { s with draw := s.draw + 1 }

/-- Old and new content of the bytes from address `a` on, mixed: each naturally aligned 8 bytes are the old ones or the new ones
(01 R39); which, is open. -/
def mix8 (draw : Nat) : Nat → List Byte → List Byte → List Byte
  | a, o :: os, n :: ns => (if (Config.raceByte draw (a / 8)).getLsbD 0 then n else o) :: mix8 draw (a + 1) os ns
  | _, os, _ => os

/-! ## Addresses -/

def pageSize : Nat := 2 ^ 21
def hbmEnd : Nat := 0x012000000000
def boardBase : Nat := 0x100000000000
def boardEnd : Nat := 0x180000000000
def shelfBase : Nat := 0x200000000000
def shelfEnd : Nat := 0x2000A0000000
def storeBase : Nat := 0x210000000000
def storeEnd : Nat := 0x210050000000
def regBase : Nat := 0x300000000000
def regEnd : Nat := 0x300005000000
def uniBase : Nat := 0x400000000000
def uniEnd : Nat := 0x500000000000
def splitBase : Nat := 0x480000000000
def hostBase : Nat := 0x800000000000
def addrEnd : Nat := 0x1000000000000

/-- Where an address leads (08 R232). -/
inductive Loc where
  | mem | host | reg | uni | none
deriving DecidableEq, Repr

/-- Stack of an HBM address (08 R234). -/
def stackOf (a : Nat) : Nat := a / 0x1200000000
/-- Pseudo-channel of a stacked frame (08 R234). -/
def pchOf (f : Nat) : Nat := f % 32
/-- Frames of one stack. -/
def stackFrames : Nat := 36864
def framesTotal : Nat := 589824
def portFrames : Nat := 1048576

/-- The pseudo-channel of the stack is out of the map (08 R262, last paragraph). -/
def pchOut (s : State) (stack pch : Nat) : Bool :=
  tget none (s.migOf (stack / 4)).retired (32 * (stack % 4) + pch) == some true
/-- The pseudo-channel is retired, out of the map or not (08 R262). -/
def pchRetired (s : State) (stack pch : Nat) : Bool :=
  (tget none (s.migOf (stack / 4)).retired (32 * (stack % 4) + pch)).isSome

/-- A board-tier frame is present and its port carries accesses (08 R235, R264, R267). -/
def boardPresent (s : State) (b : Nat) : Bool :=
  let q := s.bmpOf (b / portFrames)
  decide (b < 4 * portFrames) && decide (b % portFrames < q.frames.toNat) && q.enable
    && (q.state == .up || q.state == .upHalf || q.state == .training)

/-- The port of a board-tier address trains, and its accesses wait (08 R264). -/
def boardWaits (s : State) (pa : Nat) : Bool :=
  decide (boardBase ≤ pa) && decide (pa < boardEnd) && (s.bmpOf ((pa - boardBase) / pageSize / portFrames)).state == .training

/-- The location of a device address (08 R232, R233). -/
def locate (s : State) (a : Nat) : Loc :=
  if a < hbmEnd then (if pchOut s (stackOf a) (pchOf (a / pageSize)) then .none else .mem)
  else if boardBase ≤ a ∧ a < boardEnd then
    (if boardPresent s ((a - boardBase) / pageSize) then .mem else .none)
  else if shelfBase ≤ a ∧ a < shelfEnd then .mem
  else if storeBase ≤ a ∧ a < storeEnd then .mem
  else if regBase ≤ a ∧ a < regEnd then .reg
  else if uniBase ≤ a ∧ a < uniEnd then .uni
  else if hostBase ≤ a ∧ a < addrEnd then .host
  else .none

/-- The whole span `[a, a + n)` lies in the stacked tier (16 R498, 17 R491). -/
def inStacked (a n : Nat) : Bool := decide (a + n ≤ hbmEnd)

/-- The span lies in the board tier. -/
def inBoard (a n : Nat) : Bool := decide (boardBase ≤ a) && decide (a + n ≤ boardEnd)

/-- The die number a record carries: 0 LD, 1 to 4 CD0 to CD3 (01 R42), of a register index 0 to 3 for CD0 to CD3, 4 for LD. -/
def dieCode (d : Nat) : Nat := if d = 4 then 0 else d + 1
/-- Die numbers: 0 LD, 1 + c for CDc (01 R41, R42). Die of a cluster, of a core. -/
def dieOfCluster (g : Nat) : Nat := g / 160
def clusterOfCore (c : Nat) : Nat := c / 16
def coreBase (c : Nat) : Nat := storeBase + c * 0x20000
def shelfOf (g : Nat) : Nat := shelfBase + g * 0x400000

/-- The partition of a cluster, if it belongs to one (01 R33). -/
def partOfCluster (s : State) (g : Nat) : Option Nat :=
  match (s.cluster g).state with
  | .unassigned | .spare | .failed => none
  | .routerFault => if (s.part (s.cluster g).part.toNat).clusters.contains g then some (s.cluster g).part.toNat else none
  | _ => some (s.cluster g).part.toNat

/-! ## Calendar time (06 R161, 16 R459) -/

def calNs (s : State) (t : Nat) : Nat :=
  if s.frm.calSet then s.frm.cal.toNat + (t - s.frm.calTb.toNat) * 5 / 6 else t * 5 / 6

/-! ## The event recorder (16 R454 to R460) -/

/-- Bin of a value (16 R455). -/
def binOf (v : Nat) : Nat :=
  if v = 0 then 0 else if 268435456 ≤ v then 15 else v.log2 / 2 + 1

/-- Occurrences a key admits per millisecond (16 R457); 0 acts as 1, code 0x0001 has no limit. -/
def evLimit (e : Evr) (code : Nat) : Option Nat :=
  if code = 1 then none else some (Max.max 1 (tget 0x0100#16 e.rate (code / 256)).toNat)

/-- One occurrence entered into its slot (16 R455 to R457). -/
def EvSlot.enter (x : EvSlot) (lim : Option Nat) (code source v ivl ns : Nat) (cal : Bool) : EvSlot :=
  let v32 := BitVec.ofNat 32 v
  let x0 : EvSlot := if x.valid then x else
    { valid := true, code := BitVec.ofNat 16 code, source := BitVec.ofNat 16 source, calset := cal,
      first := BitVec.ofNat 64 ns, vmin := v32, vmax := v32, ivl := ivl }
  let seen := if x0.ivl = ivl then x0.ivlCnt else 0
  if lim.any (fun l => decide (l ≤ seen)) then
    { x0 with dropped := satAdd x0.dropped 1, last := BitVec.ofNat 64 ns, limited := true, ivl := ivl, ivlCnt := seen }
  else
    { x0 with count := satAdd x0.count 1, vmin := (if v32 < x0.vmin then v32 else x0.vmin),
              vmax := (if x0.vmax < v32 then v32 else x0.vmax), last := BitVec.ofNat 64 ns,
              bins := tmod 0 x0.bins (binOf v32.toNat) (fun b => satAdd b 1), ivl := ivl, ivlCnt := seen + 1 }

/-- The lowest general slot that is not VALID (16 R454). -/
def freeSlot : Nat → Nat → Tbl EvSlot → Option Nat
  | 0, _, _ => none
  | n + 1, k, t => if (tget {} t k).valid then freeSlot n (k + 1) t else some k

/-- The slot of a key among the general slots. -/
def slotOfKey (t : Tbl EvSlot) (code source : Nat) : Option Nat :=
  (t.find? (fun e => e.2.valid && decide (e.1 < 4080) && e.2.code == BitVec.ofNat 16 code
    && e.2.source == BitVec.ofNat 16 source)).map (·.1)

/-- Enter an occurrence with its own time stamp. -/
def Evr.enter (e : Evr) (code source v ivl ns : Nat) (cal : Bool) : Evr :=
  let lim := evLimit e code
  match slotOfKey e.slots code source with
  | some k => { e with slots := tmod {} e.slots k (fun x => x.enter lim code source v ivl ns cal) }
  | none =>
    match freeSlot 4080 0 e.slots with
    | some k => { e with slots := tmod {} e.slots k (fun x => x.enter lim code source v ivl ns cal) }
    | none => { e with lost := satAdd e.lost 1 }

/-- Record one occurrence now: in the staging list until the recorder is restored, then in its slot (16 R455, R460). -/
def State.event (s : State) (code source v : Nat) : State :=
  if s.evr.restored then
    { s with evr := s.evr.enter code source v (s.time / 1200000) (calNs s s.time) s.frm.calSet }
  else if s.evr.staging.length < 64 then
    { s with evr := { s.evr with staging := s.evr.staging ++ [⟨code, source, v, s.time⟩] } }
  else { s with evr := { s.evr with lost := satAdd s.evr.lost 1 } }

/-- Count an access that reached no location; `p` is the master's partition, if it has one (08 R233, R268). -/
def State.noLocation (s : State) (p : Option Nat) (a : Nat) : State := s.event 0x020E (p.getD 0xFFFF) (a / 2 ^ 21)

/-- The host link is being retrained, or down for less than 10 ms: accesses over it are held (10 R314). Before it has first been up nothing
is held (notes/assumptions/68.md). -/
def linkHolds (s : State) : Bool := s.hlk.downAt.isSome && s.hlk.state != .up

/-- The ledger holds a direction of link `k`, in the order of AUD_LINKl (16 R446, R464): bridges 0 to 7, HLK 8, PLK 9 and 10, BMP 11 to 14. -/
def linkHeld (s : State) (k : Nat) : Bool := (tget {} s.aud.links (2 * k)).held || (tget {} s.aud.links (2 * k + 1)).held

/-- Ports train: stage LINKS has been reached, which NOIMAGE never is (17 R484, R485). -/
def linksTrain (s : State) : Bool := s.pwr.stage == .links || s.pwr.stage == .ready || s.pwr.stage == .running

/-- Link `k` may train: it is no link of a module before LINKS, and the ledger does not hold it down (16 R446). -/
def mayTrain (s : State) (k : Nat) : Bool := linksTrain s && !linkHeld s k

/-- When a port that is now in state `st` went down: at its entry into TRAINING, until it is up again (08 R264; 15 R422). -/
def sinceDown (s : State) (st : PortState) (was : Option Nat) : Option Nat :=
  if st == .training then some (was.getD s.time) else none

/-- Carry out accesses for a command of stream `n` (08 R254), by an update engine if `d` names one (13 R371). -/
def State.onBehalf (s : State) (n : Nat) (d : Option Nat) (f : State → State) : State :=
  { f { s with bus := some (n, d) } with bus := s.bus }

/-- Do `f` while the line of address `a` gives bad data to every read (08 R265; 16 R448). -/
def State.meeting (s : State) (a : Nat) (f : State → State) : State :=
  { f { s with badLine := some (a / 64) } with badLine := s.badLine }

/-- Enter the staged occurrences in the order they happened, with CALSET 0 (16 R460). -/
def Evr.unstage (e : Evr) : Evr :=
  let e' := e.staging.foldl (fun e o => e.enter o.code o.source o.value (o.time / 1200000) (o.time * 5 / 6) false) e
  { e' with staging := [], restored := true }

/-! ## Alerts (17 R493) -/

/-- Alert bits: 0 THROT, 1 VOLT, 2 TEMP, 3 GUARD, 4 STAGE, 5 IDFAIL. -/
def State.alert (s : State) (i : Nat) : State :=
  s.modPwr (fun w => { w with alert := w.alert ||| BitVec.ofNat 6 (2 ^ i) })

/-- MOD_ALERT_N is asserted (17 R478). -/
def alertPin (s : State) : Bool := decide (s.pwr.alert &&& s.pwr.alertEn ≠ 0)

/-- PPS_OUT is driven low while idle (17 R482), and released while the module is unpowered (R480). -/
def ppsPinLow (s : State) : Bool := s.pwr.railsUp && !s.pwr.ppsOut
/-- THERM_TRIP_N is asserted, from the sequencer's bias supply (R471). -/
def tripPin (s : State) : Bool := s.pwr.tripped
/-- PWR_GOOD is held low until every rail is in regulation (R478). -/
def goodPinLow (s : State) : Bool := !s.pwr.railsUp

/-! ## Status codes (09 R301) -/

def Status.code : Status → Nat
  | .ok => 0 | .bound => 1 | .badOpcode => 2 | .badStream => 3 | .frozenSkipped => 4 | .stepSkew => 5
  | .tiedUnsummed => 6 | .hostLost => 7 | .poisoned => 8 | .overrun => 9 | .busError => 0x0A
  | .conservation => 0x0B | .signature => 0x0C | .partitionDown => 0x0D | .stopped => 0x0E | .notCommitted => 0x0F

/-! ## The measurement log (17 R490) -/

/-- The 64 bytes of an entry. -/
def LogEntry.bytes (e : LogEntry) : List Byte :=
  leBytes 4 e.index ++ [BitVec.ofNat 8 e.kind, BitVec.ofNat 8 e.result.code, 0, 0] ++ leBytes 8 e.time
    ++ (leBytes 32 e.digest.toNat).reverse ++ leBytes 8 e.detail.toNat ++ List.replicate 8 0

/-- Fold an entry into the log digest, and store it while there is room (17 R490). `item` is what was measured. -/
def State.measure (s : State) (kind : Nat) (res : Status) (item : List Byte) (detail : W64) : State :=
  let w := s.pwr
  let e : LogEntry :=
    { index := w.logTotal.toNat, kind := kind, result := res, time := s.time,
      digest := BitVec.ofNat 256 (beNat (sm3 item)), detail := detail }
  let dg := BitVec.ofNat 256 (beNat (sm3 ((leBytes 32 w.logDigest.toNat).reverse ++ e.bytes)))
  let s' : State := { s with pwr := { w with logTotal := w.logTotal + 1, logDigest := dg } }
  if w.log.length < 1024 then s'.modPwr (fun w => { w with log := w.log ++ [e] })
  else s'.event 0x0033 0 e.index

/-- SM3 digest of the identity public key, as 32 bytes (17 R489, R492). -/
def moduleDigest (s : State) : List Byte := sm3 (leBytes 64 s.pwr.pubKey.toNat).reverse

/-! ## Availability and the clock (16 R450 to R453, 06 R159) -/

/-- Power, cooling and temperature are within the LIMITS condition (17 R473). -/
def limitsMet (s : State) : Bool :=
  let v := s.pwr.p42v.toNat
  decide (38000 ≤ v) && decide (v ≤ 46000) &&
    [0, 1, 2, 3, 4].all (fun d =>
      let t := tget {} s.pwr.temps d
      decide (t.tj.toInt < 1050) && decide (t.hbm.toInt < 950))

/-- The cluster is listed in SPARES and neither assigned nor failed (07 R220); one that a load has released is UNASSIGNED and counts. -/
def spareFree (s : State) (g : Nat) : Bool :=
  s.cfg.spares.contains g && ((s.cluster g).state == .spare || (s.cluster g).state == .unassigned)
    && !s.cfg.routerBad.contains g && !s.cfg.repRec.contains (.failedCluster g)

/-- The free spares of a die (07 R229 CFG_SPARE). -/
def freeSpares (s : State) (d : Nat) : List Nat := s.cfg.spares.filter (fun g => decide (g / 160 = d) && spareFree s g)

/-- AUD_AVCOND.COND: SUPPORT, LIMITS, AUTO, SPARES (16 R451, 17 R484). -/
def avCond (s : State) : BitVec 4 :=
  let support := !s.frm.calSet || decide (calNs s s.time < s.pwr.supportEnd.toNat)
  let spares := [0, 1, 2, 3].all (fun d => !(freeSpares s d).isEmpty)
  BitVec.ofNat 4 (8 * b2n support + 4 * b2n (limitsMet s) + 2 * b2n s.cfg.auto + b2n spares)

/-- Time base value from which some configured partition cannot admit frames (16 R450). -/
def downSince (s : State) : Option Nat :=
  s.parts.foldl (fun m e =>
    if e.2.defined then
      match m, e.2.downFrom with
      | some a, some b => some (Min.min a b)
      | none, x => x
      | m, none => m
    else m) none

/-- A time of 16 R452 holds: host outage, planned reconfiguration, a halt without CONS. -/
def excluded (s : State) : Bool :=
  s.hlk.needhs || s.hlk.state != .up
    || s.cfg.phase == .wait || s.cfg.phase == .drain || s.cfg.phase == .apply
    || s.parts.any (fun e => e.2.defined && (e.2.state == .drained || (e.2.state == .halted && !e.2.cons)))

/-- Charge `n` cycles to the availability counts (16 R453), and record a condition that has come to fail (16 R451). -/
def State.charge (s : State) (n : Nat) : State :=
  let c := avCond s
  let down := match downSince s with | some t => s.time + n - Max.max s.time t | none => 0
  let x := BitVec.ofNat 64 (n - down)
  let s1 := s.modAud (fun a =>
    let a0 := { a with down := a.down + BitVec.ofNat 64 down }
    let a1 := if excluded s then { a0 with excl := a0.excl + x } else { a0 with up := a0.up + x }
    let a2 := if c = 0xF then a1 else { a1 with nocond := a1.nocond + BitVec.ofNat 64 n }
    { a2 with cond := c })
  if s.aud.cond &&& ~~~c = 0 then s1 else s1.event 0x0024 0 c.toNat

/-- Time reaches `t`, if it has not yet (notes/assumptions/1.md). -/
def State.advanceTo (s : State) (t : Nat) : State :=
  if t ≤ s.time then s else { s.charge (t - s.time) with time := t }

/-- The clocks run: rails up and MOD_RESET_N deasserted (17 R467, R477). -/
def State.alive (s : State) : Bool := s.pwr.railsUp && !s.pwr.inReset

/-- Bubarus runs: the stages from RESTORE on (17 R485), but not while it restarts (16 R448). -/
def State.fwRuns (s : State) : Bool :=
  s.alive && s.pwr.stage != .rom && s.pwr.stage != .fw && s.pwr.stage != .noimage && s.pwr.mpDown.isNone

/-- Bubarus runs, or restarts and will do then what has become due (16 R448, R449). -/
def State.fwServes (s : State) : Bool := s.fwRuns || s.pwr.mpDown.isSome

/-- Do `f` while the module is alive; otherwise nothing happens (17 R467, R480). -/
def State.live (s : State) (f : State → State) : State := if s.alive then f s else s

/-- The next state of a command. -/
def ok (s : State) : Host.Outcome State Fault Refusal := .next s

end Sys2Proof.Machine
end

