-- ==== Sys2Proof/Machine/Flash.lean ====
section
/-! DEFINITION. What Bubarus keeps in module flash (17 R483): the repair record (07 R210), recorder snapshots (16 R460),
customer key slots (07 R208) and the lifetime counter EVR_CLEARS. -/
namespace Sys2Proof.Machine

def fwBase (copyB : Bool) : Nat := if copyB then 0x01010000 else 0x00010000
def chainBase : Nat := 0x02020000
def recBase (copyB : Bool) : Nat := if copyB then 0x02040000 else 0x02030000
def keyBase (slot : Nat) : Nat := 0x02050000 + 128 * slot
def snapBase (copyB : Bool) : Nat := if copyB then 0x02170000 else 0x02070000
def clearsBase : Nat := 0x02270000
def bitBase : Nat := 0x02280000
def flashSize : Nat := 0x04000000

/-- A signature the module makes under its identity key (16 R460, 17 R492): free bytes. -/
def signatureBytes (draw : Nat) : List Byte := (List.range 64).map (Config.signatureByte draw)

/-- The 8 bytes of a repair-record entry (07 R210). -/
def RepEntry.bytes : RepEntry → List Byte
  | .badColumn a c => [1] ++ leBytes 2 a ++ leBytes 1 c ++ [0, 0, 0, 0]
  | .failedCluster g => [2] ++ leBytes 2 g ++ [0, 0, 0, 0, 0]
  | .retiredPch st q => [3] ++ leBytes 1 st ++ leBytes 1 q ++ [0, 0, 0, 0, 0]
  | .lanes p m => [4] ++ leBytes 1 p ++ [m] ++ [0, 0, 0, 0, 0]
  | .trim b i v => [5] ++ leBytes 1 b ++ leBytes 1 i ++ leBytes 4 v.toNat ++ [0]

/-- An entry read back (07 R210); a reserved KIND is no entry. -/
def repEntryOf (l : List Byte) : Option RepEntry :=
  match byteAt l 0 with
  | 1 => some (.badColumn (bytesN l 1 2) (byteAt l 3))
  | 2 => some (.failedCluster (bytesN l 1 2))
  | 3 => some (.retiredPch (byteAt l 1) (byteAt l 2))
  | 4 => some (.lanes (byteAt l 1) (BitVec.ofNat 8 (byteAt l 2)))
  | 5 => some (.trim (byteAt l 1) (byteAt l 2) (BitVec.ofNat 32 (bytesN l 3 4)))
  | _ => none

/-- The record's head and entries, the part the signature covers (07 R210). -/
def repImage (seq : Nat) (l : List RepEntry) : List Byte :=
  [0x51, 0x46, 0x52, 0x52] ++ leBytes 2 0x0100 ++ leBytes 2 l.length ++ leBytes 8 seq ++ l.flatMap RepEntry.bytes

/-- The copy a rewrite goes to: the one that is not in force, and copy A when none is (07 R210; notes/assumptions/59.md). -/
def otherCopy (inForce : Option Bool) : Bool := match inForce with | some b => !b | none => false

/-! ## Seals (07 R207) -/

/-- SM3 digest of bytes, as a number. -/
def digestOf (l : List Byte) : BitVec 256 := BitVec.ofNat 256 (beNat (sm3 l))

/-- The fact is one of these 64 signature bytes over these covered bytes. -/
def sigCovers (x : SigFact) (l sg : List Byte) : Bool := x.digest = digestOf l && x.sig = BitVec.ofNat 512 (beNat (sg.take 64))

/-- SIG verifies over the SM3 digest of the covered bytes (07 R207): `sec` is the section, whose bytes 0x08 to 0x47 are SIG. -/
def sealCovers (x : Seal) (l sec : List Byte) : Bool := sigCovers x.body l (sec.drop 8)

/-- The section's CHAIN verifies and ends at the anchor the section names: the root key, or the key a customer slot holds (07 R207). -/
def sealAnchored (x : Seal) (keys : Tbl (Option (BitVec 512))) (anchor : Nat) (sec : List Byte) : Bool :=
  x.path.chain = digestOf ((sec.drop 0x48).take (bytesN sec 4 4)) &&
  match x.path.signer with
  | .root => anchor = 0
  | .key k => decide (1 ≤ anchor) && decide (anchor ≤ 4) && tget none keys (anchor - 1) == some k
  | .nobody => false

/-- The fields of a SIGNATURE section's first 8 bytes are legal (07 R207). -/
def sectionOk (l : List Byte) : Bool :=
  decide (1 ≤ byteAt l 0) && decide (byteAt l 0 ≤ 4) && decide (byteAt l 1 ≤ 4) && bytesN l 2 2 = 0
/-- Bytes of the section: head, SIG and CHAIN. -/
def sectionLen (l : List Byte) : Nat := 0x48 + bytesN l 4 4

/-- The whole SIGNATURE section at a device address. -/
def State.section_ (s : State) (a : Nat) : List Byte := s.rd a (sectionLen (s.rd a 8))

/-- Rewrite the repair record into its older copy and measure it (07 R210, 17 R490). -/
def State.rewriteRepair (s : State) (l : List RepEntry) : State :=
  let seq := s.cfg.recSeq + 1
  let img := repImage seq l
  let b := otherCopy s.cfg.recCopy
  let s1 := { s with flash := tclear s.flash (recBase b) 0x10000 }
  let s2 := (s1.flWr (recBase b) (img ++ signatureBytes s.draw)).drawNext
  ((s2.modCfg (fun c => { c with recSeq := seq, recCopy := some b, repRec := l })).measure 2 .ok img 0).event 0x0017 0 (seq % 2 ^ 32)

/-- The 64 bytes `sg` are a signature of the identity key over `l`. -/
def signedBy (x : Option SigFact) (l sg : List Byte) : Bool := match x with | some f => sigCovers f l sg | none => false

/-- A flash copy of the repair record is valid: MAGIC, VERSION, its entries in its area, and a signature of the identity key over the digest
of head and entries (07 R210); `sg` is what SM2 says of the 64 signature bytes behind them. -/
def repValid (s : State) (b : Bool) (sg : Option SigFact) : Bool :=
  let n := leNat (s.flRd (recBase b + 6) 2)
  s.flRd (recBase b) 6 == [0x51#8, 0x46, 0x52, 0x52, 0x00, 0x01] && decide (16 + 8 * n + 64 ≤ 0x10000)
    && signedBy sg (s.flRd (recBase b) (16 + 8 * n)) (s.flRd (recBase b + 16 + 8 * n) 64)

/-- Add entries that the record does not hold yet; nothing is rewritten when there is none (07 R210, R228). -/
def State.repairAdd (s : State) (es : List RepEntry) : State :=
  let new := (es.filter (fun e => !s.cfg.repRec.contains e)).eraseDups
  if new.isEmpty then s else s.rewriteRepair (s.cfg.repRec ++ new)

/-- Entries of a flash copy of the record. -/
def repEntriesAt (s : State) (base : Nat) : List RepEntry :=
  (List.range (leNat (s.flRd (base + 6) 2))).filterMap (fun i => repEntryOf (s.flRd (base + 16 + 8 * i) 8))

/-- The 128 bytes of a recorder slot (16 R456). -/
def EvSlot.bytes (x : EvSlot) : List Byte :=
  leBytes 2 x.code.toNat ++ leBytes 2 x.source.toNat
    ++ [BitVec.ofNat 8 (b2n x.valid + 2 * b2n x.calset + 4 * b2n x.limited), 0, 0, 0]
    ++ leBytes 8 x.count.toNat ++ leBytes 4 x.vmin.toNat ++ leBytes 4 x.vmax.toNat ++ leBytes 8 x.first.toNat
    ++ leBytes 8 x.last.toNat ++ leBytes 4 x.dropped.toNat ++ List.replicate 20 0
    ++ (List.range 16).flatMap (fun i => leBytes 4 (tget 0 x.bins i).toNat)

/-- A slot read back from its 128 bytes (16 R456). -/
def evSlotOf (l : List Byte) : EvSlot :=
  { valid := bitAt (byteAt l 4) 0, calset := bitAt (byteAt l 4) 1, limited := bitAt (byteAt l 4) 2,
    code := BitVec.ofNat 16 (bytesN l 0 2), source := BitVec.ofNat 16 (bytesN l 2 2),
    count := BitVec.ofNat 64 (bytesN l 8 8), vmin := BitVec.ofNat 32 (bytesN l 0x10 4),
    vmax := BitVec.ofNat 32 (bytesN l 0x14 4), first := BitVec.ofNat 64 (bytesN l 0x18 8),
    last := BitVec.ofNat 64 (bytesN l 0x20 8), dropped := BitVec.ofNat 32 (bytesN l 0x28 4),
    bins := (List.range 16).foldl (fun t i => tset 0 t i (BitVec.ofNat 32 (bytesN l (0x40 + 4 * i) 4))) [] }

/-- All 4,096 slots as memory cells from `base` on: the bytes of VALID slots, zero elsewhere (16 R460, R498). -/
def slotCells (m : Mem) (t : Tbl EvSlot) (base : Nat) : Mem :=
  t.foldl (fun m e => if e.1 < 4096 then wrBytes m (base + 128 * e.1) e.2.bytes else m) (tclear m base 0x80000)

/-- Write a recorder snapshot into the older copy (16 R460); the manual names the head's fields and not their offsets
(notes/assumptions/9.md). -/
def State.snapshot (s : State) : State :=
  let seq := s.evr.snapSeq + 1
  let c := otherCopy s.evr.snapCopy
  let b := snapBase c
  let head := [0x51, 0x46, 0x45, 0x52] ++ leBytes 2 0x0100 ++ [0, 0] ++ leBytes 8 seq ++ leBytes 4 s.evr.clears.toNat
    ++ List.replicate 44 0
  let m1 := wrBytes s.flash b head
  let m2 := wrBytes (slotCells m1 s.evr.slots (b + 64)) (b + 64 + 0x80000) (signatureBytes s.draw)
  let s1 := { s with flash := m2, evr := { s.evr with snapSeq := seq, snapCopy := some c } }
  s1.drawNext.event 0x0005 0 (seq % 2 ^ 32)

/-- A recorder copy is valid: MAGIC, VERSION, and a signature of the identity key over the digest of head and slots (R460). -/
def snapValid (s : State) (b : Bool) (sg : Option SigFact) : Bool :=
  sg.isSome && s.flRd (snapBase b) 6 == [0x51#8, 0x46, 0x45, 0x52, 0x00, 0x01]
    && signedBy sg (s.flRd (snapBase b) 0x80040) (s.flRd (snapBase b + 0x80040) 64)

/-- The slots a snapshot at `base` holds: only slots with some byte set are looked at. -/
def slotsAt (s : State) (base : Nat) : Tbl EvSlot :=
  let lo := base + 64
  let ks := ((s.flash.filter (fun e => decide (lo ≤ e.1) && decide (e.1 < lo + 0x80000))).map (fun e => (e.1 - lo) / 128)).eraseDups
  ks.foldl (fun t k => tset {} t k (evSlotOf (s.flRd (lo + 128 * k) 128))) []

/-- The customer key slots as kept in flash: a VALID byte and the 64 bytes of the key (notes/assumptions/9.md). -/
def keysAt (s : State) : Tbl (Option (BitVec 512)) :=
  [0, 1, 2, 3].foldl (fun t i =>
    let l := s.flRd (keyBase i) 65
    tset none t i (if byteAt l 0 = 1 then some (BitVec.ofNat 512 (beNat (l.drop 1))) else none)) []

/-- Keep a key slot in flash (07 R208). -/
def State.storeKey (s : State) (slot : Nat) (k : Option (BitVec 512)) : State :=
  let body : List Byte := match k with
    | some v => 1#8 :: (leBytes 64 v.toNat).reverse
    | none => List.replicate 65 0
  (s.flWr (keyBase slot) body).modCfg (fun c => { c with keys := tset none c.keys slot k })

/-- Draw a new pair of nonces (16 R462). -/
def State.newNonce (s : State) : State :=
  { s with evr := { s.evr with nonce0 := Config.nonce s.draw, nonce1 := Config.nonce (s.draw + 1) }, draw := s.draw + 2 }

end Sys2Proof.Machine
end

