-- ==== Sys2Proof/Machine/Ticks.lean ====
section
/-! DEFINITION. Tick arithmetic: the ticks of free partitions and lock-group members, and throttle levels (06 R162 to R166). -/
namespace Sys2Proof.Machine

/-- The multiple m of a partition (R162). -/
def Part.m (q : Part) : Nat := q.mult.toNat + 1

/-- The least multiple of `m` at or above `i`. -/
def ceilMul (m i : Nat) : Nat := (i + m - 1) / m * m

/-- Time of group base tick `i`, with no gap but those already in `next`. -/
def baseTime (s : State) (x : LockGroup) (i : Nat) : Nat := x.next + (i - x.index) * s.frm.period.toNat

/-- The module takes no group base tick of the group: its FRM_PERIOD is not the time master's (15 R435). -/
def barred (s : State) (x : LockGroup) : Bool := x.xmod && s.plk.periodBad

/-- The member's first tick after `t` (R163); 0 while its group has no sequence of group base ticks, or the module takes none. -/
def memberNextAfter (s : State) (q : Part) (t : Nat) : Nat :=
  let x := s.group q.lgrp.toNat
  if !x.hasSeq || barred s x then 0
  else
    let i := ceilMul q.m (Max.max x.index q.firstIdx)
    if t < baseTime s x i then baseTime s x i else baseTime s x (i + q.m)

/-- Partitions that are members of lock group `g`, in rising order. -/
def membersOf (s : State) (g : Nat) : List Nat :=
  (s.parts.filter (fun e => e.2.defined && e.2.locked && decide (e.2.lgrp.toNat = g))).map (·.1)

/-- The highest throttle level among the dies that hold clusters of the partitions (R165). -/
def levelOf (s : State) (ps : List Nat) : BitVec 4 :=
  ((ps.flatMap (fun p => (s.part p).clusters)).map (fun g => tget 0#4 s.frm.throt (dieOfCluster g))).foldl
    (fun m l => if m < l then l else m) 0

/-- Sample a group's level at the decision point of its next group base tick, once that has come (R165). -/
def State.sampleGroup (s : State) (g : Nat) : State :=
  let x := s.group g
  if x.hasSeq && x.samp.isNone && decide (x.next ≤ s.time + 1200) then s.modGroup g (fun x => { x with samp := some (levelOf s (membersOf s g)) })
  else s

/-- What is about to change a throttle level or a group's dies takes the samples due before it. -/
def State.sampleGroups (s : State) : State := s.each (List.range 16) State.sampleGroup

/-- The tick after the coming one where HOLD has been sent for that, else the coming one; for a free partition (R163). -/
def Part.follow (q : Part) (period : Nat) : Nat :=
  match q.verdict with
  | some (.hold l) => q.next + q.m * period + q.m * period * l.toNat / 16
  | _ => q.next

/-- Form the next ticks of a group's members anew from the group's; a tick already decided or already reached stands. -/
def State.refreshMembers (s : State) (g : Nat) : State :=
  s.each (membersOf s g) (fun s p =>
    let q := s.part p
    if q.verdict.isNone && (q.next = 0 || decide (s.time < q.next)) then s.modPart p (fun q => { q with next := memberNextAfter s q s.time }) else s)

/-- The least of `t`, `t + step`, ... at or above `lo`. -/
def stepTo (t step lo : Nat) : Nat := if lo ≤ t then t else t + (lo - t + step - 1) / step * step

/-- Number of the last group base tick at or before now, plus one (R163). -/
def nextIndex (s : State) (x : LockGroup) : Nat :=
  if x.next ≤ s.time ∧ s.frm.period ≠ 0 then x.index + 1 + (s.time - x.next) / s.frm.period.toNat else x.index

/-- Least index of the first tick of a member that took effect at `at_` in a group whose tick `i` is announced for `t`: n_e + m + 1, with n_e
counted back from the announcement without gaps, which it does not tell (notes/assumptions/66.md); 0 where the group's epoch lies later
than `at_` (R163, R164). -/
def joinIndex (period m i t at_ : Nat) : Nat :=
  let after := (t - at_ + period - 1) / period
  if i < after then 0 else ceilMul m (i + 1 - after + m)

/-- The first shared time at or after `lo` that is a multiple of FRM_PERIOD, in local time: the grid of the epochs a time master sets (R164). -/
def sharedGrid (s : State) (lo : Nat) : Nat :=
  ((stepTo 0 s.frm.period.toNat ((lo : Int) + s.plk.toffset).toNat : Int) - s.plk.toffset).toNat

/-- First tick of a partition that starts, or starts again, now; `old` is its next tick before, 0 if it had none. A member of a running
group joins under R163, n_e being −1 before its group base tick 0 (DESIGN CHOICE, notes/assumptions/78.md); a group without a sequence starts one under
R164, as does a free partition. -/
def State.firstTick (s : State) (p old : Nat) : State :=
  let q := s.part p
  let lo := s.time + 2400
  let fp := s.frm.period.toNat
  let grid := match s.frm.epoch with | some e => if fp = 0 then 0 else stepTo e fp lo | none => 0
  let shared := if grid = 0 then 0 else sharedGrid s lo
  if q.locked then
    let g := q.lgrp.toNat
    let x := s.group g
    if x.hasSeq && !barred s x then
      let i := ceilMul q.m (nextIndex s x + q.m)
      s.modPart p (fun q => { q with firstIdx := i, next := baseTime s x i })
    else if x.xmod && !(s.plk.master && s.plk.masterId == s.plk.modid) then
      s.modPart p (fun q => { q with firstIdx := 0, next := 0, joinAt := some s.time })
    else
      let e := if x.xmod then shared else grid
      (s.modGroup g (fun x => { x with hasSeq := true, next := e, index := 0 })).modPart p (fun q => { q with firstIdx := 0, next := e })
  else if old = 0 then s.modPart p (fun q => { q with next := grid })
  else s.modPart p (fun q => { q with next := stepTo old (Max.max 1 (q.m * fp)) lo })

/-- The partition starts again with an empty slot table after a load that failed or was abandoned (07 R217, R218). -/
def State.undrain (s : State) (p : Nat) : State :=
  let q := s.part p
  let s1 := q.clusters.foldl (fun s g => s.modCluster g (fun k =>
    { k with drainReq := false, state := if k.state == .drained then .assigned else k.state })) s
  let s2 := s1.modPart p (fun q => { q with drainReq := false, cut := false, verdict := none })
  if q.state == .drained then (s2.modPart p (fun q => { q with state := .running })).firstTick p (q.follow s.frm.period.toNat) else s2

end Sys2Proof.Machine
end

