-- ==== Sys2Proof/Machine/Power.lean ====
section
/-! DEFINITION. Power input, reset, start-up stages, throttle levels and the PPS pins (17 R467 to R489). -/
namespace Sys2Proof.Machine

/-! ## Loss of power and reset -/

/-- The bytes that lie outside the module: board expanders and host memory (00 R1). -/
def outsideMem (m : Mem) : Mem :=
  m.filter (fun e => (decide (boardBase ≤ e.1) && decide (e.1 < boardEnd)) || decide (hostBase ≤ e.1))

/-- Every register at its reset value; flash, memory outside the module, the queue and the model's draw counter stay
(00 R12, 16 R442; the module's own memories: notes/assumptions/3.md). `w` is what the sequencer keeps. -/
def State.cleared (s : State) (w : Pwr) : State :=
  { flash := s.flash, mem := outsideMem s.mem, pending := s.pending, draw := s.draw, pwr := w }

/-- A loss of 42 V: the rails are down and PWR_GOOD is deasserted (17 R467, R475). -/
def State.powerLoss (s : State) (latch trip : Bool) : State :=
  s.cleared { p42v := s.pwr.p42v, bias := s.pwr.bias, railsUp := false, latched := s.pwr.latched || latch, tripped := s.pwr.tripped || trip, inReset := true }

/-- P42V above 38.0 V for 10 ms: the sequencer starts the rails, unless it is latched (17 R467, R476). -/
def execP42vStart (mv : Nat) (s : State) : Host.Outcome State Fault Refusal :=
  if !s.pwr.railsUp && !s.pwr.latched && decide (38000 < mv) && decide (mv ≤ 48000) then
    ok (s.modPwr (fun w => { w with starting := true, bias := true, p42v := BitVec.ofNat 16 mv }))
  else ok s

/-- The last rail is in regulation: PWR_GOOD is released, and the module is in reset until a deassertion of MOD_RESET_N
(17 R475, R477). -/
def execRailsInRegulation (s : State) : Host.Outcome State Fault Refusal :=
  if s.pwr.starting then
    ok (s.modPwr (fun w => { w with railsUp := true, starting := false, inReset := true, lockedOut := false }))
  else ok s

/-- P42V at `mv` lies outside the operating range: alert VOLT and code 0x0902 (17 R467, R473). -/
def State.voltageMet (s : State) (mv : Nat) : State :=
  if mv < 38000 ∨ 46000 < mv then (s.alert 1).event 0x0902 0 mv else s

/-- P42V moves to `mv`, outside the operating range or back into it (17 R467, R473), whatever the module is in; PWR_INPUT, the alert and the
LIMITS condition follow while its clocks run. The sequencer's bias supply is there from 30 V on (R471; notes/assumptions/71.md). -/
def execP42vOutOfRange (mv : Nat) (s : State) : Host.Outcome State Fault Refusal :=
  let s1 := s.modPwr (fun w => { w with p42v := BitVec.ofNat 16 mv, bias := decide (30000 ≤ mv) })
  ok (s1.live (fun s => ((s.modPwr (fun w => { w with mv := BitVec.ofNat 16 mv })).voltageMet mv).charge 0))

def execLossOf42v (s : State) : Host.Outcome State Fault Refusal :=
  if s.pwr.railsUp || s.pwr.starting then ok (s.powerLoss false false) else ok s

/-- A rail fault is a loss of 42 V; no restart until P42V has fallen below 30 V (17 R476). -/
def execRailFault (s : State) : Host.Outcome State Fault Refusal :=
  if s.pwr.railsUp || s.pwr.starting then ok (s.powerLoss true false) else ok s

/-- THERM_TRIP_N is asserted, and latched, while the sequencer's bias supply is there; rails that are up go down (17 R471). -/
def execThermalTrip (s : State) : Host.Outcome State Fault Refusal :=
  if s.pwr.railsUp || s.pwr.starting then ok (s.powerLoss true true)
  else if s.pwr.bias then ok (s.modPwr (fun w => { w with latched := true, tripped := true }))
  else ok s

/-- P42V below 30 V releases the latches of R471 and R476; it is itself a loss of 42 V. -/
def execP42vBelow30V (s : State) : Host.Outcome State Fault Refusal :=
  let s1 := if s.pwr.railsUp || s.pwr.starting then s.powerLoss false false else s
  ok (s1.modPwr (fun w => { w with latched := false, tripped := false, bias := false }))

/-- Assertion of MOD_RESET_N is a full reset (17 R477, 16 R442). -/
def execModResetAssert (s : State) : Host.Outcome State Fault Refusal :=
  if s.pwr.railsUp then
    ok (s.cleared { p42v := s.pwr.p42v, bias := s.pwr.bias, inReset := true, latched := s.pwr.latched, tripped := s.pwr.tripped })
  else ok s

/-- A deassertion of MOD_RESET_N under the timing rule starts stage ROM at time base 0; any other is ignored until a fresh
assertion (17 R477, 06 R159). P42V outside the operating range is met as the module starts (R473). -/
def execModResetDeassert (goodUs assertedUs : Nat) (refStable : Bool) (s : State) : Host.Outcome State Fault Refusal :=
  if s.pwr.railsUp && s.pwr.inReset && !s.pwr.lockedOut then
    if decide (1000 ≤ goodUs) && decide (20000 ≤ assertedUs) && refStable then
      let s1 : State := { s.modPwr (fun w => { w with inReset := false, stage := .rom }) with time := 0 }
      ok (s1.voltageMet s.pwr.p42v.toNat)
    else ok (s.modPwr (fun w => { w with lockedOut := true }))
  else ok s

/-! ## Start-up stages (17 R485) -/

/-- In stage `st`, with the clocks running, do `f`. -/
def State.inStage (s : State) (st : Stage) (f : State → State) : State :=
  if s.alive && s.pwr.stage == st then f s else s

def State.toStage (s : State) (st : Stage) : State := s.modPwr (fun w => { w with stage := st })

/-- The ROM derives the identity: IDOK and MGT_IDFP, or alert IDFAIL and code 0x0030 (17 R489). -/
def execRomIdentity (derived certified : BitVec 512) (s : State) : Host.Outcome State Fault Refusal :=
  ok (s.inStage .rom (fun s =>
    let s1 := (s.modPwr (fun w => { w with pubKey := derived, idok := decide (derived = certified) })).toStage .fw
    if derived = certified then
      s1.modMgt 0 (fun m => { m with idfp := BitVec.ofNat 64 (leNat ((moduleDigest s1).take 8)) })
    else (s1.alert 5).event 0x0030 0 0))

/-- A firmware update has written the copy, so that flash lists a byte of its area. -/
def fwWritten (s : State) (b : Bool) : Bool := s.flash.any (fun e => decide (fwBase b ≤ e.1) && decide (e.1 < fwBase b + 0x1000000))

/-- Bytes of a Bubarus copy. Of a copy that no update has written the manual does not give the factory's content, which is free
(notes/assumptions/10.md). -/
def fwRd (s : State) (b : Bool) (off n : Nat) : List Byte :=
  if fwWritten s b then s.flRd (fwBase b + off) n else (List.range n).map (fun i => Config.factoryByte b (off + i))

/-- SEQ, LENGTH and SUPPORT_END of a Bubarus copy (17 R484). -/
def fwSeqAt (s : State) (b : Bool) : Nat := leNat (fwRd s b 8 8)
def fwLenAt (s : State) (b : Bool) : Nat := Min.min (leNat (fwRd s b 0x10 8)) 0x1000000
def fwSupportEndAt (s : State) (b : Bool) : W64 := BitVec.ofNat 64 (leNat (fwRd s b 0x18 8))

/-- Offset of a copy's SIGNATURE (17 R484). -/
def fwSigOff (s : State) (b : Bool) : Nat := leNat (fwRd s b 0x20 8)

/-- The SIGNATURE section of a copy. -/
def fwSection (s : State) (b : Bool) : List Byte := fwRd s b (fwSigOff s b) (sectionLen (fwRd s b (fwSigOff s b) 8))

/-- The header and the head of SIGNATURE of a copy are legal (17 R484, 07 R207). -/
def fwHeaderOk (s : State) (b : Bool) : Bool :=
  let h := fwRd s b 0 64
  let o := fwSigOff s b
  let g := fwRd s b o 8
  h.take 6 == [0x51#8, 0x46, 0x46, 0x57, 0x00, 0x01] && bytesN h 6 2 = 0 && isZero (h.drop 0x28) && decide (bytesN h 0x10 8 ≤ 0x1000000)
    && o % 64 = 0 && sectionOk g && decide (o + sectionLen g ≤ bytesN h 0x10 8) && byteAt g 1 = 0

/-- A copy verifies (17 R484): its header, its signature over the bytes before SIGOFF, and a chain that ends at the root key. The factory's copy
is read like any other, its bytes being free values (notes/assumptions/10.md). -/
def fwCopyOk (s : State) (b : Bool) (x : Seal) : Bool :=
  fwHeaderOk s b && sealCovers x (fwRd s b 0 (fwSigOff s b)) (fwSection s b) && sealAnchored x [] 0 (fwSection s b)

/-- A ring direction of LD starts as working unless a break of it has been met (01 R30, R41; notes/assumptions/22.md). -/
def Mgt.ringUp (m : Mgt) : Mgt := { m with ccwOk := !m.ccwCut, cwOk := !m.cwCut }

/-- The ROM verifies both copies and runs the valid one with the higher SEQ, A when equal, or stops in NOIMAGE (17 R484). CW_OK and CCW_OK of
LD become 1 with Bubarus, of a compute die with its controller: when they do is the model's choice (notes/assumptions/22.md). -/
def execFwVerify (a b : Seal) (s : State) : Host.Outcome State Fault Refusal :=
  ok (s.inStage .fw (fun s =>
    let okA := fwCopyOk s false a
    let okB := fwCopyOk s true b
    let s1 := if okA then s else s.event 0x0031 0 0
    let s2 := if okB then s1 else s1.event 0x0031 1 0
    if !okA && !okB then (s2.toStage .noimage).alert 4 |>.modPwr (fun w => { w with uartCause := w.uartCause + 1 })
    else
      let b := okB && (!okA || decide (fwSeqAt s false < fwSeqAt s true))
      let s3 := s2.modPwr (fun w => { w with bootcopy := b, fwSeq := BitVec.ofNat 64 (fwSeqAt s b),
                                             supportEnd := fwSupportEndAt s b,
                                             mv := w.p42v, stage := .restore })
      (s3.modMgt 0 Mgt.ringUp).measure 1 .ok (fwRd s b 0 (fwLenAt s b)) (BitVec.ofNat 64 (fwSeqAt s b))))

/-- Bubarus restores the recorder, enters the staged occurrences, draws a nonce, and takes the repair record and the key
slots that verify (16 R460, R462; 17 R485, R486, R489). The facts are of the copies' signatures under the identity key; whether the key slots and the helper data verify is the environment's, since the manual gives neither a format (notes/assumptions/10.md). -/
def execRecorderRestore (snapA snapB repA repB : Option SigFact) (okKeys okHelper : Bool) (s : State) :
    Host.Outcome State Fault Refusal :=
  ok (s.inStage .restore (fun s =>
    let id := s.pwr.idok
    let seqOf := fun (base : Bool → Nat) (b : Bool) => leNat (s.flRd (base b + 8) 8)
    let pick := fun (base : Bool → Nat) (a b : Bool) =>
      if id && b && (!a || decide (seqOf base false < seqOf base true)) then some true
      else if id && a then some false else none
    let snap := pick snapBase (id && snapValid s false snapA) (id && snapValid s true snapB)
    let rep := pick recBase (id && repValid s false repA) (id && repValid s true repB)
    let clears := BitVec.ofNat 32 (leNat (s.flRd clearsBase 4))
    let s1 := s.modEvr (fun e => { e with clears := clears })
    let s2 := match snap with
      | some b => s1.modEvr (fun e => { e with slots := slotsAt s (snapBase b), snapSeq := seqOf snapBase b, snapCopy := some b })
      | none => s1
    let s3 := s2.modEvr Evr.unstage
    let s4 := if snap.isSome then s3 else s3.event 0x0007 0 0
    let s5 := s4.newNonce
    let s6 := match rep with
      | some b =>
        let es := repEntriesAt s (recBase b)
        (s5.modCfg (fun c => { c with recSeq := seqOf recBase b, recCopy := some b, repRec := es })).measure 2 .ok
          (s.flRd (recBase b) (16 + 8 * leNat (s.flRd (recBase b + 6) 2))) 0
      | none => s5.event 0x0031 (recBase false / 65536) 0
    let s7 := if id && okKeys then s6.modCfg (fun c => { c with keys := keysAt s })
      else s6.event 0x0031 (keyBase 0 / 65536) 0
    let s8 := if okHelper then s7 else s7.event 0x0031 (0x02010000 / 65536) 0
    s8.toStage .selftest))

/-- Bad columns the repair record lists (07 R210). -/
def recordedBad (s : State) : List (Nat × Nat) :=
  s.cfg.repRec.filterMap (fun e => match e with | .badColumn a c => some (a, c) | _ => none)

/-- Self-test's bad columns, each recorded, merged with the record; the die controllers start as stage HBM is entered
(03 R83, 17 R485). -/
def execArraySelfTest (bad : List (Nat × Nat)) (s : State) : Host.Outcome State Fault Refusal :=
  ok (s.inStage .selftest (fun s =>
    let s1 := bad.foldl (fun s b => s.event 0x0A25 b.1 b.2) s
    let s2 := s1.modCfg (fun c => { c with badCols := (bad ++ recordedBad s).eraseDups })
    let s3 := s2.each [1, 2, 3, 4] (fun s d => s.modMgt d (fun m => { m.ringUp with alive := !m.dead }))
    s3.toStage .hbm))

/-- Mark a pseudo-channel retired; `out` takes it out of the address map (08 R262). -/
def State.markRetired (s : State) (stack pch : Nat) (out : Bool) : State :=
  s.modMig (stack / 4) (fun m => { m with retired := tset none m.retired (32 * (stack % 4) + pch) (some out) })

/-- HBM training: failed and recorded pseudo-channels leave the map; failed ones enter the record under code 0x0035
(17 R485, R486, 08 R262). -/
def execHbmTraining (failed : List (Nat × Nat)) (s : State) : Host.Outcome State Fault Refusal :=
  ok (s.inStage .hbm (fun s =>
    let recd := s.cfg.repRec.filterMap (fun e => match e with | .retiredPch st q => some (st, q) | _ => none)
    let s2 := recd.foldl (fun s f => s.markRetired f.1 f.2 true) s
    let s3 := failed.foldl (fun s f => (s.markRetired f.1 f.2 true).event 0x0035 (32 * f.1 + f.2) 0) s2
    (s3.repairAdd (failed.map (fun f => .retiredPch f.1 f.2))).toStage .links))

/-! ## Ports -/

/-- Number of a port in the repair record (07 R210). -/
def portNum : Port → Nat
  | .hlk => 0 | .plk0 => 1 | .plk1 => 2 | .bmp0 => 3 | .bmp1 => 4 | .bmp2 => 5 | .bmp3 => 6

/-- The ledger holds a link direction of the port (16 R446). -/
def portHeld (s : State) (p : Port) : Bool := linkHeld s (8 + portNum p)

/-- Lanes out of use at a port: those of the repair record (07 R228), and all while the ledger holds it down (16 R446). -/
def lanesOut (s : State) (p : Port) : BitVec 8 :=
  if portHeld s p then 0xFF else s.cfg.repRec.foldl (fun m e => match e with | .lanes q x => if q = portNum p then m ||| x else m | _ => m) 0

/-- All lanes of a port, and one half of them. -/
def portFull : Port → BitVec 8
  | .hlk => 0x0F | _ => 0xFF
def halfOf (p : Port) (l : BitVec 8) : BitVec 8 :=
  match p with
  | .hlk => if l &&& 0x3 = 0x3 then 0x03 else if l &&& 0xC = 0xC then 0x0C else 0
  | _ => if l &&& 0x0F = 0x0F then 0x0F else if l &&& 0xF0 = 0xF0 then 0xF0 else 0

/-- Lanes a WIDTH field allows (08 R267, 10 R322, 15 R438). -/
def widthMask (p : Port) (w : BitVec 2) : BitVec 8 :=
  match p, w.toNat with
  | .hlk, 1 => 0x03
  | .hlk, 2 => 0x0C
  | _, 1 => 0x0F
  | _, 2 => 0xF0
  | q, _ => portFull q

/-- Lanes in use after training on `got`, and the port's state (10 R315, 08 R264, 15 R422). -/
def trained (p : Port) (allowed got : BitVec 8) : BitVec 8 × PortState :=
  let l := got &&& allowed &&& portFull p
  if l = portFull p then (l, .up)
  else
    let h := halfOf p l
    if h = 0 then (0, .training) else (h, if p = .hlk then .up else .upHalf)

/-- WIDTH of a port's control register. -/
def portWidth (s : State) : Port → BitVec 2
  | .hlk => s.hlk.width
  | .plk0 => (s.pport 0).width
  | .plk1 => (s.pport 1).width
  | .bmp0 => (s.bmpOf 0).width
  | .bmp1 => (s.bmpOf 1).width
  | .bmp2 => (s.bmpOf 2).width
  | .bmp3 => (s.bmpOf 3).width

/-- Enter what a training of a port ended with. -/
def State.setPort (s : State) (p : Port) (l : BitVec 8) (st : PortState) : State :=
  match p with
  | .hlk => s.modHlk (fun h => { h with lanes := l.truncate 4, state := st })
  | .plk0 => s.modPport 0 (fun q => { q with lanes := l, state := st, downAt := sinceDown s st q.downAt })
  | .plk1 => s.modPport 1 (fun q => { q with lanes := l, state := st, downAt := sinceDown s st q.downAt })
  | .bmp0 => s.modBmp 0 (fun q => { q with lanes := l, state := st, downAt := sinceDown s st q.downAt })
  | .bmp1 => s.modBmp 1 (fun q => { q with lanes := l, state := st, downAt := sinceDown s st q.downAt })
  | .bmp2 => s.modBmp 2 (fun q => { q with lanes := l, state := st, downAt := sinceDown s st q.downAt })
  | .bmp3 => s.modBmp 3 (fun q => { q with lanes := l, state := st, downAt := sinceDown s st q.downAt })

/-- A port trains on the lanes that answer: full or half width; a lane that failed enters the repair record, and the host
link on two lanes is recorded under code 0x0407 (10 R315, 17 R486, 07 R228). -/
def State.trainPort (s : State) (p : Port) (got : BitVec 8) : State :=
  let allowed := widthMask p (portWidth s p) &&& ~~~ lanesOut s p
  let (l, st) := trained p allowed got
  let s1 := s.setPort p l st
  if l = 0 || l = portFull p then s1
  else
    let s2 := if p = .hlk then s1.event 0x0407 0 l.toNat
      else if p = .plk0 then s1.event 0x0808 0 l.toNat else if p = .plk1 then s1.event 0x0808 1 l.toNat else s1
    let lost := portFull p &&& ~~~ got
    if lost &&& widthMask p (portWidth s p) = 0 then s2 else s2.repairAdd [.lanes (portNum p) (portFull p &&& ~~~ l)]

/-- ENABLE of a port; the host port has none. -/
def portEnabled (s : State) : Port → Bool
  | .hlk => true
  | .plk0 => (s.pport 0).enable
  | .plk1 => (s.pport 1).enable
  | .bmp0 => (s.bmpOf 0).enable
  | .bmp1 => (s.bmpOf 1).enable
  | .bmp2 => (s.bmpOf 2).enable
  | .bmp3 => (s.bmpOf 3).enable

/-- Stage LINKS ends: enabled ports come up, or go on training; board ports learn their frames (17 R485, R486; 08 R235). -/
def execLinkTraining (ports : List PortUp) (s : State) : Host.Outcome State Fault Refusal :=
  ok (s.inStage .links (fun s =>
    let s1 := ([Port.hlk, .plk0, .plk1, .bmp0, .bmp1, .bmp2, .bmp3].filter (portEnabled s)).foldl (fun s p => s.setPort p 0 .training) s
    let s2 := (ports.filter (fun u => portEnabled s u.port)).foldl (fun s u =>
      let s' := s.trainPort u.port u.lanes
      let fr := if u.frames.toNat ≤ portFrames then u.frames else BitVec.ofNat 21 portFrames
      if 3 ≤ portNum u.port then s'.modBmp (portNum u.port - 3) (fun b => { b with frames := fr }) else s') s1
    s2.modAud (fun a =>
      { a with linksInit := true,
               links := (List.range 30).foldl (fun t l =>
                 let c : BitVec 16 := BitVec.ofNat 16 (Config.linkCredits l).toNat
                 tset {} t l { total := c, free := c }) [] })))

/-- The highest boot range whose 16 frames are all in service (17 R487): candidates from the top in steps of 32 MiB. -/
def bootRange (s : State) : Option Nat :=
  ((List.range (hbmEnd / 0x2000000)).find? (fun k =>
    let a := hbmEnd - (k + 1) * 0x2000000
    (List.range 16).all (fun i => let x := a + i * pageSize; !pchRetired s (stackOf x) (pchOf (x / pageSize))))).map
    (fun k => hbmEnd - (k + 1) * 0x2000000)

/-! ## Throttle levels and the current guard (17 R469, R470) -/

/-- Level of a temperature in 0.1 °C whose first step lies at `base` + 10 (R469). -/
def tempTerm (base t : Int) : Nat :=
  if t < base + 10 then 0 else if base + 150 ≤ t then 15 else ((t - base) / 10).toNat

/-- The level of one compute die (R469): the largest of the four terms. -/
def dieLevel (lp floor : BitVec 4) (t : DieTemp) : Nat :=
  Max.max (Max.max (tempTerm 950 t.tj) (tempTerm 850 t.hbm)) (Max.max lp.toNat floor.toNat)

/-- A die's level, recorded when it changes (R469). -/
def State.setLevel (s : State) (d : Nat) (lv : BitVec 4) : State :=
  if tget 0 s.frm.throt d = lv then s
  else ((s.sampleGroups.modFrm (fun f => { f with throt := tset 0 f.throt d lv })).event 0x0900 (dieCode d) lv.toNat).alert 0

/-- Enter one die's measurement: PWR_TEMPd, the LIMITS condition, and the level with its record (R469, R473). -/
def State.dieTemp (s : State) (t : DieTemp) : State :=
  if 4 < t.die then s
  else
    let old := tget {} s.pwr.temps t.die
    let tm : Int := if !old.met then t.tj else if old.tmax.toInt < t.tj then t.tj else old.tmax.toInt
    let hbm : Int := if t.die = 4 then 0 else t.hbm
    let new : Temp := { met := true, tmax := BitVec.ofInt 16 tm, hbm := BitVec.ofInt 16 hbm, tj := BitVec.ofInt 16 t.tj }
    let s1 := s.modPwr (fun w => { w with temps := tset {} w.temps t.die new })
    let s2 := (if 1050 ≤ t.tj then (s1.alert 2).event 0x0903 (dieCode t.die) t.tj.toNat
      else if 950 ≤ hbm then (s1.alert 2).event 0x0903 (dieCode t.die) hbm.toNat else s1).charge 0
    if t.die = 4 then s2
    else s2.setLevel t.die (BitVec.ofNat 4 (dieLevel s.pwr.lp s.pwr.floor t))

/-- A die without a new measurement: its last temperatures under the present ℓ_P and FLOOR. -/
def State.dieAgain (s : State) (d : Nat) : State :=
  let t := tget {} s.pwr.temps d
  s.setLevel d (BitVec.ofNat 4 (dieLevel s.pwr.lp s.pwr.floor { die := d, tj := t.tj.toInt, hbm := t.hbm.toInt }))

def execThrottleUpdate (temps : List DieTemp) (s : State) : Host.Outcome State Fault Refusal :=
  ok (s.live (fun s => ([0, 1, 2, 3].filter (fun d => !temps.any (fun t => t.die = d))).foldl State.dieAgain (temps.foldl State.dieTemp s)))

/-- ℓ_P one higher, up to 15, recorded with the average (R469, R494). -/
def State.raiseLp (s : State) : State :=
  if s.pwr.lp = 15 then s
  else (s.modPwr (fun w => { w with lp := w.lp + 1 })).event 0x0904 0 s.pwr.pavg.toNat

/-- The 1 ms average against PWR_LIMIT (R469). -/
def execPowerTermUpdate (avgW : Nat) (s : State) : Host.Outcome State Fault Refusal :=
  ok (s.live (fun s =>
    let a := BitVec.ofNat 16 avgW
    let s1 := s.modPwr (fun w => { w with pavg := a, pmax := if w.pmax < a then a else w.pmax })
    if s.pwr.limit.toNat < avgW then s1.raiseLp
    else if avgW * 100 < 95 * s.pwr.limit.toNat then
      s1.modPwr (fun w => { w with lp := if w.lp = 0 then 0 else w.lp - 1 })
    else s1))

/-- One guard hold of 1,200 cycles from now (R470). -/
def State.guardHold (s : State) : State :=
  ((s.modPwr (fun w => { w with guardHeld := true, guardEnd := s.time + 1200 })).event 0x0901 0 1200).alert 3

def execCurrentGuardHold (ma : Nat) (s : State) : Host.Outcome State Fault Refusal :=
  ok (s.live (fun s =>
    let s1 := s.modPwr (fun w => { w with ma := BitVec.ofNat 16 ma })
    if 39600 ≤ ma && !s.pwr.guardHeld then s1.guardHold.raiseLp else s1))

/-- A hold ends, and is repeated while the current stays at or above 39.6 A (R470). -/
def execGuardHoldExpiry (ma : Nat) (s : State) : Host.Outcome State Fault Refusal :=
  ok (s.live (fun s =>
    if s.pwr.guardHeld then
      let s1 := (s.advanceTo s.pwr.guardEnd).modPwr (fun w => { w with ma := BitVec.ofNat 16 ma, guardHeld := false })
      if 39600 ≤ ma then s1.guardHold else s1
    else s))

/-- Calendar time has reached SUPPORT_END: the SUPPORT condition fails (17 R484, 16 R451). Time moves to that moment. -/
def execSupportEnd (s : State) : Host.Outcome State Fault Refusal :=
  ok (s.live (fun s =>
    if s.frm.calSet then
      let left := s.pwr.supportEnd.toNat - calNs s s.time
      (s.advanceTo (s.time + ceilDiv (left * 6) 5)).charge 0
    else s))

/-! ## PPS (15 R436, 17 R482) -/

/-- Shared time (15 R433): the time base plus the offset. -/
def sharedTime (s : State) : Nat := ((s.time : Int) + s.plk.toffset).toNat

def execPpsInEdge (s : State) : Host.Outcome State Fault Refusal :=
  ok (s.live (fun s =>
    if s.plk.locked then s.modPlk (fun k => { k with pps := BitVec.ofNat 64 (sharedTime s) }) else s))

/-- Shared time crosses the next multiple of 1,200,000,000: PPS_OUT is released for 100 ms. -/
def execPpsOutPulse (s : State) : Host.Outcome State Fault Refusal :=
  ok (s.live (fun s =>
    if s.plk.locked then
      let sh := sharedTime s
      let s1 := s.advanceTo (s.time + (1200000000 - sh % 1200000000) % 1200000000)
      s1.modPwr (fun w => { w with ppsOut := true, ppsOutEnd := s1.time + 120000000 })
    else s))

def execPpsOutEnd (s : State) : Host.Outcome State Fault Refusal :=
  ok (s.live (fun s =>
    if s.pwr.ppsOut then (s.advanceTo s.pwr.ppsOutEnd).modPwr (fun w => { w with ppsOut := false }) else s))

end Sys2Proof.Machine
end

