-- ==== Sys2Proof/Machine/Pages.lean ====
section
/-! DEFINITION. The page table, page states, migration engines, hints, pins, retirement and board ports (08). -/
namespace Sys2Proof.Machine

/-! ## The page table (R240 to R243) -/

/-- A leaf entry (R242). -/
structure Leaf where
  state  : Nat := 0
  pinS   : Nat := 0
  pinB   : Nat := 0
  bframe : Nat := 0
  sframe : Nat := 0
  lastUse : Nat := 0
  prior  : Nat := 0
  hstack : Nat := 0
  retain : Nat := 0
  stay   : Bool := false
deriving DecidableEq, Repr

def PageState.code : PageState → Nat
  | .unmapped => 0 | .stacked => 1 | .board => 2 | .bothClean => 3 | .bothDirty => 4
  | .promoting => 5 | .evicting => 6 | .relocating => 7

/-- State of a leaf; reserved codes name none. -/
def pageStateOf : Nat → Option PageState
  | 0 => some .unmapped | 1 => some .stacked | 2 => some .board | 3 => some .bothClean | 4 => some .bothDirty
  | 5 => some .promoting | 6 => some .evicting | 7 => some .relocating | _ => none

def leafOf (w0 w1 : Nat) : Leaf :=
  { state := fieldNat w0 63 60, pinS := fieldNat w0 59 53, pinB := fieldNat w0 52 46, bframe := fieldNat w0 43 22,
    sframe := fieldNat w0 19 0, lastUse := fieldNat w1 63 48, prior := fieldNat w1 43 40, hstack := fieldNat w1 39 36,
    retain := fieldNat w1 35 34, stay := bitAt w1 33 }

def Leaf.w0 (l : Leaf) : Nat :=
  l.state * 2 ^ 60 + l.pinS * 2 ^ 53 + l.pinB * 2 ^ 46 + l.bframe * 2 ^ 22 + l.sframe
def Leaf.w1 (l : Leaf) : Nat :=
  l.lastUse * 2 ^ 48 + l.prior * 2 ^ 40 + l.hstack * 2 ^ 36 + l.retain * 2 ^ 34 + b2n l.stay * 2 ^ 33

/-- Address of the leaf entry of page `g` of the table at `base`, if its directory entry is valid (R240, R241). -/
def leafAddr (s : State) (base g : Nat) : Option Nat :=
  let d := s.rdN (base + 8 * (g / 2048)) 8
  if bitAt d 0 then some (fieldNat d 47 15 * 32768 + 16 * (g % 2048)) else none

def readLeaf (s : State) (p g : Nat) : Option Leaf :=
  (leafAddr s (s.part p).ptBase.toNat g).map (fun a => leafOf (s.rdN a 8) (s.rdN (a + 8) 8))

def State.writeLeaf (s : State) (p g : Nat) (l : Leaf) : State :=
  match leafAddr s (s.part p).ptBase.toNat g with
  | some a => (s.wrN a 8 l.w0).wrN (a + 8) 8 l.w1
  | none => s

def sAddr (f : Nat) : Nat := f * pageSize
def bAddr (b : Nat) : Nat := boardBase + b * pageSize
def pageOf (va : Nat) : Nat := (va - uniBase) / pageSize

/-- Where a unified access goes (R244). -/
inductive Tr where
  | at (pa : Nat)
  | wait
  | fail
deriving DecidableEq, Repr

/-- Translate an access of partition `p` (R38, R244). -/
def translate (s : State) (p va : Nat) (write : Bool) : Tr :=
  match readLeaf s p (pageOf va) with
  | none => .fail
  | some l =>
    let off := va % pageSize
    match pageStateOf l.state with
    | some .stacked | some .bothClean | some .bothDirty => .at (sAddr l.sframe + off)
    | some .board => .at (bAddr l.bframe + off)
    | some .promoting => .wait
    | some .evicting | some .relocating => if write then .wait else .at (sAddr l.sframe + off)
    | _ => .fail

/-- A write to this unified address waits on an EVICTING or RELOCATING page (R244, R255). -/
def leavingPage (s : State) (p : Option Nat) (va : Nat) : Bool :=
  match p with
  | none => false
  | some p =>
    decide (uniBase ≤ va) && decide (va < uniEnd) &&
      (match (readLeaf s p (pageOf va)).bind (fun l => pageStateOf l.state) with
       | some .evicting | some .relocating => true
       | _ => false)

/-- The wait of a write on such a page is over: event 0x0207 with the cycles waited (R255). -/
def State.writeWaited (s : State) (p : Option Nat) (heldAt : Option Nat) : State :=
  match p, heldAt with
  | some p, some t => s.event 0x0207 p (s.time - t)
  | _, _ => s

/-- The dirty mark of a write to a BOTH_CLEAN page (R245). -/
def State.markDirty (s : State) (p g : Nat) : State :=
  match readLeaf s p g with
  | some l => if l.state = 3 then s.writeLeaf p g { l with state := 4 } else s
  | none => s

/-! ## Frames (R235, R238, R497) -/

def ownerKey (p g : Nat) : Nat := 1 + p * 2 ^ 23 + g
def engineKey : Nat := 1 + 64 * 2 ^ 23
def ownerPart (v : Nat) : Nat := (v - 1) / 2 ^ 23
def ownerPage (v : Nat) : Nat := (v - 1) % 2 ^ 23

/-- The boot range in force, while a partition is defined (17 R487, 07 R206). -/
def bootInForce (s : State) : List Nat := if s.partList.isEmpty then [] else s.cfg.bootRange.toList

/-- The frame lies in the boot range in force, or in that of a load from flash that is still queued: its bytes are not handed out either
(notes/assumptions/78.md). -/
def inBoot (s : State) (f : Nat) : Bool :=
  (bootInForce s ++ (s.cfg.queue.filter (·.flash)).map (·.src)).any (fun a => decide (a / pageSize ≤ f) && decide (f < a / pageSize + 16))

/-- A stacked frame is on a free list. -/
def sFree (s : State) (f : Nat) : Bool :=
  tget 0 s.sAlloc f == 0 && !pchRetired s (f / stackFrames) (pchOf f) && !inBoot s f

/-- First free frame of pseudo-channel `q` of stack `h`. -/
def freeInPch (s : State) (h q : Nat) : Option Nat :=
  ((List.range 1152).map (fun k => h * stackFrames + 32 * k + q)).find? (sFree s)

/-- The frame an engine takes on a stack, and the pointer after it (R497). -/
def freeOnStack (s : State) (h : Nat) : Option (Nat × Nat) :=
  let ptr := tget 0 (s.migOf (h / 4)).ptr (h % 4)
  (List.range 32).findSome? (fun i =>
    let q := (ptr + i) % 32
    (freeInPch s h q).map (fun f => (f, (q + 1) % 32)))

/-- Stacks the partition may use (07 R198, MEM_PCFG.STACKS). -/
def stacksOf (s : State) (p : Nat) : List Nat := (List.range 16).filter (fun h => (s.part p).stackMask.toNat.testBit h)

/-- Take a stacked frame for a page: home stack first, then the other allowed stacks of the die (R497). -/
def State.takeStacked (s : State) (p home owner : Nat) : Option (Nat × State) :=
  let order := home :: (stacksOf s p).filter (fun h => h / 4 = home / 4 && h ≠ home)
  order.findSome? (fun h => (freeOnStack s h).map (fun fp =>
    (fp.1, { s with sAlloc := tset 0 s.sAlloc fp.1 owner }.modMig (h / 4) (fun m => { m with ptr := tset 0 m.ptr (h % 4) fp.2 }))))

/-- First free present board frame of port `n`, from frame `k` on, none past the port's own window. -/
def freeBoardFrom (s : State) (n : Nat) : Nat → Nat → Option Nat
  | 0, _ => none
  | fuel + 1, k =>
    let b := n * portFrames + k
    if decide (k < portFrames) && boardPresent s b then (if tget 0 s.bAlloc b = 0 then some b else freeBoardFrom s n fuel (k + 1)) else none

/-- The board frame engine `c` takes (R238, R497). -/
def freeBoard (s : State) (c : Nat) : Option Nat :=
  (c :: [0, 1, 2, 3].filter (· ≠ c)).findSome? (fun n => freeBoardFrom s n (s.bAlloc.length + 1) 0)

def usedS (s : State) (p : Nat) : Nat := (s.sAlloc.filter (fun e => ownerPart e.2 = p)).length
def usedB (s : State) (p : Nat) : Nat := (s.bAlloc.filter (fun e => ownerPart e.2 = p)).length

/-- Room for one more board frame of the partition (R246). -/
def boardRoom (s : State) (p c : Nat) : Option Nat :=
  if usedB s p < (s.part p).boardQuota then freeBoard s c else none

def State.freeS (s : State) (f : Nat) : State := { s with sAlloc := tset 0 s.sAlloc f 0 }
def State.freeB (s : State) (b : Nat) : State := { s with bAlloc := tset 0 s.bAlloc b 0 }
def State.holdS (s : State) (f v : Nat) : State := { s with sAlloc := tset 0 s.sAlloc f v }
def State.holdB (s : State) (b v : Nat) : State := { s with bAlloc := tset 0 s.bAlloc b v }

/-! ## Invalidation (04 R121) -/

/-- Who must acknowledge an invalidation of a partition's page: its clusters, and each update engine, numbered 640 + d, that runs a command of
the partition or holds a translation of the page (04 R121, 13 R371). -/
def ackers (s : State) (p g : Nat) : List Nat :=
  (s.part p).clusters ++ (([0, 1, 2, 3].filter (fun d =>
    (s.updOf d).part == some p || (s.updOf d).tlb.any (fun t => t.part = p && t.page = g))).map (· + 640))

/-- Send an invalidation to all of them; frames given are reused after the last acknowledgement. -/
def State.invalidate (s : State) (d p g : Nat) (fs fb : Option Nat) : State :=
  let s1 := match fs with | some f => s.holdS f engineKey | none => s
  let s2 := match fb with | some b => s1.holdB b engineKey | none => s1
  if (ackers s p g).isEmpty then
    let s3 := match fs with | some f => s2.freeS f | none => s2
    match fb with | some b => s3.freeB b | none => s3
  else s2.modMig d (fun m => { m with inval := m.inval ++ [(p, g, ackers s p g, fs, fb)] })

/-! ## Settling hints (R259) -/

inductive Settle where
  | done | refused | deferred
deriving DecidableEq, Repr

/-- The completion result of a hint (R259). -/
def hintResult (c : Cmd) : W64 := BitVec.ofNat 64 (c.hRef * 2 ^ 47 + c.hDef * 2 ^ 30 + c.hDone)

/-- A hint with no page left to settle has ended (R259). -/
def Cmd.hintEnd (c : Cmd) : Cmd :=
  if c.phase = .started ∧ c.hWait = [] then
    { c with phase := .ended (if c.hRef = 0 then .ok else .bound) 0 (hintResult c) }
  else c

def Cmd.settle (c : Cmd) (o : Settle) (n : Nat) : Cmd :=
  match o with
  | .done => { c with hDone := c.hDone + n }
  | .refused => { c with hRef := c.hRef + n }
  | .deferred => { c with hDef := c.hDef + n }

/-- Page `g` has settled for every hint of the partition that waits on it; for a COPY, for the hint of that stream and SEQ only. -/
def State.settlePage (s : State) (p g : Nat) (only : Option (Nat × BitVec 16)) (o : Settle) : State :=
  let upd := fun (c : Cmd) =>
    if c.hWait.contains g && (c.hCopy == only.isSome) && only.all (fun x => x.2 = c.seq) then
      ({ c with hWait := c.hWait.erase g }.settle o 1).hintEnd else c
  let ss := s.stm.streams.map (fun e =>
    if e.2.part.toNat = p && only.all (fun x => x.1 = e.1) then (e.1, { e.2 with cmds := e.2.cmds.map upd }) else e)
  { s with stm := { s.stm with streams := ss } }

/-- Whether some hint waits on the page. -/
def awaited (s : State) (p g : Nat) : Bool :=
  s.stm.streams.any (fun e => e.2.part.toNat = p && e.2.cmds.any (fun c => c.hWait.contains g && !c.hCopy))

/-! ## Deferral (R247, R248) -/

def State.countDeferred (s : State) (p g : Nat) : State :=
  (s.modPart p (fun q => { q with deferred := satAdd q.deferred 1 })).event 0x0201 p g
def State.countRefused (s : State) (p : Nat) : State :=
  s.modPart p (fun q => { q with refused := satAdd q.refused 1 })

/-- List a deferred request at its engine: merged with a listed one, refused when the list is full (R248). -/
def State.defer (s : State) (d p g : Nat) (k : ReqKind) : Settle × State :=
  let m := s.migOf d
  let r : Deferred := ⟨p, g, k⟩
  if m.dlist.contains r then (.deferred, s.countDeferred p g)
  else if m.dlist.length < 4096 then
    (.deferred, (s.modMig d (fun m => { m with dlist := m.dlist ++ [r] })).countDeferred p g)
  else (.refused, (s.countRefused p).event 0x0205 p g)

/-- PLACE or UNMAP cancels a listed eviction (R248). -/
def State.cancelEvict (s : State) (d p g : Nat) : State :=
  s.modMig d (fun m => { m with dlist := m.dlist.filter (· ≠ ⟨p, g, .evict⟩) })

/-! ## Copies (R238) -/

def State.queueCopy (s : State) (d : Nat) (c : PageCopy) : State :=
  s.modMig d (fun m => { m with waiting := m.waiting ++ [c] })

/-- A BOTH_CLEAN page becomes BOARD at once; its frame is free after the acknowledgements (R246). -/
def State.evictClean (s : State) (d p g : Nat) (l : Leaf) : State :=
  (s.writeLeaf p g { l with state := 2 }).invalidate d p g (some l.sframe) none

/-- Start an eviction by copy (R246): the board frame is given. -/
def State.evictStart (s : State) (d p g : Nat) (l : Leaf) (b : Nat) : State :=
  ((s.holdB b (ownerKey p g)).writeLeaf p g { l with state := 6, bframe := b }).queueCopy d
    { part := p, page := g, kind := .evict, wasStacked := decide (l.state = 1) }

/-- Order of victim choice: smaller first (R249). -/
def victimKey (frame : Nat) (g : Nat) (l : Leaf) : Nat :=
  let age := (frame + 65536 - l.lastUse) % 65536
  b2n (l.state ≠ 3) * 2 ^ 60 + l.retain * 2 ^ 50 + (65535 - age) * 2 ^ 30 + g

/-- Pages of the partition on the die's stacks that may be evicted (R249), with their leaves. -/
def victims (s : State) (d p : Nat) : List (Nat × Leaf) :=
  (s.sAlloc.filter (fun e => e.1 / stackFrames / 4 = d && ownerPart e.2 = p)).filterMap (fun e =>
    let g := ownerPage e.2
    match readLeaf s p g with
    | some l =>
      if l.pinS = 0 ∧ !l.stay ∧ (l.state = 3 ∨ ((l.state = 1 ∨ l.state = 4) ∧ (boardRoom s p d).isSome)) then some (g, l) else none
    | none => none)

def bestVictim (frame : Nat) : List (Nat × Leaf) → Option (Nat × Leaf)
  | [] => none
  | v :: vs =>
    match bestVictim frame vs with
    | none => some v
    | some w => if victimKey frame v.1 v.2 ≤ victimKey frame w.1 w.2 then some v else some w

/-- Evict one page to make room for a promotion; `none` when no page qualifies (R249). -/
def State.evictVictim (s : State) (d p : Nat) : Option State :=
  match bestVictim ((s.part p).frame.toNat % 65536) (victims s d p) with
  | none => none
  | some (g, l) =>
    if l.state = 3 then some (s.evictClean d p g l)
    else if l.state = 4 then some ((s.writeLeaf p g { l with state := 6 }).queueCopy d { part := p, page := g, kind := .evict })
    else (boardRoom s p d).map (fun b => s.evictStart d p g l b)

/-- A frame for a promotion under quota, taken for page `g` (R249). -/
def State.promoFrame (s : State) (p g home : Nat) : Option (Nat × State) :=
  if usedS s p < (s.part p).hbmQuota then s.takeStacked p home (ownerKey p g) else none

/-- Make a waiting copy run. -/
def State.runCopy (s : State) (d : Nat) (c c' : PageCopy) : State :=
  s.modMig d (fun m => { m with waiting := m.waiting.erase c, running := m.running ++ [{ c' with start := s.time }] })

/-- A promotion that cannot be made, from a port that is DOWN: the page stays BOARD (R264). -/
def State.failPromotion (s : State) (d p g : Nat) (c : PageCopy) : State :=
  let s1 := s.modMig d (fun m => { m with waiting := m.waiting.erase c, running := m.running.erase c })
  let s2 := if c.frame = 0 then s1 else s1.freeS (c.frame - 1)
  let s3 := match readLeaf s2 p g with
    | some l => s2.writeLeaf p g { l with state := 2 }
    | none => s2
  s3.settlePage p g none .refused

/-- Try to start one waiting copy (R238, R249). A promotion without a frame stays waiting. `frame` holds frame + 1. -/
def State.tryStart (s : State) (d : Nat) (c : PageCopy) : State :=
  match c.kind with
  | .evict | .relocate => s.runCopy d c c
  | .hint dst n q =>
    if (readLeaf s c.part c.page).any (fun l => l.state ≠ 0) && (readLeaf s c.part dst).any (fun l => l.state ≠ 0) then
      s.runCopy d c c
    else
      ((s.modMig d (fun m => { m with waiting := m.waiting.erase c })).countRefused c.part).settlePage c.part c.page (some (n, q)) .refused
  | .promote =>
    match readLeaf s c.part c.page with
    | none => s
    | some l =>
      if !boardPresent s l.bframe then s.failPromotion d c.part c.page c
      else
        match s.promoFrame c.part c.page l.hstack with
        | some (f, s1) =>
          (s1.writeLeaf c.part c.page { l with sframe := f }).runCopy d c { c with frame := f + 1, retry := false, claimed := false }
        | none =>
          if c.claimed || c.retry then s
          else
            let swap := fun (s : State) (c' : PageCopy) =>
              s.modMig d (fun m => { m with waiting := m.waiting.map (fun x => if x = c then c' else x) })
            match s.evictVictim d c.part with
            | some s1 =>
              match s1.promoFrame c.part c.page l.hstack with
              | some (f, s2) =>
                (s2.writeLeaf c.part c.page { l with sframe := f }).runCopy d c { c with frame := f + 1 }
              | none => swap s1 { c with claimed := true }
            | none => (swap s { c with retry := true }).event 0x0204 c.part c.page

/-- One pass over the waiting copies, in order, while places are free (R238). -/
def State.startPass (s : State) (d : Nat) : State :=
  (s.migOf d).waiting.foldl (fun s c => if (s.migOf d).running.length < 8 then s.tryStart d c else s) s

/-- Start waiting copies; the second pass starts the evictions that the first has asked for (R249). -/
def State.startCopies (s : State) (d : Nat) : State := (s.startPass d).startPass d

/-- Evictions of partition `p` under way at an engine, each of which will free a stacked frame. -/
def freeing (m : Mig) (p : Nat) : Nat :=
  ((m.running ++ m.waiting).filter (fun c => c.part = p && c.kind == .evict)).length
    + (m.inval.filter (fun i => i.1 = p && i.2.2.2.1.isSome)).length

/-- Promotions whose search is to be repeated: all that found no victim, and those left over when the first `n` claims are served. -/
def reclaim (p : Nat) : Nat → List PageCopy → List PageCopy
  | _, [] => []
  | n, c :: l =>
    if c.part ≠ p then c :: reclaim p n l
    else if c.claimed && decide (0 < n) then { c with retry := false } :: reclaim p (n - 1) l
    else { c with retry := false, claimed := false } :: reclaim p n l

/-- Search again for the promotions that found no victim, or whose victim's eviction has been abandoned or its frame taken (R249). -/
def State.retryPromotions (s : State) (p : Nat) : State :=
  s.each [0, 1, 2, 3] (fun s d =>
    (s.modMig d (fun m => { m with waiting := reclaim p (freeing m p) m.waiting })).startCopies d)

/-- Abandon the eviction under way of a page (R247): it returns to STACKED or BOTH_DIRTY and counts as deferred; a hint's
request is listed. -/
def State.abandonEvict (s : State) (d p g : Nat) (l : Leaf) : State :=
  let m := s.migOf d
  match (m.running ++ m.waiting).find? (fun c => c.part = p && c.page = g && c.kind == .evict) with
  | none => s
  | some c =>
    let s1 := s.modMig d (fun m => { m with running := m.running.erase c, waiting := m.waiting.erase c })
    let s2 := if c.wasStacked then s1.freeB l.bframe else s1
    let s3 := s2.writeLeaf p g { l with state := if c.wasStacked then 1 else 4 }
    let s4 := if awaited s3 p g || m.dlist.contains ⟨p, g, .evict⟩ then (let r := s3.defer d p g .evict; r.2.settlePage p g none r.1) else s3.countDeferred p g
    s4.startCopies d

/-- Begin a promotion of a BOARD page (R246). -/
def State.promote (s : State) (d p g : Nat) (l : Leaf) : State :=
  ((s.writeLeaf p g { l with state := 5 }).queueCopy d { part := p, page := g, kind := .promote }).startCopies d

/-! ## Requests on one page -/

/-- What a request on a page comes to: settled, or waiting for a copy. -/
inductive Outc where
  | settled (o : Settle)
  | waits
deriving DecidableEq, Repr

/-- EVICT of a page (R246, R247). -/
def State.reqEvict (s : State) (d p g : Nat) (l : Leaf) : Outc × State :=
  let dfr := fun (_ : Unit) => let r := s.defer d p g .evict; (Outc.settled r.1, r.2)
  match pageStateOf l.state with
  | some .board => (.settled .done, s)
  | some .evicting => (.waits, s)
  | some .promoting | some .relocating => dfr ()
  | some .bothClean => if l.pinS = 0 then (.settled .done, s.evictClean d p g l) else dfr ()
  | some .bothDirty =>
    if l.pinS = 0 then
      (.waits, ((s.writeLeaf p g { l with state := 6 }).queueCopy d { part := p, page := g, kind := .evict }).startCopies d)
    else dfr ()
  | some .stacked =>
    if l.pinS = 0 then
      match boardRoom s p d with
      | some b => (.waits, (s.evictStart d p g l b).startCopies d)
      | none => dfr ()
    else dfr ()
  | _ => (.settled .refused, s.countRefused p)

/-- A page gives up its board frame while it stays in the stacked tier. TLBs may still hold the frame as the page's place of before a promotion:
it is then free with the last acknowledgement of that (04 R121). -/
def State.dropFrame (s : State) (d p g b : Nat) : State :=
  match (s.migOf d).inval.find? (fun i => i.1 = p && i.2.1 = g) with
  | none => s.freeB b
  | some i =>
    let s1 := s.holdB b engineKey
    if i.2.2.2.2.isNone then s1.modMig d (fun m => { m with inval := m.inval.map (fun j => if j = i then (p, g, i.2.2.1, i.2.2.2.1, some b) else j) })
    else s1.modMig d (fun m => { m with inval := m.inval ++ [(p, g, i.2.2.1, none, some b)] })

/-- DROPB of a page (R246, R247). -/
def State.reqDropb (s : State) (d p g : Nat) (l : Leaf) : Outc × State :=
  let dfr := fun (_ : Unit) => let r := s.defer d p g .dropb; (Outc.settled r.1, r.2)
  match pageStateOf l.state with
  | some .stacked => (.settled .done, s)
  | some .bothClean | some .bothDirty =>
    if l.pinB = 0 then (.settled .done, (s.writeLeaf p g { l with state := 1 }).dropFrame d p g l.bframe) else dfr ()
  | some .promoting | some .evicting | some .relocating => dfr ()
  | _ => (.settled .refused, s.countRefused p)

/-- UNMAP of a page (R246, R247, R258). -/
def State.reqUnmap (s : State) (d p g : Nat) (l : Leaf) : Outc × State :=
  let dfr := fun (_ : Unit) => let r := s.defer d p g .unmap; (Outc.settled r.1, r.2)
  match pageStateOf l.state with
  | some .unmapped => (.settled .done, s)
  | some .stacked =>
    if l.pinS = 0 ∧ l.pinB = 0 then (.settled .done, (s.writeLeaf p g {}).invalidate d p g (some l.sframe) none) else dfr ()
  | some .board =>
    if l.pinS = 0 ∧ l.pinB = 0 then (.settled .done, (s.writeLeaf p g {}).invalidate d p g none (some l.bframe)) else dfr ()
  | some .bothClean | some .bothDirty =>
    if l.pinS = 0 ∧ l.pinB = 0 then
      (.settled .done, (s.writeLeaf p g {}).invalidate d p g (some l.sframe) (some l.bframe)) else dfr ()
  | some .promoting | some .evicting | some .relocating => dfr ()
  | none => (.settled .refused, s.countRefused p)

/-- PLACE of a page (R246, R247). -/
def State.reqPlace (s : State) (d p g : Nat) (l : Leaf) : Outc × State :=
  match pageStateOf l.state with
  | some .board => (.waits, s.promote d p g l)
  | some .promoting => (.waits, s)
  | some .evicting => (.settled .done, s.abandonEvict d p g l)
  | some .stacked | some .bothClean | some .bothDirty | some .relocating => (.settled .done, s)
  | _ => (.settled .refused, s.countRefused p)

/-! ## Hints (R257, R258) -/

/-- A hint of 32 bytes (R257). -/
structure Hint where
  op    : Nat
  flags : Nat
  stack : Nat
  rsv   : Bool
  count : Nat
  base  : Nat
  dest  : Nat
deriving DecidableEq, Repr

def hintOf (l : List Byte) : Hint :=
  { op := byteAt l 0, flags := byteAt l 1, stack := byteAt l 2 % 16,
    rsv := decide (byteAt l 1 / 32 ≠ 0) || decide (byteAt l 2 / 16 ≠ 0) || decide (byteAt l 3 ≠ 0)
      || !isZero ((l.drop 0x18).take 8) || (decide (byteAt l 0 ≠ 7) && !isZero ((l.drop 0x10).take 8)),
    count := bytesN l 4 4, base := bytesN l 8 8, dest := bytesN l 0x10 8 }

/-- The half of a split view that lies in the board tier (R239). -/
def boardHalf (g : Nat) : Bool := decide (2 ^ 22 ≤ g)

/-- Home stack of a page that MAP maps (R258). -/
def mapStack (s : State) (p g : Nat) (h : Hint) : Option Nat :=
  if bitAt h.flags 4 then some h.stack
  else
    let l := stacksOf s p
    if l.isEmpty then none else l[g % l.length]?

/-- MAP of one page (R246, R254, R258). -/
def State.mapPage (s : State) (p g : Nat) (h : Hint) : Outc × State :=
  let q := s.part p
  let refuse := (Outc.settled Settle.refused, s.countRefused p)
  match readLeaf s p g with
  | none => refuse
  | some l =>
    if l.state ≠ 0 then (.settled .done, s)
    else
      let stay := bitAt h.flags 1
      let board := if q.mode then boardHalf g else bitAt h.flags 0 && !stay
      match mapStack s p g h with
      | none => refuse
      | some hs =>
        let new : Leaf := { hstack := hs, retain := fieldNat h.flags 3 2, stay := stay, lastUse := 0 }
        if q.mode && boardHalf g && stay then refuse
        else if board then
          match boardRoom s p (hs / 4) with
          | some b => (.settled .done, ((s.holdB b (ownerKey p g)).zero (bAddr b) pageSize).writeLeaf p g { new with state := 2, bframe := b })
          | none => refuse
        else
          match s.promoFrame p g hs with
          | some (f, s1) => (.settled .done, (s1.zero (sAddr f) pageSize).writeLeaf p g { new with state := 1, sframe := f })
          | none => refuse

/-- ATTR of one page (R258); an UNMAPPED page has no attributes and is refused. -/
def State.attrPage (s : State) (p g : Nat) (h : Hint) : Outc × State :=
  let refuse := (Outc.settled Settle.refused, s.countRefused p)
  match readLeaf s p g with
  | none => refuse
  | some l =>
    let l1 := { l with retain := fieldNat h.flags 3 2 }
    if l.state = 0 then refuse
    else if bitAt h.flags 1 then
      (if l.state = 1 then (.settled .done, s.writeLeaf p g { l1 with stay := true })
       else (.settled .refused, (s.writeLeaf p g l1).countRefused p))
    else (.settled .done, s.writeLeaf p g { l1 with stay := false })

/-- One page of a hint, of stream `n` and SEQ `sq` (R258). -/
def State.hintPage (s : State) (n : Nat) (sq : BitVec 16) (p g : Nat) (h : Hint) (i : Nat) : Outc × State :=
  let q := s.part p
  let refuse := (Outc.settled Settle.refused, s.countRefused p)
  match h.op with
  | 1 => s.mapPage p g h
  | 6 => s.attrPage p g h
  | op =>
    match readLeaf s p g with
    | none => refuse
    | some l =>
      let d := l.hstack / 4
      match op with
      | 2 => (s.cancelEvict d p g).reqUnmap d p g l
      | 3 => if q.mode then refuse else (s.cancelEvict d p g).reqPlace d p g l
      | 4 => if q.mode || l.stay then refuse else s.reqEvict d p g l
      | 5 => if q.mode || l.stay then refuse else s.reqDropb d p g l
      | 7 => (.waits, (s.queueCopy d { part := p, page := g, kind := .hint (pageOf h.dest + i) n sq }).startCopies d)
      | _ => refuse

/-- The pages of a hint from index `i` on; gives the counts and the pages that wait. -/
def State.hintPages (s : State) (n p : Nat) (h : Hint) : Nat → Nat → Cmd → State × Cmd
  | 0, _, c => (s, c)
  | k + 1, i, c =>
    let g := pageOf h.base + i
    let r := s.hintPage n c.seq p g h i
    match r.1 with
    | .settled o => State.hintPages r.2 n p h k (i + 1) (c.settle o 1)
    | .waits => State.hintPages r.2 n p h k (i + 1) { c with hWait := c.hWait ++ [g] }

/-- Admission checks of a hint that end in BOUND (R258); `true` passes. -/
def hintBoundOk (s : State) (p : Nat) (h : Hint) : Bool :=
  let okRange := fun (a : Nat) => decide (a % pageSize = 0) && decide (uniBase ≤ a) && decide (a < uniEnd)
    && decide (a + h.count * pageSize ≤ uniEnd)
  okRange h.base && (h.op ≠ 7 || okRange h.dest)
    && !(h.op = 1 && bitAt h.flags 4 && !(s.part p).stackMask.toNat.testBit h.stack)

/-! ## Deferral retry, at the partition's decision point (R248) -/

/-- Retry one listed request; a page that has become STAY refuses it (R254). A listed eviction stays listed while its copy runs, and leaves the
list as done when it finds the page BOARD (R247, R248). -/
def State.retryOne (s : State) (d : Nat) (r : Deferred) : State :=
  let off := s.modMig d (fun m => { m with dlist := m.dlist.erase r })
  match readLeaf s r.part r.page with
  | none => off.countRefused r.part
  | some l =>
    let again := s.countDeferred r.part r.page
    match r.kind, pageStateOf l.state with
    | .dropb, some .stacked => off
    | .evict, some .board => off
    | .evict, some .bothClean => if l.pinS = 0 then off.evictClean d r.part r.page l else again
    | .evict, some .bothDirty => if l.pinS = 0 then (s.reqEvict d r.part r.page l).2 else again
    | .evict, some .stacked =>
      if l.stay then off.countRefused r.part
      else if l.pinS = 0 ∧ (boardRoom s r.part d).isSome then (s.reqEvict d r.part r.page l).2 else again
    | .evict, some .promoting => again
    | .evict, some .relocating | .dropb, some .relocating => if l.stay then off.countRefused r.part else again
    | .evict, some .evicting => s
    | .dropb, some .bothClean | .dropb, some .bothDirty => if l.pinB = 0 then (off.reqDropb d r.part r.page l).2 else again
    | .dropb, some .promoting | .dropb, some .evicting => again
    | .unmap, some .unmapped => off
    | .unmap, some .stacked | .unmap, some .board | .unmap, some .bothClean | .unmap, some .bothDirty =>
      if l.pinS = 0 ∧ l.pinB = 0 then (off.reqUnmap d r.part r.page l).2 else again
    | .unmap, some .promoting | .unmap, some .evicting | .unmap, some .relocating => again
    | _, _ => off.countRefused r.part

def State.retryDeferred (s : State) (p : Nat) : State :=
  s.each [0, 1, 2, 3] (fun s d =>
    ((s.migOf d).dlist.filter (fun r => r.part = p)).foldl (fun s r => s.retryOne d r) s)

/-! ## Retirement (R262) -/

/-- Relocate the page that holds stacked frame `f`, if a frame is found. -/
def State.relocate (s : State) (f owner : Nat) : State :=
  let p := ownerPart owner
  let g := ownerPage owner
  match readLeaf s p g with
  | some l =>
    if (l.state = 1 ∨ l.state = 3 ∨ l.state = 4) ∧ l.sframe = f then
      match s.takeStacked p (f / stackFrames) engineKey with
      | some (nf, s1) =>
        let d := l.hstack / 4
        ((s1.writeLeaf p g { l with state := 7, prior := l.state }).queueCopy d
          { part := p, page := g, kind := .relocate, frame := nf + 1 }).startCopies d
      | none => s
    else s
  | none => s

/-- Relocate every page of `p` (every partition when `none`) that holds a frame of a retired pseudo-channel. -/
def State.relocateAll (s : State) (p : Option Nat) : State :=
  (s.sAlloc.filter (fun e => e.2 ≠ engineKey && pchRetired s (e.1 / stackFrames) (pchOf e.1)
    && p.all (fun q => ownerPart e.2 = q))).foldl (fun s e => s.relocate e.1 e.2) s

/-- Retire a pseudo-channel in service (R262, R228). -/
def State.retirePch (s : State) (stack pch : Nat) : State :=
  if pchRetired s stack pch then s
  else ((s.markRetired stack pch false).repairAdd [.retiredPch stack pch]).relocateAll none

/-- Bubarus is to retire a pseudo-channel; while it restarts, that waits (16 R448, R449). -/
def State.askRetire (s : State) (stack pch : Nat) : State :=
  if s.pwr.mpDown.isSome then s.modAud (fun a => { a with due := a.due ++ [.retire stack pch] }) else s.retirePch stack pch

/-- Frames of a pseudo-channel retired in service that no page holds and that stay in service until the next start (R262 step 4). The register
map gives MEM_RETIREn no field for this count (notes/assumptions/64.md). -/
def pendFrames (s : State) (stack pch : Nat) : Nat :=
  if pchRetired s stack pch && !pchOut s stack pch then
    1152 - (s.sAlloc.filter (fun e => e.1 / stackFrames = stack && pchOf e.1 = pch && e.2 ≠ engineKey)).length
  else 0

/-- MEM_CTL.RETIRE of die `d` (R266). -/
def State.memRetire (s : State) (d : Nat) : State :=
  let m := s.migOf d
  s.retirePch (4 * d + m.stack.toNat) m.pch.toNat

def execRetire (d : Nat) (stack : BitVec 2) (pch : BitVec 5) (s : State) : Host.Outcome State Fault Refusal :=
  ok (s.live (fun s => if d < 4 then (s.modMig d (fun m => { m with stack := stack, pch := pch })).memRetire d else s))

/-- MEM_PCTL.CLRLATE (R266). -/
def State.clrLate (s : State) (p : Nat) : State :=
  s.modPart p (fun q => { q with lateMax := 0, lateCnt := 0, lateHist := [] })
def execClrlate (p : Nat) (s : State) : Host.Outcome State Fault Refusal := ok (s.live (fun s => s.clrLate p))

/-- Bin of a lateness (R256). -/
def lateBin (v : Nat) : Nat := if v = 0 then 0 else Min.min 15 (v.log2 / 2)

/-- A late-page wait of a partition (R255, R256). -/
def State.latePage (s : State) (p cycles : Nat) : State :=
  let c := BitVec.ofNat 32 (Min.min cycles (2 ^ 32 - 1))
  (s.modPart p (fun q =>
    { q with lateCnt := satAdd q.lateCnt 1, lateMax := if q.lateMax < c then c else q.lateMax,
             lateHist := tmod 0 q.lateHist (lateBin cycles) (fun b => satAdd b 1) })).event 0x0203 p cycles

/-! ## Footprints and pins (R251, R252) -/

/-- One footprint entry: page number and STACK. -/
def footEntry (v : Nat) : Nat × Bool := (fieldNat v 22 0, bitAt v 31)

/-- Take one pin: the page, whether it is stacked-tier; `none` when the page is UNMAPPED (R252). -/
def State.pinPage (s : State) (p : Nat) (e : Nat × Bool) : Option (Nat × Bool) × State :=
  let g := e.1
  match readLeaf s p g with
  | none => (none, s)
  | some l =>
    let use := { l with lastUse := (s.part p).frame.toNat % 65536 }
    let d := l.hstack / 4
    match pageStateOf l.state with
    | some .board =>
      if e.2 && !(s.part p).mode then (some (g, true), s.promote d p g { use with pinS := l.pinS + 1 })
      else (some (g, false), s.writeLeaf p g { use with pinB := l.pinB + 1 })
    | some .evicting =>
      let s1 := s.abandonEvict d p g l
      match readLeaf s1 p g with
      | some l1 => (some (g, true), s1.writeLeaf p g { l1 with lastUse := use.lastUse, pinS := l1.pinS + 1 })
      | none => (none, s1)
    | some .stacked | some .bothClean | some .bothDirty | some .promoting | some .relocating =>
      (some (g, true), s.writeLeaf p g { use with pinS := l.pinS + 1 })
    | _ => (none, s)

/-- Release one pin (R252). -/
def State.unpinPage (s : State) (p : Nat) (e : Nat × Bool) : State :=
  match readLeaf s p e.1 with
  | some l => s.writeLeaf p e.1 (if e.2 then { l with pinS := l.pinS - 1 } else { l with pinB := l.pinB - 1 })
  | none => s

/-- Pins of a footprint, in order. -/
def State.pinAll (s : State) (p : Nat) : List (Nat × Bool) → List (Nat × Bool) → List (Nat × Bool) × State
  | [], acc => (acc, s)
  | e :: es, acc =>
    match s.pinPage p e with
    | (some x, s1) => State.pinAll s1 p es (acc ++ [x])
    | (none, s1) => State.pinAll s1 p es acc

/-! ## Steps of the engines -/

/-- A quiet-NaN line (R265). -/
def nanLine : List Byte := (List.replicate 16 [0x00#8, 0x00, 0xC0, 0x7F]).flatten

/-- Fill the poisoned lines of a copied page (R265). -/
def State.fillBad (s : State) (dst : Nat) (bad : List Nat) : State :=
  bad.foldl (fun s i => s.wr (dst + 64 * i) nanLine) s

/-- Every line of a page reaches no location: each is counted (R233). -/
def State.missPage (s : State) (p va : Nat) : State := s.each (List.range 32768) (fun s _ => s.event 0x020E p (va / 2 ^ 21))

/-- An eviction whose board frame lies behind a port that has gone DOWN cannot write it: the page stays in the stacked tier, a frame of another
port is tried, and otherwise the eviction is deferred (R264, R247; notes/assumptions/65.md). -/
def State.failEvict (s : State) (d : Nat) (c : PageCopy) : State :=
  let s0 := s.modMig d (fun m => { m with running := m.running.erase c, waiting := m.waiting.erase c })
  match readLeaf s0 c.part c.page with
  | none => s0
  | some l =>
    let l1 := { l with state := if c.wasStacked then 1 else 4 }
    let s1 := (if c.wasStacked then s0.freeB l.bframe else s0).writeLeaf c.part c.page l1
    let r := s1.reqEvict d c.part c.page l1
    if c.wasStacked && (boardRoom s1 c.part d).isSome then r.2
    else
      let t := s1.defer d c.part c.page .evict
      t.2.settlePage c.part c.page none t.1

/-- Where one end of a COPY hint's copy lies: it waits on a page in motion, and on a board port that trains (R244, R264). -/
def copyEnd (s : State) (p va : Nat) (write : Bool) : Tr :=
  match translate s p va write with
  | .at a => if boardWaits s a then .wait else .at a
  | r => r

/-- A copy over a board port that trains waits for it (R264). -/
def portHolds (s : State) (c : PageCopy) : Bool :=
  (c.kind == .promote || c.kind == .evict) && (readLeaf s c.part c.page).any (fun l => boardWaits s (bAddr l.bframe))

/-- The end of a copy (R246, R250, R262, R265); a listed request for an eviction leaves the list with it (R248); an eviction or relocation that read a bad line leaves BOTH_DIRTY (16 R448). -/
def State.endCopy (s : State) (d : Nat) (c : PageCopy) (us : Nat) : State :=
  let p := c.part
  let g := c.page
  let s0 := s.modMig d (fun m => { m with running := m.running.erase c })
  match readLeaf s0 p g with
  | none => s0
  | some l =>
    match c.kind with
    | .promote =>
      let s1 := (s0.copyMem (bAddr l.bframe) (sAddr l.sframe) pageSize).fillBad (sAddr l.sframe) c.bad
      let s2 := s1.writeLeaf p g { l with state := if c.bad = [] then 3 else 4 }
      ((s2.invalidate d p g none none).event 0x0200 p us).settlePage p g none .done
    | .evict =>
      if !boardPresent s l.bframe then s.failEvict d c else
      let s1 := ((s0.cancelEvict d p g).copyMem (sAddr l.sframe) (bAddr l.bframe) pageSize).fillBad (bAddr l.bframe) c.bad
      if c.bad = [] then
        ((s1.writeLeaf p g { l with state := 2 }).invalidate d p g (some l.sframe) none).settlePage p g none .done
      else (s1.writeLeaf p g { l with state := 4 }).settlePage p g none .done
    | .relocate =>
      let nf := c.frame - 1
      let s1 := (s0.copyMem (sAddr l.sframe) (sAddr nf) pageSize).fillBad (sAddr nf) c.bad
      let st := if c.bad ≠ [] ∧ l.prior = 3 then 4 else l.prior
      let s2 := (s1.holdS nf (ownerKey p g)).writeLeaf p g { l with state := st, sframe := nf }
      (s2.invalidate d p g (some l.sframe) none).event 0x0206 p (32 * (l.sframe / stackFrames) + pchOf l.sframe)
    | .hint dst n sq =>
      let va := uniBase + g * pageSize
      let vb := uniBase + dst * pageSize
      let gone := fun (s : State) (v : Nat) => ((s.missPage p v).countRefused p).settlePage p g (some (n, sq)) .refused
      match copyEnd s p va false, copyEnd s p vb true with
      | .at a, .at b =>
        let s1 := s0.writeWaited (some p) c.heldAt
        if locate s a ≠ .mem then gone s1 va
        else if locate s b ≠ .mem then gone s1 vb
        else (((s1.copyMem a b pageSize).fillBad b c.bad).markDirty p dst).settlePage p g (some (n, sq)) .done
      | .fail, _ => gone s0 va
      | .at _, .fail => gone s0 vb
      | .wait, _ | _, .wait =>
        if c.heldAt.isNone && leavingPage s (some p) vb then
          s.modMig d (fun m => { m with running := m.running.map (fun x => if x = c then { c with heldAt := some s.time } else x) })
        else s

/-- A copy that waits on a page in motion or on a board port (R258, R264). -/
def copyWaits (s : State) (c : PageCopy) : Bool :=
  match c.kind with
  | .hint dst _ _ => copyEnd s c.part (uniBase + c.page * pageSize) false == .wait || copyEnd s c.part (uniBase + dst * pageSize) true == .wait
  | _ => portHolds s c

/-- A copy of engine `d` ends after `us` microseconds, and waiting ones start (R238). Of several copies of one page one that waits on
another comes last. -/
def execMigrationCopyDone (d p page us : Nat) (s : State) : Host.Outcome State Fault Refusal :=
  ok (s.live (fun s =>
    let mine := (s.migOf d).running.filter (fun c => c.part = p && c.page = page)
    match mine.filter (fun c => !copyWaits s c) ++ mine.filter (copyWaits s) |>.head? with
    | none => s
    | some c => if portHolds s c then s else ((s.advanceTo (c.start + 1200 * us)).endCopy d c us).startCopies d))

/-- A dirty request (R245): BOTH_CLEAN becomes BOTH_DIRTY, and no TLB holds the page as clean any more. -/
def execDirtyRequest (p page : Nat) (s : State) : Host.Outcome State Fault Refusal :=
  ok (s.live (fun s =>
    let s1 := s.markDirty p page
    s1.each (s.part p).clusters (fun s g => s.modCluster g (fun c =>
      { c with tlb := c.tlb.map (fun t => if t.part = p && t.page = page then { t with clean := false } else t) }))))

/-- The 512 entries of a TLB (04 R120). Which gives way when it is full the manual does not say: the oldest (DESIGN CHOICE,
notes/assumptions/78.md). -/
def tlbAdd (l : List TlbEntry) (t : TlbEntry) : List TlbEntry := l.drop (l.length + 1 - 512) ++ [t]

/-- A TLB miss of cluster `g` (04 R120): the walk of `cycles` cycles enters the page's location. A walk that finds none enters nothing, and the
access that missed meets BUS_ERROR and is counted there. -/
def execTlbWalk (g page cycles : Nat) (s : State) : Host.Outcome State Fault Refusal :=
  ok (s.live (fun s =>
    match partOfCluster s g with
    | none => s
    | some p =>
      if (s.cluster g).tlb.any (fun t => t.part = p && t.page = page) then s
      else
        let s1 := s.event 0x0A33 g cycles
        match readLeaf s p page, translate s p (uniBase + page * pageSize) false with
        | some l, .at a =>
          s1.modCluster g (fun c =>
            { c with tlb := tlbAdd c.tlb { part := p, page := page, base := a, clean := decide (l.state = 3) } })
        | _, _ => s1))

/-- The translations of a TLB less those of a page. -/
def tlbLess (l : List TlbEntry) (p page : Nat) : List TlbEntry := l.filter (fun t => !(t.part = p && t.page = page))
def tlbHolds (l : List TlbEntry) (p page : Nat) : Bool := l.any (fun t => t.part = p && t.page = page)

/-- A TLB holds the page at a place that is no longer its own; an entry walked afresh is none (04 R121). -/
def tlbStale (s : State) (l : List TlbEntry) (p page : Nat) : Bool :=
  l.any (fun t => t.part = p && t.page = page && translate s p (uniBase + page * pageSize) false != .at t.base)

/-- The TLB of cluster `g`, or of the update engine of die `g` - 640, loses its entry of a page. -/
def State.dropTlb (s : State) (g p page : Nat) : State :=
  if g < 640 then s.modCluster g (fun c => { c with tlb := tlbLess c.tlb p page })
  else s.modUpd (g - 640) (fun u => { u with tlb := tlbLess u.tlb p page })

/-- An invalidation arrives at a cluster, or at the update engine of die `g` - 640 (04 R121, 13 R371). -/
def execTlbInvalidate (g p page : Nat) (s : State) : Host.Outcome State Fault Refusal :=
  ok (s.live (fun s => s.dropTlb g p page))

/-- Some move in flight of the cluster has been translated to a place the page has left (04 R121). -/
def oldAccess (s : State) (g p page : Nat) : Bool :=
  (List.range 16).any (fun i => let k := s.core (16 * g + i)
    (k.fetches ++ k.drains).any (fun m => m.trans.any (fun x => x.1 = page &&
      (match translate s p (uniBase + page * pageSize) false with | .at b => b ≠ x.2 | _ => true))))

/-- An acknowledgement arrives at the migration engine: after the last one the old frames are free. A sequencer sends it once its TLB holds no
old entry of the page and no access translated through it is under way (04 R121). -/
def execInvalidateAck (g p page : Nat) (s : State) : Host.Outcome State Fault Refusal :=
  ok (s.live (fun s =>
    if (if g < 640 then tlbStale s (s.cluster g).tlb p page || oldAccess s g p page else tlbStale s (s.updOf (g - 640)).tlb p page) then s
    else
      s.each [0, 1, 2, 3] (fun s d =>
        let m := s.migOf d
        match m.inval.find? (fun i => i.1 = p && i.2.1 = page && i.2.2.1.contains g) with
        | none => s
        | some i =>
          let left := i.2.2.1.erase g
          if left.isEmpty then
            let s1 := s.modMig d (fun m => { m with inval := m.inval.erase i })
            let s2 := match i.2.2.2.1 with | some f => s1.freeS f | none => s1
            let s3 := match i.2.2.2.2 with | some b => s2.freeB b | none => s2
            s3.startCopies d
          else
            s.modMig d (fun m => { m with inval := m.inval.map (fun j => if j = i then (p, page, left, i.2.2.2) else j) }))))

/-! ## Board ports (R264, R267) -/

def bmpPort (n : Nat) : Port := match n with | 0 => .bmp0 | 1 => .bmp1 | 2 => .bmp2 | _ => .bmp3

/-- A port that may train retrains on the lanes its WIDTH and the repair record leave (R264; 16 R446). -/
def State.retrainBmp (s : State) (n us : Nat) : State :=
  let q := s.bmpOf n
  if 3 < n || !q.enable || q.state == .disabled || !mayTrain s (11 + n) then s
  else
    let s1 := s.advanceTo (q.downAt.getD s.time + 1200 * us)
    let s2 := s1.trainPort (bmpPort n) 0xFF
    (s2.modBmp n (fun b => { b with retrains := satAdd b.retrains 1 })).event 0x0209 n us

/-- A write of 1 to BMP_CTL.RETRAIN: the port leaves UP and trains; its accesses wait (R264). -/
def State.bmpTrain (s : State) (n : Nat) : State :=
  s.modBmp n (fun b => if b.enable && b.state != .disabled && mayTrain s (11 + n) then { b with state := .training, lanes := 0, downAt := sinceDown s .training b.downAt } else b)

def execBmpRetrain (n : Nat) (s : State) : Host.Outcome State Fault Refusal :=
  ok (s.live (fun s => if n < 4 then s.bmpTrain n else s))

/-- A port is DOWN: promotions from it fail, and the pages stay BOARD; evictions to it take a frame elsewhere (R264). -/
def State.dropPort (s : State) (n : Nat) : State :=
  s.each [0, 1, 2, 3] (fun s d =>
    let m := s.migOf d
    let bad := (m.running ++ m.waiting).filter (fun c => c.kind == .promote
      && (readLeaf s c.part c.page).any (fun l => l.bframe / portFrames = n))
    let out := (m.running ++ m.waiting).filter (fun c => c.kind == .evict
      && (readLeaf s c.part c.page).any (fun l => l.bframe / portFrames = n))
    (out.foldl (fun s c => s.failEvict d c) (bad.foldl (fun s c => s.failPromotion d c.part c.page c) s)).startCopies d)

/-- BMP_CTL.ENABLE (R267): 0 holds the lanes in electrical idle; 1 brings the port back into training. -/
def State.bmpEnableTo (s : State) (n : Nat) (en : Bool) : State :=
  let q := s.bmpOf n
  if en == q.enable then s
  else if en && !mayTrain s (11 + n) then s.modBmp n (fun b => { b with enable := true, state := .down, lanes := 0, downAt := none })
  else if en then s.modBmp n (fun b => { b with enable := true, state := .training, lanes := 0, downAt := some s.time })
  else (s.modBmp n (fun b => { b with enable := false, state := .disabled, lanes := 0, downAt := none })).dropPort n

end Sys2Proof.Machine
end

