-- ==== Sys2Proof/Machine/Recorder.lean ====
section
/-! DEFINITION. Recorder dumps, snapshots and clears (16 R460 to R462, R498); quotes, firmware updates and PWR_LIMIT
(17 R488 to R493). -/
namespace Sys2Proof.Machine

/-! ## Dump (R498) -/

/-- Every byte of a span lies in the stacked tier and reaches a location. -/
def stackedOk (s : State) (a n : Nat) : Bool :=
  inStacked a n && (locate s a == .mem) && (locate s (a + n - 1) == .mem)

/-- EVR_CTL.DUMP (R498): ignored while one is being written, BOUND when the area is not in the stacked tier. -/
def State.evrDump (s : State) : State :=
  if s.evr.dbusy then s
  else if inStacked s.evr.dumpAddr.toNat 0x80000 then
    s.modEvr (fun e => { e with dbusy := true, dumpNext := s.evr.dumpAddr.toNat })
  else (s.modEvr (fun e => { e with dstatus := .bound })).event 0x0008 0 Status.bound.code

def execDump (s : State) : Host.Outcome State Fault Refusal := ok (s.live State.evrDump)

/-- Slots before the first one whose line does not reach a location. -/
def dumpable (s : State) (base : Nat) : Nat :=
  ((List.range 4096).find? (fun i => locate s (base + 128 * i) != .mem)).getD 4096

/-- The last line of the dump has been written, or the line that met a bus error has stopped it (R498). -/
def execDumpDone (s : State) : Host.Outcome State Fault Refusal :=
  ok (s.live (fun s =>
    if !s.evr.dbusy then s
    else
      let base := s.evr.dumpNext
      let n := dumpable s base
      let t := (tclear s.evr.slots n 4096)
      let m := t.foldl (fun m e => wrBytes m (base + 128 * e.1) e.2.bytes) (tclear s.mem base (128 * n))
      let s1 := { s with mem := m }
      if n = 4096 then s1.modEvr (fun e => { e with dbusy := false, dstatus := .ok })
      else ((s1.noLocation none (base + 128 * n)).modEvr (fun e => { e with dbusy := false, dstatus := .busError })).event 0x0008 0 Status.busError.code))

/-! ## Snapshots (R460) -/

def State.snapNow (s : State) : State := if s.evr.restored then s.snapshot else s
def execSnap (s : State) : Host.Outcome State Fault Refusal := ok (s.live State.snapNow)

/-- Bubarus writes a snapshot every 600 s (R460): time moves to the next multiple. -/
def execPeriodicSnapshot (s : State) : Host.Outcome State Fault Refusal :=
  ok (s.live (fun s => if s.evr.restored then (s.advanceTo ((s.time / 720000000000 + 1) * 720000000000)).snapNow else s))

/-! ## Clear tokens (R461, R462) -/

/-- The SIGNATURE section at a device address is legal and lies in the stacked tier with what it covers, `n` bytes from `a` on. -/
def signedAt (s : State) (a n : Nat) : Bool :=
  let g := s.rd (a + n) 8
  inStacked a (n + 8) && sectionOk g && inStacked a (n + sectionLen g)

/-- The token's fields are legal and its NONCE is the present one (R462). -/
def tokenBoundOk (s : State) (t : List Byte) : Bool :=
  let scope := byteAt t 6
  let nonce := leBytes 8 s.evr.nonce0.toNat ++ leBytes 8 s.evr.nonce1.toNat
  t.take 4 = [0x51, 0x46, 0x43, 0x54] && bytesN t 4 2 = 0x0100 && decide (scope ≤ 2)
    && (if scope = 1 then decide (byteAt t 7 ≤ 0x0A) else byteAt t 7 = 0)
    && (scope = 2 || bytesN t 8 4 = 0) && bytesN t 0x0C 4 = 0 && (t.drop 0x30).take 16 = nonce

/-- The general slots a token names. -/
def inScope (t : List Byte) (x : EvSlot) : Bool :=
  match byteAt t 6 with
  | 0 => true
  | 1 => x.code.toNat / 256 = byteAt t 7
  | _ => x.code.toNat = bytesN t 8 2 && x.source.toNat = bytesN t 0x0A 2

/-- An accepted clear (R462). -/
def State.clearAccepted (s : State) (t : List Byte) (anchor : Nat) : State :=
  let slots := s.evr.slots.filter (fun e => !(decide (e.1 < 4080) && e.2.valid && inScope t e.2))
  let n := s.evr.clears.toNat + 1
  let s1 := (s.modEvr (fun e => { e with slots := slots, clears := BitVec.ofNat 32 n, cstatus := .ok })).newNonce
  let s2 := s1.flWr clearsBase (leBytes 4 n)
  let v := byteAt t 6 * 2 ^ 24 + byteAt t 7 * 2 ^ 16 + bytesN t 8 2
  let k := 4080 + Min.min (n - 1) 15
  let s3 := s2.modEvr (fun e => { e with slots := tmod {} e.slots k (fun x =>
    { x with source := BitVec.ofNat 16 anchor }.enter none 1 anchor v (s.time / 1200000) (calNs s s.time) s.frm.calSet) })
  s3.measure 6 .ok t 0

def State.clearRefused (s : State) (st : Status) : State :=
  (s.modEvr (fun e => { e with cstatus := st })).event 0x0004 0 st.code

/-- EVR_CTL.CLEAR (R462); the operand is what the token's SIGNATURE certifies (notes/assumptions/10.md). -/
def State.evrClear (s : State) (x : Seal) : State :=
  let a := s.evr.token.toNat
  let t := s.rd a 64
  let sec := s.section_ (a + 0x40)
  let anchor := byteAt sec 1
  let s0 := s.modEvr (fun e => { e with clearReq := false })
  if !(signedAt s a 64 && tokenBoundOk s t) then s0.clearRefused .bound
  else if sealCovers x t sec && sealAnchored x s.cfg.keys anchor sec && s.pwr.idok && ((t.drop 0x10).take 32 = moduleDigest s) then s0.clearAccepted t anchor
  else s0.clearRefused .signature

def execClear (x : Seal) (s : State) : Host.Outcome State Fault Refusal := ok (s.live (fun s => if s.fwRuns then s.evrClear x else s))

/-! ## Power registers (R493) -/

def State.clrMax (s : State) : State := s.modPwr (fun w => { w with pmax := 0 })
def execClrmax (s : State) : Host.Outcome State Fault Refusal := ok (s.live State.clrMax)

/-- PWR_LIMIT takes 600 to 1,500 W; writes outside that range are ignored. -/
def State.setLimit (s : State) (v : Nat) : State :=
  let w := v % 2048
  if 600 ≤ w ∧ w ≤ 1500 then s.modPwr (fun p => { p with limit := BitVec.ofNat 11 w }) else s
def execPwrLimitWrite (val : W64) (s : State) : Host.Outcome State Fault Refusal :=
  ok (s.live (fun s => s.setLimit val.toNat))

/-- PWR_CTL.FWUPD (R488): an image that verifies and has a higher SEQ goes into the copy that is not running. -/
def State.fwUpdate (s : State) (x : Seal) : State :=
  let a := s.pwr.fwsrc.toNat
  let h := s.rd a 64
  let len := bytesN h 0x10 8
  let seq := bytesN h 8 8
  let sig := bytesN h 0x20 8
  let s0 := s.modPwr (fun w => { w with fwReq := false })
  let wellFormed := inStacked a 64 && (h.take 4 = [0x51, 0x46, 0x46, 0x57]) && (bytesN h 4 2 = 0x0100) && (bytesN h 6 2 = 0)
    && isZero (h.drop 0x28) && decide (len ≤ 0x1000000) && inStacked a len && decide (sig % 64 = 0)
    && signedAt s a sig && decide (sig + sectionLen (s.rd (a + sig) 8) ≤ len) && decide (s.pwr.fwSeq.toNat < seq)
  let sec := s.section_ (a + sig)
  if !wellFormed then s0.modPwr (fun w => { w with fwstatus := .bound })
  else if !(sealCovers x (s.rd a sig) sec && sealAnchored x [] (byteAt sec 1) sec) then s0.modPwr (fun w => { w with fwstatus := .signature })
  else
    let b := !s.pwr.bootcopy
    let s1 := { s0 with flash := tputAll (tclear s0.flash (fwBase b) 0x1000000) (tslice s.mem a len (fwBase b)) }
    ((s1.modPwr (fun w => { w with fwstatus := .ok })).measure 5 .ok (s.rd a len) (BitVec.ofNat 64 seq)).event 0x0034 (b2n b) (seq % 2 ^ 32)

def execFwupd (x : Seal) (s : State) : Host.Outcome State Fault Refusal := ok (s.live (fun s => s.fwUpdate x))

/-! ## Quotes (R491, R492) -/

/-- Length of the certificate chain in flash: up to its last byte that is not zero (notes/assumptions/9.md). -/
def chainLen (s : State) : Nat :=
  ((s.flash.filter (fun e => decide (chainBase ≤ e.1) && decide (e.1 < chainBase + 0x10000))).map (fun e => e.1 + 1 - chainBase)).foldl Max.max 0

def State.quoteStart (s : State) : State := s.modPwr (fun w => { w with qbusy := true })
def execQuote (s : State) : Host.Outcome State Fault Refusal := ok (s.live State.quoteStart)

/-- The bytes of a quote less the signature's place in the middle: head, and what follows SIG. -/
def quoteHead (s : State) (flags : Nat) (nonce : List Byte) (stored clen : Nat) : List Byte :=
  [0x51, 0x46, 0x41, 0x52] ++ leBytes 2 0x0100 ++ leBytes 2 flags ++ moduleDigest s ++ nonce
    ++ (leBytes 32 s.pwr.logDigest.toNat).reverse ++ leBytes 4 s.pwr.logTotal.toNat ++ leBytes 4 stored ++ leBytes 8 s.time
    ++ leBytes 8 (if s.frm.calSet then calNs s s.time else 0) ++ leBytes 8 s.pwr.fwSeq.toNat ++ leBytes 4 clen ++ [0, 0, 0, 0]

/-- The quote is written or refused; QBUSY clears and QSTATUS is set (R491, R492). -/
def execQuoteDone (s : State) : Host.Outcome State Fault Refusal :=
  ok (s.live (fun s =>
    if !s.pwr.qbusy then s
    else
      let a := s.pwr.attreq.toNat
      let r := s.rd a 64
      let flags := bytesN r 4 2
      let resp := bytesN r 8 8
      let stored := if bitAt flags 0 then s.pwr.log.length else 0
      let clen := if bitAt flags 1 then chainLen s else 0
      let total := 0xD0 + 64 * stored + clen
      let finish := fun (s : State) (st : Status) => s.modPwr (fun w => { w with qbusy := false, qstatus := st })
      let good := inStacked a 64 && (r.take 4 = [0x51, 0x46, 0x41, 0x51]) && decide (flags < 4) && (bytesN r 6 2 = 0)
        && isZero (r.drop 0x38) && decide (resp % 64 = 0) && inStacked resp total && decide (total ≤ bytesN r 0x10 8)
      if !s.pwr.idok then finish s .signature
      else if !good then finish s .bound
      else
        let img := quoteHead s flags ((r.drop 0x18).take 32) stored clen ++ signatureBytes s.draw
          ++ (if bitAt flags 0 then s.pwr.log.flatMap LogEntry.bytes else []) ++ s.flRd chainBase clen
        finish ((s.wr resp img).drawNext.event 0x0032 0 stored) .ok))

end Sys2Proof.Machine
end

