-- ==== Sys2Proof/Machine/Streams.lean ====
section
/-! DEFINITION. The stream table, doorbells, fetching, actions, completion records and interrupts (09), with the held records of
the host link (10 R318 to R321). -/
namespace Sys2Proof.Machine

/-! ## The table entry (R272) -/

def SState.code : SState → Nat
  | .idle => 0 | .armed => 1 | .running => 2 | .halted => 3 | .hostLost => 4 | .faulted => 5

/-- The live-state summary (R271). -/
def SState.summary : SState → Nat
  | .idle => 0 | .armed => 1 | .running => 2 | _ => 3

def Stream.live (x : Stream) : Bool := x.state == .armed || x.state == .running

def entryAddr (s : State) (n : Nat) : Nat := s.stm.tableBase.toNat + 64 * n

/-- The range a stream lies in (07 R201). -/
def rangeOf (s : State) (n : Nat) : Option SRange :=
  s.cfg.ranges.find? (fun r => decide (r.first ≤ n) && decide (n < r.first + r.count))

/-- A write of the module into the stream table; a place that reaches no location takes nothing (R269; 08 R233). -/
def State.tblWr (s : State) (a : Nat) (l : List Byte) : State := if locate s a == .mem then s.wr a l else s.noLocation none a

/-- The module writes its fields of an entry back to the table (R272, R273). -/
def State.writeBack (s : State) (n : Nat) : State :=
  let x := s.stream n
  let a := entryAddr s n
  let s1 := s.tblWr a [BitVec.ofNat 8 x.state.code, if x.inRange then BitVec.ofNat 8 x.part.toNat else 0xFF,
    BitVec.ofNat 8 (128 * b2n x.pinned + 32 * x.k.toNat)]
  let s2 := s1.tblWr (a + 0x20) (leBytes 2 x.tail.toNat)
  s2.tblWr (a + 0x24) (leBytes 2 x.phead.toNat ++ [BitVec.ofNat 8 x.cmds.length])
    |>.tblWr (a + 0x28) (leBytes 2 x.error.toNat ++ leBytes 2 x.lseq.toNat ++ leBytes 4 x.completed.toNat)

/-- ERROR of the entry (R272, R275). -/
def State.writeError (s : State) (n : Nat) : State := s.tblWr (entryAddr s n + 0x28) (leBytes 2 (s.stream n).error.toNat)

/-- PHASES, a field of both: CPH moves with HEAD, RPH with PTAIL (R272). -/
def State.writePhases (s : State) (n : Nat) : State :=
  s.tblWr (entryAddr s n + 7) [BitVec.ofNat 8 (b2n (s.stream n).cph + 2 * b2n (s.stream n).rph)]

/-- The module has advanced HEAD, NSEQ and CPH (R272, R273). -/
def State.writeHead (s : State) (n : Nat) : State :=
  (s.writePhases n).tblWr (entryAddr s n + 0x14) (leBytes 2 (s.stream n).head.toNat ++ leBytes 2 (s.stream n).nseq.toNat)

/-- The module has advanced PTAIL and RPH (R272, R273). -/
def State.writeTail (s : State) (n : Nat) : State :=
  (s.writePhases n).tblWr (entryAddr s n + 0x22) (leBytes 2 (s.stream n).ptail.toNat)

/-- Take the stream's range into its entry. -/
def State.setRange (s : State) (n : Nat) : State :=
  match rangeOf s n with
  | some r => s.modStream n (fun x => { x with inRange := true, part := BitVec.ofNat 6 r.part, pinned := r.pinned, k := r.k })
  | none => s.modStream n (fun x => { x with inRange := false, pinned := false, k := 0 })

/-- Use of a cache entry, whatever the state of its stream (R270). -/
def State.touchStream (s : State) (n : Nat) : State :=
  let c := s.stm.useClock + 1
  (s.modStm (fun m => { m with useClock := c })).modStream n (fun x => { x with cached := c })

/-- The command has not completed. -/
def Cmd.open (c : Cmd) : Bool := match c.phase with | .complete _ _ _ _ => false | _ => true

/-- An entry is held (R270). -/
def heldEntry (x : Stream) : Bool := x.cmds.any Cmd.open || (x.pinned && x.state != .idle)

/-- Cached entries that have none of the places kept for pinned streams that are not IDLE. -/
def otherEntries (s : State) : List (Nat × Stream) :=
  s.stm.streams.filter (fun e => decide (0 < e.2.cached) && !(e.2.pinned && e.2.state != .idle))

/-- The least recently used entry that is not held leaves the cache. -/
def State.dropEntry (s : State) : State :=
  match ((otherEntries s).filter (fun e => !heldEntry e.2)).foldl (fun m e =>
    match m with
    | some (_, c) => if e.2.cached < c then some (e.1, e.2.cached) else m
    | none => some (e.1, e.2.cached)) (none : Option (Nat × Nat)) with
  | some (k, _) => s.modStream k (fun x => { x with cached := 0 })
  | none => s

/-- The entries in the cache: 256 places for pinned streams, 1,792 for the others (R270). -/
def State.trimCache (s : State) : State := s.each (List.range ((otherEntries s).length - 1792)) (fun s _ => s.dropEntry)

/-- The module needs the entry (R270). -/
def State.useEntry (s : State) (n : Nat) : State := (s.touchStream n).trimCache

/-- An entry can be held for an admission (R270). -/
def canHold (s : State) (n : Nat) : Bool :=
  let x := s.stream n
  x.pinned || heldEntry x || decide ((s.stm.streams.filter (fun e => !e.2.pinned && heldEntry e.2)).length < 1792)

/-! ## Interrupts (R300) -/

/-- Raise the stream's vector for the causes that have arisen, once per interrupt interval. -/
def State.raiseIrq (s : State) (n : Nat) : State :=
  let x := s.stream n
  if x.irqWant && !x.irqDone && !s.hlk.needhs && !linkHolds s then
    (s.modStream n (fun x => { x with irqWant := false, irqDone := true })).modHlk (fun h => { h with msix := x.vector :: h.msix })
  else s

/-- A cause arises (MSIX.EN set). -/
def State.irqCause (s : State) (n : Nat) : State :=
  s.modStream n (fun x => if x.msixEn then { x with irqWant := true } else x)

/-- A record has been written after the stream's last decision point; `irq`: it makes that batch a cause (R300). -/
def Stream.batchIrq (x : Stream) (irq : Bool) : Stream :=
  if irq && x.msixEn && !x.irqBatches.contains x.batch then { x with irqBatches := x.irqBatches ++ [x.batch] } else x

/-- Records of the present batch have still to be written: of commands that complete at their admission tick (R286, R293, R294), or of the
next command, which has completed and waits for acknowledgements of its data. -/
def Stream.batchOpen (x : Stream) : Bool :=
  x.cmds.any (fun c => c.phase = .admitted && [0, 7, 8, 9].contains (byteAt c.bytes 0))
    || (match x.cmds[x.inflight.length - x.heldUnacked]? with
        | some c => !c.open && c.ringWait.isNone
        | none => false)

/-- A batch gives its cause once all its records are written and acknowledged (R300). -/
def Stream.batchDone (x : Stream) : Stream :=
  let open_ := x.irqBatches.filter (fun b => x.inflight.any (fun f => f.batch = b) || (b = x.batch && x.batchOpen))
  { x with irqBatches := open_, irqWant := x.irqWant || decide (open_.length < x.irqBatches.length) }

/-- Batches that are complete give their cause, and the stream's interrupt is raised. -/
def State.raiseBatches (s : State) (n : Nat) : State :=
  (if (s.stream n).irqBatches.isEmpty then s else s.modStream n Stream.batchDone).raiseIrq n

/-- A new interrupt interval of the stream begins. -/
def State.irqInterval (s : State) (n : Nat) : State :=
  (s.modStream n (fun x => { x with irqDone := false, batch := x.batch + 1 })).raiseBatches n

/-! ## State changes -/

/-- The stream leaves ARMED or RUNNING: copies of unadmitted commands are discarded (R283). -/
def Stream.stopAs (x : Stream) (st : SState) : Stream :=
  { x with state := st, fetched := [], retrying := false, rereads := 0, stuck := false }

/-- HALTED for a cause of 09 R303, event 0x0306; entry into HALTED is an interrupt cause (R300). -/
def State.haltStream (s : State) (n cause : Nat) : State :=
  if (s.stream n).live then
    ((((s.modStream n (fun x => x.stopAs .halted)).event 0x0306 n cause).irqCause n).raiseIrq n).writeBack n
  else s

/-- FAULTED (R278), with ERROR BUS_ERROR and the reason. -/
def State.faultStream (s : State) (n reason : Nat) : State :=
  let x := s.stream n
  if x.live || x.state == .halted then
    ((((s.modStream n (fun x => { (x.stopAs .faulted) with error := BitVec.ofNat 16 (256 * Status.busError.code + reason) })).event
      0x0302 n reason).irqCause n).raiseIrq n).writeBack n
  else s

/-! ## Releasing a command's holdings (R176, R252, R253, R279, 16 R441) -/

/-- Status a command completes with; OK before it has completed. -/
def Cmd.status (c : Cmd) : Status :=
  match c.phase with
  | .complete st _ _ _ | .ended st _ _ => st
  | _ => .ok

/-- The staging buffer of the channel that ran a command is returned; a waiting command leaves the queue (11 R326). -/
def State.releaseChannel (s : State) (n : Nat) (c : Cmd) : State :=
  match s.chans.find? (fun e => e.2.run.any (fun r => r.stream = n && r.seq = c.seq)) with
  | some (ch, _) =>
    let d := if ch < 192 then ch / 48 else 4
    let s1 := (s.modChan ch (fun x => { x with run := none })).modAud (fun a =>
      { a with dma := tmod {} a.dma d (fun x => { x with held := x.held - 1 }) })
    s1.modPart (s.stream n).part.toNat (fun q => { q with dmaHeld := q.dmaHeld - 1 })
  | none => { s with chans := s.chans.map (fun e => (e.1, { e.2 with queue := e.2.queue.filter (fun r => !(r.stream = n && r.seq = c.seq)) })) }

/-- Return slot, reduction slots, pins, page references and staging buffer of a command of partition `p`. -/
def State.releaseHoldings (s : State) (n p : Nat) (c : Cmd) : State :=
  let s0 := if byteAt c.bytes 0 = 2 then s.releaseChannel n c else s
  let s1 := c.pins.foldl (fun s e => s.unpinPage p e) s0
  let had := (s.part p).slots.any (fun u => u.stream = n && u.seq = c.seq)
  s1.modPart p (fun q =>
    { q with slots := q.slots.filter (fun u => !(u.stream = n && u.seq = c.seq)),
             redFree := q.redFree + (if had then 4 else 0), pageFree := q.pageFree + c.refs })

/-- The record of the stream's oldest command counts as written: holdings and credit are released, LSEQ and COMPLETED advance,
and a RUNNING stream with nothing admitted is ARMED (R274, R278, R279). -/
def State.finishHead (s : State) (n : Nat) : State :=
  let x := s.stream n
  match x.cmds with
  | [] => s
  | c :: rest =>
    let p := x.part.toNat
    let s1 := s.releaseHoldings n p c
    let s2 := if x.inRange then s1.modPart p (fun q => { q with credFree := q.credFree + 1 }) else s1
    (s2.modStream n (fun x =>
      { x with cmds := rest, lseq := c.seq, completed := x.completed + 1,
               state := if x.state == .running && rest.isEmpty then .armed else x.state })).writeBack n

/-! ## Completion records (R298, R299) -/

def inHost (a : Nat) : Bool := decide (hostBase ≤ a)

/-- The 32 bytes of a record. -/
def recordBytes (n : Nat) (rph : Bool) (c : Cmd) (st : Status) (reason : BitVec 8) (result : W64) (tick : Nat) : List Byte :=
  leBytes 2 c.seq.toNat ++ [BitVec.ofNat 8 st.code, BitVec.ofNat 8 (128 * b2n rph)] ++ (c.bytes.drop 4).take 4
    ++ leBytes 8 result.toNat ++ leBytes 8 tick ++ leBytes 2 n ++ [c.bytes.getD 0 0, reason] ++ leBytes 4 c.aframe.toNat

/-- PTAIL and RPH after one more record. -/
def Stream.advancePtail (x : Stream) : Stream :=
  let last := x.ptail.toNat + 1 = 2 ^ x.plog2
  { x with ptail := if last then 0 else x.ptail + 1, rph := if last then !x.rph else x.rph }

/-- Ring index and phase of the next record to send, after those in flight. -/
def Stream.nextPlace : Nat → Stream → Stream
  | 0, x => x
  | k + 1, x => Stream.nextPlace k x.advancePtail

/-- The completion ring is full for one more record (R282). -/
def Stream.ringFull (x : Stream) : Bool :=
  let y := Stream.nextPlace x.inflight.length x
  decide ((y.ptail.toNat + 1) % 2 ^ x.plog2 = x.phead.toNat)

/-- A record goes to the held-record area, or is dropped where there is none (10 R319). -/
def State.holdRecord (s : State) (n : Nat) (irq : Bool) (b : List Byte) : State :=
  let x := s.stream n
  let a := s.hlk.holdBase.toNat + 8192 * n + 32 * x.held
  if s.hlk.holdBase = 0 then s.event 0x0406 0 n
  else if locate s a != .mem then (s.noLocation none a).event 0x0406 0 n
  else
    ((s.wr a b).modStream n (fun x =>
      { x with held := x.held + 1, heldUnacked := x.heldUnacked + 1, heldIrq := x.heldIrq ++ [irq] })).event 0x0405 0 n

/-- The oldest held record is acknowledged in its ring (10 R321). -/
def Stream.heldDone (x : Stream) : Stream := { x with heldUnacked := x.heldUnacked - 1, heldIrq := x.heldIrq.tail }

/-- A held record that waited for room in its ring is written (R299). -/
def State.heldWaited (s : State) (n : Nat) : State :=
  match (s.stream n).heldWait with
  | some t => (s.event 0x0303 n (s.time - t)).modStream n (fun x => { x with heldWait := none })
  | none => s

/-- Send the held records into the completion ring (10 R321); `k` of them from area index `i` on. -/
def State.sendHeld (s : State) (n : Nat) : Nat → Nat → State
  | 0, _ => s
  | k + 1, i =>
    let x := s.stream n
    let y := Stream.nextPlace x.inflight.length x
    let b0 := s.rd (s.hlk.holdBase.toNat + 8192 * n + 32 * i) 32
    let b := patch b0 3 [BitVec.ofNat 8 (128 * b2n y.rph)]
    let a := x.pring.toNat + 32 * y.ptail.toNat
    let irq := x.heldIrq.getD x.inflight.length false
    if x.ringFull then s.modStream n (fun x => { x with heldWait := some (x.heldWait.getD s.time) })
    else
      match locate s a with
      | .host =>
        if s.hlk.needhs || linkHolds s then s
        else
          let f : Flying := { seq := BitVec.ofNat 16 (bytesN b 0 2), irq := irq, bytes := b, batch := x.batch }
          State.sendHeld ((((s.heldWaited n).wr a b).modStream n (fun x => { (x.batchIrq irq) with inflight := x.inflight ++ [f] })).useEntry n) n k (i + 1)
      | .mem =>
        State.sendHeld (((((s.heldWaited n).wr a b).modStream n (fun x => x.advancePtail.heldDone.batchIrq irq)).writeTail n).useEntry n) n k (i + 1)
      | _ => State.sendHeld ((((s.noLocation none a).faultStream n 2).event 0x0304 n (bytesN b 0 2)).modStream n Stream.heldDone) n k (i + 1)

/-- Data writes of a command to host memory that are not acknowledged (10 R313). -/
def Stream.outOf (x : Stream) (seq : BitVec 16) : Nat := ((x.unacked.filter (fun g => g.1 = seq)).map (fun g => g.2.1)).sum

/-- `k` more writes to host memory, sent after the records now in flight. -/
def addGroup (seq : BitVec 16) (k r : Nat) : List (BitVec 16 × Nat × Nat) → List (BitVec 16 × Nat × Nat)
  | [] => [(seq, k, r)]
  | [g] => if g.1 = seq ∧ g.2.2 = r then [(seq, g.2.1 + k, r)] else [g, (seq, k, r)]
  | g :: l => g :: addGroup seq k r l

/-- A command has sent `k` writes to host memory (10 R313). -/
def Stream.addOut (x : Stream) (seq : BitVec 16) (k : Nat) : Stream :=
  if k = 0 then x else { x with unacked := addGroup seq k x.inflight.length x.unacked }

/-- The writes an engine has sent are those of this command. -/
def State.claimSent (s : State) (n : Nat) (seq : BitVec 16) : State :=
  if s.hlk.sent = 0 then s else (s.modStream n (fun x => x.addOut seq s.hlk.sent)).modHlk (fun h => { h with sent := 0 })

/-- What became of a try to write one record. -/
inductive RecTry where
  | no
  | sent (s : State)
  | final (s : State)

/-- The stream enters HOST_LOST: its area keeps the held records not acknowledged and is otherwise zeroed (10 R318, R319). Records sent and
not acknowledged are written again, from their commands; a cause whose records were partly acknowledged arises now (R300). -/
def State.toLost (s : State) (n : Nat) : State :=
  let x := s.stream n
  let area := s.hlk.holdBase.toNat + 8192 * n
  let keep := s.rd (area + 32 * (x.held - x.heldUnacked)) (32 * x.heldUnacked)
  let s1 := if s.hlk.holdBase = 0 then s
    else if locate s area == .mem then (s.zero area 8192).wr area keep
    else s.each (List.range 128) (fun s i => s.noLocation none (area + 64 * i))
  s1.modStream n (fun x =>
    { (x.stopAs .hostLost) with inflight := [], unacked := [], held := x.heldUnacked, heldWait := none,
                                irqWant := x.irqWant || !x.irqBatches.isEmpty, irqBatches := [] })

/-- A host access of the stream's rings that is not sent: ERROR holds HOST_LOST and the reason of R278 (10 R317; notes/assumptions/68.md). -/
def State.ringLost (s : State) (n reason : Nat) : State :=
  (s.toLost n).modStream n (fun x => { x with error := BitVec.ofNat 16 (256 * Status.hostLost.code + reason) })

/-- Try to write the record of the first completed command whose record has not been sent (R278, R299; 10 R313, R319). A record
that has waited for ring space is written at a decision point only, `dp` (R299). -/
def State.tryRecord (s : State) (n : Nat) (dp : Bool) : RecTry :=
  let x := s.stream n
  if x.state != .hostLost && x.inflight.length < x.heldUnacked then .no else
  match x.cmds[x.inflight.length - x.heldUnacked]? with
  | none => .no
  | some c =>
    match c.phase with
    | .complete st reason result tick =>
      let y := Stream.nextPlace x.inflight.length x
      let b := recordBytes n y.rph c st reason result tick
      let irq := decide (st ≠ .ok) || bitAt (byteAt c.bytes 1) 0
      let a := x.pring.toNat + 32 * y.ptail.toNat
      if x.state == .hostLost then .final (((s.holdRecord n irq b).useEntry n).finishHead n)
      else if 0 < x.outOf c.seq then .no
      else if x.ringFull then
        (if c.ringWait.isSome then .no
         else .sent (s.modStream n (fun x => { x with cmds := x.cmds.map (fun d => if d.seq = c.seq then { d with ringWait := some s.time } else d) })))
      else if c.ringWait.isSome && !dp then .no
      else
        let s0 := match c.ringWait with | some t => s.event 0x0303 n (s.time - t) | none => s
        match locate s a with
        | .host =>
          if s.hlk.needhs then
            (if x.state == .faulted then .final ((s0.event 0x0304 n c.seq.toNat).finishHead n) else .sent ((s.ringLost n 2).writeBack n))
          else if linkHolds s then .no
          else
            let f : Flying := { seq := c.seq, irq := irq, bytes := b, batch := x.batch }
            .sent (((s0.wr a b).modStream n (fun x => { (x.batchIrq irq) with inflight := x.inflight ++ [f] })).useEntry n)
        | .mem => .final (((((s0.wr a b).modStream n (fun x => x.advancePtail.batchIrq irq)).writeTail n).useEntry n).finishHead n)
        | _ => .final ((((s0.noLocation none a).faultStream n 2).event 0x0304 n c.seq.toNat).finishHead n)
    | _ => .no

/-- Write every record that can be written, in order (R299). -/
def State.writeRecords (dp : Bool) : Nat → State → Nat → State
  | 0, s, _ => s
  | fuel + 1, s, n =>
    match s.tryRecord n dp with
    | .no => s
    | .sent s1 => State.writeRecords dp fuel s1 n
    | .final s1 => State.writeRecords dp fuel s1 n

/-- Records of the stream that wait for nothing but those before them, then its interrupt. -/
def State.recordsNow (s : State) (n : Nat) : State := (State.writeRecords false 600 s n).raiseBatches n

/-- At a decision point: held records that found the ring full, whatever has become of the stream since its ARM (R299), the records of the stream,
then its interrupt. -/
def State.records (s : State) (n : Nat) : State :=
  let x := s.stream n
  let k := x.heldUnacked - x.inflight.length
  let s1 := if x.state != .idle && x.state != .hostLost && 0 < k then s.sendHeld n k (x.held - k) else s
  (State.writeRecords true 600 s1 n).raiseBatches n

/-- A failed write to host memory takes the place of the statuses that say how the command itself fared (10 R317, R318). -/
def Status.lostOver (st : Status) (lost : Bool) : Status :=
  if lost && (st == .ok || st == .poisoned || st == .badOpcode || st == .busError || st == .stepSkew) then .hostLost else st

/-- A command has ended: it completes with this status at this tick. -/
def Cmd.finish (c : Cmd) (st : Status) (reason : BitVec 8) (result : W64) (tick : Nat) : Cmd :=
  { c with phase := .complete (st.lostOver c.lost) reason result tick }

/-- Change the command of a stream that carries this sequence number. -/
def State.modCmd (s : State) (n : Nat) (seq : BitVec 16) (f : Cmd → Cmd) : State :=
  s.modStream n (fun x => { x with cmds := x.cmds.map (fun c => if c.seq = seq then f c else c) })

/-- The channel that runs a command has completed it (11 R325, R337). -/
def State.chanDone (s : State) (n : Nat) (seq : BitVec 16) (st : Status) (tick : Nat) : State :=
  { s with chans := s.chans.map (fun e =>
      match e.2.run with
      | some r => if r.stream = n ∧ r.seq = seq then (e.1, { e.2 with run := some { r with done := true }, last := st, freeAt := tick }) else e
      | none => e) }

/-- The command completes with this status at this tick, and its channel with it. -/
def State.finishCmd (s : State) (n : Nat) (seq : BitVec 16) (st : Status) (reason : BitVec 8) (result : W64) (tick : Nat) : State :=
  let s1 := s.modCmd n seq (fun c => c.finish st reason result tick)
  match (s1.stream n).cmds.find? (fun c => c.seq = seq) with
  | some c => s1.chanDone n seq c.status tick
  | none => s1

/-- The unit that carries out a command reports its end (it completes at the next tick with GO). -/
def State.endCmd (s : State) (n : Nat) (seq : BitVec 16) (st : Status) (reason : BitVec 8) (result : W64) : State :=
  s.modCmd n seq (fun c => match c.phase with | .started => { c with phase := .ended st reason result } | _ => c)

def opOf (c : Cmd) : Nat := byteAt c.bytes 0

/-- The first admitted command of the stream with this opcode whose own step has not been carried out. -/
def nextOf (s : State) (n op : Nat) : Option Cmd :=
  (s.stream n).cmds.find? (fun c => c.phase = .admitted && opOf c = op)

/-! ## Doorbells (R280 to R282) -/

def State.cmdDoorbell (s : State) (n index : Nat) : State :=
  let x := s.stream n
  let sz := 2 ^ x.clog2
  let pend := (index + sz - x.head.toNat) % sz
  let old := (x.tail.toNat + sz - x.head.toNat) % sz
  if x.state != .idle && decide (index < sz) && decide (old ≤ pend) then
    ((s.useEntry n).modStream n (fun x => { x with tail := BitVec.ofNat 16 index, stuck := false })).writeBack n
  else (s.useEntry n).event 0x0300 n index

def State.headDoorbell (s : State) (n index : Nat) : State :=
  let x := s.stream n
  if x.state != .idle && decide (index < 2 ^ x.plog2) then
    ((s.useEntry n).modStream n (fun x => { x with phead := BitVec.ofNat 16 index })).writeBack n
  else (s.useEntry n).event 0x0300 n index

/-- A doorbell word (R280). -/
def State.doorbell (s : State) (w : Nat) : State :=
  let n := fieldNat w 29 16
  if bitAt w 31 then s.headDoorbell n (fieldNat w 15 0) else s.cmdDoorbell n (fieldNat w 15 0)

def execCommandTailDoorbell (stream index : Nat) (s : State) : Host.Outcome State Fault Refusal :=
  ok (s.live (fun s => s.doorbell ((stream % 16384) * 65536 + index % 65536)))
def execCompletionHeadDoorbell (stream index : Nat) (s : State) : Host.Outcome State Fault Refusal :=
  ok (s.live (fun s => s.doorbell (2 ^ 31 + (stream % 16384) * 65536 + index % 65536)))

/-! ## Actions (R275 to R277, R302) -/

def State.scmdStatus (s : State) (st : Status) : State := s.modStm (fun m => { m with status := st })

/-- A refused action: STATUS, and ERROR of the stream (R272, R275). -/
def State.actionRefused (s : State) (n : Nat) (st : Status) : State :=
  ((s.scmdStatus st).modStream n (fun x => { x with error := BitVec.ofNat 16 (256 * st.code) })).writeError n

/-- A ring is aligned and lies wholly in the stacked tier or wholly in host memory (R272, R275). -/
def ringOk (a n : Nat) : Bool :=
  decide (a % 64 = 0) && (inStacked a n || (decide (hostBase ≤ a) && decide (a + n ≤ addrEnd)))

/-- The checks of ARM on the 64 bytes of an entry (R275). -/
def armOk (s : State) (n : Nat) (e : List Byte) : Bool :=
  let cl := byteAt e 0x10
  let pl := byteAt e 0x11
  (rangeOf s n).isSome && decide (6 ≤ cl) && decide (cl ≤ 16) && decide (6 ≤ pl) && decide (pl ≤ 16) && byteAt e 6 ≠ 0
    && decide (bytesN e 0x14 2 < 2 ^ cl) && decide (bytesN e 0x22 2 < 2 ^ pl)
    && ringOk (bytesN e 8 8) (64 * 2 ^ cl) && ringOk (bytesN e 0x18 8) (32 * 2 ^ pl)
    && decide (byteAt e 3 < 4) && decide (byteAt e 7 < 4) && fieldNat (bytesN e 0x12 2) 14 11 = 0
    && byteAt e 0x27 = 0 && isZero ((e.drop 0x38).take 8)

/-- You and Both fields of an entry, taken at ARM (R275). -/
def Stream.take (x : Stream) (e : List Byte) : Stream :=
  { x with prio := BitVec.ofNat 2 (byteAt e 3), gang := BitVec.ofNat 16 (bytesN e 4 2), credits := BitVec.ofNat 8 (byteAt e 6),
           cph := bitAt (byteAt e 7) 0, rph := bitAt (byteAt e 7) 1, cring := BitVec.ofNat 64 (bytesN e 8 8),
           clog2 := byteAt e 0x10, plog2 := byteAt e 0x11, msixEn := bitAt (bytesN e 0x12 2) 15,
           vector := BitVec.ofNat 11 (bytesN e 0x12 2), head := BitVec.ofNat 16 (bytesN e 0x14 2),
           nseq := BitVec.ofNat 16 (bytesN e 0x16 2), pring := BitVec.ofNat 64 (bytesN e 0x18 8),
           ptail := BitVec.ofNat 16 (bytesN e 0x22 2) }

/-- Host-bound streams (10 R318). -/
def Stream.hostBound (x : Stream) : Bool := inHost x.cring.toNat || inHost x.pring.toNat || x.msixEn

/-- The pool of the stream's partition changes with its CREDITS; a stream in no range counts in none (R279). -/
def State.poolBy (s : State) (n : Nat) (delta : Int) : State :=
  let x := s.stream n
  if x.inRange then
    s.modPart x.part.toNat (fun q => { q with credTotal := ((q.credTotal : Int) + delta).toNat, credFree := ((q.credFree : Int) + delta).toNat })
  else s

/-- ARM (R274, R275; 10 R321). An entry that lies at no location fails as one that the checks find invalid (notes/assumptions/68.md). -/
def State.actArm (s : State) (n : Nat) : State :=
  let x := s.stream n
  let e := s.rd (entryAddr s n) 64
  if x.live || (x.state == .hostLost && s.hlk.needhs) then s.actionRefused n .bound
  else if locate s (entryAddr s n) != .mem then (s.noLocation none (entryAddr s n)).actionRefused n .badStream
  else if !armOk s n e then s.actionRefused n .badStream
  else
    let fromIdle := x.state == .idle
    let lost := x.state == .hostLost
    let s1 := s.setRange n
    let y := (s1.stream n).take e
    let z := if fromIdle then { y with tail := y.head, cutTail := y.head, phead := y.ptail, completed := 0, cmds := [] } else y
    let z' : Stream := { z with state := .armed, fetched := [], retrying := false, stuck := false, rereads := 0, reload := none,
                                waited := if !fromIdle && z.head = x.head && z.nseq = x.nseq then x.waited else none }
    let delta : Int := (z.credits.toNat : Int) - (if fromIdle then 0 else x.credits.toNat)
    let s2 := (s1.modStream n (fun _ => z')).poolBy n delta
    let s3 := if lost then s2.sendHeld n x.heldUnacked (x.held - x.heldUnacked) else s2
    (s3.scmdStatus .ok).writeBack n

/-- HALT (R274, R276). -/
def State.actHalt (s : State) (n : Nat) : State :=
  if (s.stream n).live then (s.haltStream n 1).scmdStatus .ok else s.actionRefused n .bound

/-- DISARM (R274, R276; 10 R321). -/
def State.actDisarm (s : State) (n : Nat) : State :=
  let x := s.stream n
  let may := x.state == .armed || x.state == .halted || x.state == .hostLost || x.state == .faulted
  if may && x.cmds.isEmpty then
    let s1 := (List.replicate x.heldUnacked 0).foldl (fun s _ => s.event 0x0406 0 n) s
    let s2 := (s1.poolBy n (-(x.credits.toNat : Int))).modStream n
      (fun x => { (x.stopAs .idle) with
          cached := 0, held := 0, heldUnacked := 0, heldIrq := [], inflight := [], irqWant := false, irqBatches := [], heldWait := none,
          reload := none, waited := none })
    (s2.scmdStatus .ok).writeBack n
  else s.actionRefused n .bound

/-- Commands the stream may have admitted: CREDITS, and no more than before a RELOAD until the next admission window (R276, R279). -/
def Stream.limit (x : Stream) : Nat :=
  match x.reload with
  | some r => Min.min x.credits.toNat r.credits.toNat
  | none => x.credits.toNat

/-- RELOAD (R276): CREDITS and the pool's total change now (R279); what admission makes of them, and the other fields, wait for the next
admission window (notes/assumptions/67.md). -/
def State.actReload (s : State) (n : Nat) : State :=
  let x := s.stream n
  let e := s.rd (entryAddr s n) 64
  if x.state == .idle then s.actionRefused n .bound
  else if locate s (entryAddr s n) != .mem then (s.noLocation none (entryAddr s n)).actionRefused n .badStream
  else if byteAt e 6 = 0 || decide (4 ≤ byteAt e 3) || fieldNat (bytesN e 0x12 2) 14 11 ≠ 0 then
    s.actionRefused n .badStream
  else if byteAt e 6 < x.cmds.length then s.actionRefused n .bound
  else
    let r : StreamCtl := { prio := BitVec.ofNat 2 (byteAt e 3), gang := BitVec.ofNat 16 (bytesN e 4 2), credits := BitVec.ofNat 8 x.limit,
                           msixEn := bitAt (bytesN e 0x12 2) 15, vector := BitVec.ofNat 11 (bytesN e 0x12 2) }
    ((s.modStream n (fun x => { x with credits := BitVec.ofNat 8 (byteAt e 6), reload := some r })).poolBy n
      ((byteAt e 6 : Int) - x.credits.toNat)).scmdStatus .ok

/-- An admission window of the stream begins: what RELOAD took up applies (R276). -/
def State.takeReload (s : State) (n : Nat) : State :=
  match (s.stream n).reload with
  | some r => s.modStream n (fun x => { x with prio := r.prio, gang := r.gang, msixEn := r.msixEn, vector := r.vector, reload := none })
  | none => s

/-- QUERY fills STM_SINFO (R302). -/
def State.actQuery (s : State) (n : Nat) : State :=
  let x := s.stream n
  let r := rangeOf s n
  let info := x.state.code * 2 ^ 56 + b2n (r.any (·.pinned)) * 2 ^ 55 + (match r with | some r => r.k.toNat | none => 0) * 2 ^ 53
    + b2n r.isSome * 2 ^ 52 + (match r with | some r => r.part | none => 0) * 2 ^ 46 + n * 2 ^ 32
    + x.cmds.length * 2 ^ 24 + x.limit * 2 ^ 16 + x.head.toNat
  (s.modStm (fun m => { m with sinfo := BitVec.ofNat 64 info })).scmdStatus .ok

/-- A write of STM_SCMD (R302); every action of a stream uses its entry (R270). -/
def State.scmd (s : State) (n action : Nat) : State :=
  let s1 := s.modStm (fun m => { m with stream := BitVec.ofNat 14 n })
  match action with
  | 0 => s1
  | 1 => (s1.actArm n).useEntry n
  | 2 => (s1.actHalt n).useEntry n
  | 3 => (s1.useEntry n).actDisarm n
  | 4 => (s1.actReload n).useEntry n
  | 5 => (s1.actQuery n).useEntry n
  | _ => s1.scmdStatus .bound

def execScmdSetStream (stream : Nat) (s : State) : Host.Outcome State Fault Refusal :=
  ok (s.live (fun s => s.scmd (stream % 16384) 0))
def execArm (stream : Nat) (s : State) : Host.Outcome State Fault Refusal := ok (s.live (fun s => s.scmd (stream % 16384) 1))
def execHalt (stream : Nat) (s : State) : Host.Outcome State Fault Refusal := ok (s.live (fun s => s.scmd (stream % 16384) 2))
def execDisarm (stream : Nat) (s : State) : Host.Outcome State Fault Refusal := ok (s.live (fun s => s.scmd (stream % 16384) 3))
def execReload (stream : Nat) (s : State) : Host.Outcome State Fault Refusal := ok (s.live (fun s => s.scmd (stream % 16384) 4))
def execQuery (stream : Nat) (s : State) : Host.Outcome State Fault Refusal := ok (s.live (fun s => s.scmd (stream % 16384) 5))
/-- Actions 0x6 to 0xF do nothing and set STATUS to BOUND; the codes below them are the other rows' (R302). -/
def execReservedAction (stream : Nat) (action : BitVec 4) (s : State) : Host.Outcome State Fault Refusal :=
  ok (s.live (fun s => if 6 ≤ action.toNat then s.scmd (stream % 16384) action.toNat else s))

/-- Every stream is IDLE. -/
def allIdle (s : State) : Bool := s.stm.streams.all (fun e => e.2.state == .idle)

/-- STM_TABLE_BASE (R269, R270). -/
def State.setTableBase (s : State) (v : Nat) : State :=
  if allIdle s then
    s.modStm (fun m => { m with tableBase := BitVec.ofNat 48 (v / 2 ^ 20 * 2 ^ 20),
                                streams := m.streams.map (fun e => (e.1, { e.2 with cached := 0 })) })
  else s.event 0x0307 0 0
/-- STM_ARG_BASE (R302). -/
def State.setArgBase (s : State) (v : Nat) : State :=
  if allIdle s then s.modStm (fun m => { m with argBase := BitVec.ofNat 48 (v / 2 ^ 18 * 2 ^ 18) }) else s.event 0x0307 0 0

def execStmTableBaseWrite (val : W64) (s : State) : Host.Outcome State Fault Refusal :=
  ok (s.live (fun s => s.setTableBase val.toNat))
def execStmArgBaseWrite (val : W64) (s : State) : Host.Outcome State Fault Refusal :=
  ok (s.live (fun s => s.setArgBase val.toNat))

/-! ## Host acknowledgements and losses (10 R313, R316 to R321) -/

/-- The oldest record in flight is acknowledged, a held one before those written since (10 R319, R321). -/
def State.ackRecord (s : State) (n : Nat) : State :=
  let x := s.stream n
  match x.inflight with
  | [] => s
  | _ :: rest =>
    let s1 := (s.modStream n (fun x =>
      { x.advancePtail with inflight := rest, unacked := x.unacked.map (fun g => (g.1, g.2.1, g.2.2 - 1)) })).writeTail n
    if 0 < x.heldUnacked then s1.modStream n Stream.heldDone else s1.finishHead n

/-- The oldest outstanding write of the stream is acknowledged (10 R313). -/
def State.ackOne (s : State) (n : Nat) : State :=
  match (s.stream n).unacked with
  | (q, k, r) :: rest =>
    if r = 0 then s.modStream n (fun x => { x with unacked := if k ≤ 1 then rest else (q, k - 1, r) :: rest })
    else s.ackRecord n
  | [] => s.ackRecord n

def State.ackMany (s : State) (n : Nat) : Nat → State
  | 0 => s
  | k + 1 => State.ackMany (s.ackOne n) n k

def execHostWriteAck (stream n : Nat) (s : State) : Host.Outcome State Fault Refusal :=
  ok (s.live (fun s => if s.hlk.needhs || linkHolds s then s else (s.ackMany stream (Min.min n 65536)).recordsNow stream))

/-- What the loss does to one stream (10 R318, R319): records of a FAULTED one that were sent and are not acknowledged have failed, and are dropped
(R278; 10 R317). -/
def State.loseStream (s : State) (n : Nat) : State :=
  let x := s.stream n
  if x.hostBound && (x.live || x.state == .halted) then
    (State.writeRecords true 600 (s.toLost n) n).writeBack n
  else if x.state == .faulted then
    (x.inflight.drop x.heldUnacked).foldl (fun s f => (s.event 0x0304 n f.seq.toNat).finishHead n)
      (s.modStream n (fun x => { x with inflight := [], unacked := [], irqWant := x.irqWant || !x.irqBatches.isEmpty, irqBatches := [] }))
  else s.modStream n (fun x => { x with unacked := [] })

/-- A write of the command was sent and not acknowledged at a loss (10 R317): it completes with HOST_LOST (10 R318). -/
def Cmd.lose (c : Cmd) : Cmd :=
  { c with lost := true, phase := match c.phase with
    | .complete st reason result tick => .complete (st.lostOver true) reason result tick
    | x => x }

/-- Commands with an unacknowledged write count it as failed (10 R317). -/
def State.failUnacked (s : State) : State :=
  s.modStm (fun m => { m with streams := m.streams.map (fun e =>
    (e.1, { e.2 with cmds := e.2.cmds.map (fun c => if 0 < e.2.outOf c.seq then c.lose else c) })) })

/-- Replayed flits of a port (10 R314, 08 R267, 15 R438). -/
def execLinkReplay (port : Port) (flits : Nat) (s : State) : Host.Outcome State Fault Refusal :=
  ok (s.live (fun s => match port with
    | .hlk => (s.modHlk (fun h => { h with replays := satAdd h.replays flits })).event 0x0401 0 flits
    | .plk0 | .plk1 => s.modPlk (fun k => { k with replays := satAdd k.replays flits })
    | .bmp0 => s.modBmp 0 (fun b => { b with replays := satAdd b.replays flits })
    | .bmp1 => s.modBmp 1 (fun b => { b with replays := satAdd b.replays flits })
    | .bmp2 => s.modBmp 2 (fun b => { b with replays := satAdd b.replays flits })
    | .bmp3 => s.modBmp 3 (fun b => { b with replays := satAdd b.replays flits })))

/-- The link leaves UP, or changes between training and DOWN (10 R314, R316). -/
def State.hlkDown (s : State) (st : PortState) : State :=
  s.modHlk (fun h => { h with state := st, lanes := 0, downAt := if h.state == .up then some s.time else h.downAt,
                              trainAt := if st == .training then some s.time else none })

/-- HLK_CTL.RETRAIN: the link leaves UP and trains (10 R314). -/
def State.hlkTrain (s : State) : State := if s.hlk.state == .up then s.hlkDown .training else s
def execHlkRetrain (s : State) : Host.Outcome State Fault Refusal := ok (s.live State.hlkTrain)

/-- HLK_HSHAKE (10 R320). -/
def State.handshakeWrite (s : State) (v : Nat) : State :=
  if s.hlk.needhs && s.hlk.state == .up && decide (v % 65536 = s.hlk.epoch.toNat) then
    (s.modHlk (fun h => { h with needhs := false })).event 0x0404 0 s.hlk.epoch.toNat
  else s.event 0x0408 0 (v % 65536)
def execHandshake (epoch : BitVec 16) (s : State) : Host.Outcome State Fault Refusal :=
  ok (s.live (fun s => s.handshakeWrite epoch.toNat))

/-- HLK_HOLD_BASE: only while no stream is HOST_LOST (10 R319). -/
def State.setHoldBase (s : State) (v : Nat) : State :=
  if s.stm.streams.any (fun e => e.2.state == .hostLost) then s
  else s.modHlk (fun h => { h with holdBase := BitVec.ofNat 48 (v % 2 ^ 48 / 2 ^ 27 * 2 ^ 27) })
def execHoldBaseWrite (val : W64) (s : State) : Host.Outcome State Fault Refusal :=
  ok (s.live (fun s => s.setHoldBase val.toNat))

end Sys2Proof.Machine
end

