-- ==== Sys2Proof/Machine/Access.lean ====
section
/-! DEFINITION. Accesses to memory by any master, line by line: translation, bus errors, host loss, dirty marks (01 R38, 08 R233,
R244, R245; 10 R317). Register space is Bus.lean's. -/
namespace Sys2Proof.Machine

/-- Where one access of a master ends up. -/
inductive Res where
  /-- At this physical address, in memory. -/
  | at (pa : Nat)
  /-- In register space. -/
  | reg
  /-- It waits on a page in motion (08 R244), on a board port that trains (08 R264), or for the host link to be up again (10 R314). -/
  | wait
  /-- It reaches no location (08 R233). -/
  | bus
  /-- It is a host access after a loss (10 R317). -/
  | lost
deriving DecidableEq, Repr

/-- Where an access to a physical address leads. -/
def reachOf (s : State) (pa : Nat) : Res :=
  match locate s pa with
  | .mem => if boardWaits s pa then .wait else .at pa
  | _ => .bus

/-- Resolve one access; `p` is the partition whose table translates, `none` for a master with no partition context (01 R38). -/
def resolve (s : State) (p : Option Nat) (a : Nat) (write : Bool) : Res :=
  match locate s a with
  | .mem => reachOf s a
  | .host => if s.hlk.needhs then .lost else if linkHolds s then .wait else .at a
  | .reg => .reg
  | .none => .bus
  | .uni =>
    match p with
    | none => .bus
    | some p =>
      match translate s p a write with
      | .at pa => reachOf s pa
      | .wait => .wait
      | .fail => .bus

/-- Split `[a, a + n)` at 64-byte boundaries (08 R233): address and length of each piece. -/
def pieces : Nat → Nat → Nat → List (Nat × Nat)
  | 0, _, _ => []
  | fuel + 1, a, n =>
    if n = 0 then []
    else
      let k := Min.min n (64 - a % 64)
      (a, k) :: pieces fuel (a + k) (n - k)

def linesOf (a n : Nat) : List (Nat × Nat) := pieces (n / 64 + 2) a n

/-- The bytes of a span, or what its first failing piece met. -/
def readPieces (s : State) (p : Option Nat) : List (Nat × Nat) → Except Res (List Byte)
  | [] => .ok []
  | (a, n) :: l =>
    match resolve s p a false with
    | .at pa =>
      match readPieces s p l with
      | .ok b => .ok (s.rd pa n ++ b)
      | .error e => .error e
    | r => .error r

def readMem (s : State) (p : Option Nat) (a n : Nat) : Except Res (List Byte) := readPieces s p (linesOf a n)

/-- The first piece of a span that cannot be read: what it meets, and its address. -/
def firstStop (s : State) (p : Option Nat) (a n : Nat) : Option (Res × Nat) :=
  (linesOf a n).findSome? (fun x => match resolve s p x.1 false with | .at _ => none | r => some (r, x.1))

/-- Write one piece of at most a line: what it met, and the state after (08 R245). -/
def State.writePiece (s : State) (p : Option Nat) (a : Nat) (l : List Byte) : Res × State :=
  match resolve s p a true with
  | .at pa =>
    let s1 := match p, locate s a with | some q, .uni => s.markDirty q (pageOf a) | _, _ => s
    (.at pa, s1.wr pa l)
  | r => (r, s)

/-- Write a span piece by piece and stop at the first that fails; earlier pieces stay written. -/
def State.writePieces (s : State) (p : Option Nat) : List (Nat × Nat) → List Byte → Option Res × State
  | [], _ => (none, s)
  | (a, n) :: l, b =>
    match s.writePiece p a (b.take n) with
    | (.at _, s1) => State.writePieces s1 p l (b.drop n)
    | (r, s1) => (some r, s1)

/-- Write a span; `none` when all of it was written. -/
def State.writeMem (s : State) (p : Option Nat) (a : Nat) (l : List Byte) : Option Res × State :=
  s.writePieces p (linesOf a l.length) l

/-- The FP32 sum that an accumulate-write stores, and whether it saturated (08 R260). -/
def addwValue (t v : F32) : F32 × Bool :=
  let n := (f32 t).add (f32 v)
  match n with
  | .nan => (qnan, false)
  | .inf _ => (toF32Sat n, true)
  | .fin _ m e => (toF32Sat n, foverflows fmt32 m e false)

/-- The line after an accumulate-write, and the values saturated. -/
def addwLine : List Byte → List Byte → List Byte × Nat
  | a0 :: a1 :: a2 :: a3 :: t, b0 :: b1 :: b2 :: b3 :: v =>
    let x := addwValue (BitVec.ofNat 32 (leNat [a0, a1, a2, a3])) (BitVec.ofNat 32 (leNat [b0, b1, b2, b3]))
    let r := addwLine t v
    (leBytes 4 x.1.toNat ++ r.1, r.2 + b2n x.2)
  | _, _ => ([], 0)

/-- One accumulate-write of whole FP32 values: only the stacked tier takes it (08 R260). -/
def State.addwPiece (s : State) (p : Option Nat) (src : Nat) (a : Nat) (l : List Byte) : Res × State :=
  match resolve s p a true with
  | .at pa =>
    if pa < hbmEnd then
      let r := addwLine (s.rd pa l.length) l
      let s1 := match p, locate s a with | some q, .uni => s.markDirty q (pageOf a) | _, _ => s
      let s2 := s1.wr pa r.1
      (.at pa, if r.2 = 0 then s2 else s2.event 0x0208 src r.2)
    else (.bus, s)
  | .reg => (.bus, s)
  | r => (r, s)

/-- max(t, v) of a maximum-merge (08 R261). -/
def maxmValue (t v : F32) : F32 := if (f32 t).isNan || (f32 v).isNan then qnan else fmax t v

/-- One maximum-merge: HBM and shelves take it (08 R261). -/
def State.maxmPiece (s : State) (p : Option Nat) (a : Nat) (v : F32) : Res × State :=
  match resolve s p a true with
  | .at pa =>
    if pa < hbmEnd || (decide (shelfBase ≤ pa) && decide (pa < shelfEnd)) then
      let s1 := match p, locate s a with | some q, .uni => s.markDirty q (pageOf a) | _, _ => s
      (.at pa, s1.wrN pa 4 (maxmValue (BitVec.ofNat 32 (s.rdN pa 4)) v).toNat)
    else (.bus, s)
  | .reg => (.bus, s)
  | r => (r, s)

end Sys2Proof.Machine
end

