-- ==== Sys2Proof/Machine/Actions.lean ====
section
/-! DEFINITION. What a write to a register with a behaviour of its own does at once: FRM, CFG, DMA, UPD, ING, PLK and AUD (06 R188, 07
R229, 11 R337, 13 R401, 14 R420, 15 R438, 16 R464). -/
namespace Sys2Proof.Machine

/-! ## FRM (06 R161, R180, R188) -/

/-- FRM_CAL (R161); the SUPPORT condition is judged anew (17 R484). -/
def State.setCal (s : State) (v : Nat) : State :=
  (s.modFrm (fun f => { f with cal := BitVec.ofNat 64 v, calTb := BitVec.ofNat 64 s.time, calSet := true })).charge 0
def execFrmCalWrite (val : W64) (s : State) : Host.Outcome State Fault Refusal := ok (s.live (fun s => s.setCal val.toNat))

/-- FRM_PCTL.RESUME: only a halted partition without CONS (R180, 16 R445). -/
def State.resume (s : State) (p : Nat) : State :=
  let q := s.part p
  if q.defined && q.state == .halted && !q.cons then s.modPart p (fun q => { q with resumeAt := some s.time }) else s
def execResume (p : Nat) (s : State) : Host.Outcome State Fault Refusal := ok (s.live (fun s => s.resume p))

/-- FRM_PCTL.CLRSLK (R188). -/
def State.clrSlack (s : State) (p : Nat) : State := s.modPart p (fun q => { q with slackMin := 0xFFFFFFFF })
def execClrslk (p : Nat) (s : State) : Host.Outcome State Fault Refusal := ok (s.live (fun s => s.clrSlack p))

/-! ## CFG (07 R208, R212, R217, R219, R229) -/

/-- The bytes of a bit-stream as the measurement log takes them: none where the source is not wholly in HBM. -/
def loadImage (s : State) (r : LoadReq) : List Byte := if stackedOk s r.src r.len then s.rd r.src r.len else []

/-- End a load: CFG_STAT, the measurement log, the record, and the command that carries it (R212, R217, R231; 09 R295). -/
def State.endLoad (s : State) (r : LoadReq) (st : Status) (reason part : Nat) (serial : W64) (off : Nat) : State :=
  let s1 := s.modCfg (fun c => { c with status := st, reason := BitVec.ofNat 8 reason, part := BitVec.ofNat 8 part, offset := BitVec.ofNat 32 off })
  let s2 := s1.measure 3 st (loadImage s r) serial
  let s3 := if st = .ok then s2.event 0x0010 0 part else s2.event 0x0011 0 reason
  match r.cmd with
  | some (n, seq) =>
    s3.modCmd n seq (fun c => { c with phase := .ended st (BitVec.ofNat 8 reason) (BitVec.ofNat 64 reason) })
  | none => s3

/-- A repair is under way: it goes ahead of every queued load (R212). -/
def repairing (s : State) : Bool := s.parts.any (fun e => e.2.defined && e.2.repairs.any (fun r => r.step ≠ 4))

/-- The load at the head is the one being carried out, and not one of the queue of 8, unless a repair goes ahead of it (R212). -/
def headRuns (s : State) : Bool := match s.cfg.queue with | r :: _ => r.phase != .idle || r.begun || !repairing s | [] => false

/-- Loads waiting in the queue of 8. -/
def waitingLoads (s : State) : Nat := s.cfg.queue.length - b2n (headRuns s)

/-- CFG_STAT.PHASE: VERIFY while the load at the head is being verified (R214). -/
def loadPhase (s : State) : LoadPhase :=
  match s.cfg.queue with
  | r :: _ => if r.phase == .idle && headRuns s then .verify else s.cfg.phase
  | [] => s.cfg.phase

/-- Partition a load's header names, 0xFF for a full load, and its SERIAL: read where it lies in HBM. -/
def headerPart (s : State) (r : LoadReq) : Nat := if stackedOk s r.src 64 && bitAt (s.rdN (r.src + 0x10) 1) 0 then s.rdN (r.src + 0x14) 1 else 0xFF
def headerSerial (s : State) (r : LoadReq) : W64 := if stackedOk s r.src 64 then BitVec.ofNat 64 (s.rdN (r.src + 0x18) 8) else 0

/-- Queue a load, or refuse it with reason 0x10 (R212). -/
def State.queueLoad (s : State) (r : LoadReq) : State :=
  if waitingLoads s < 8 then s.modCfg (fun c => { c with queue := c.queue ++ [r] }) else s.endLoad r .bound 0x10 (headerPart s r) (headerSerial s r) 0

/-- CFG_CTL.LOAD. -/
def State.loadNow (s : State) : State :=
  s.queueLoad { src := s.cfg.src.toNat, len := s.cfg.len.toNat, force := s.cfg.force }
def execLoad (s : State) : Host.Outcome State Fault Refusal := ok (s.live State.loadNow)

/-- CFG_CTL.FLASH: a full load from module flash, copied into a boot range first (17 R487); a refused one leaves memory as it was (R217). -/
def State.flashNow (s : State) : State :=
  match bootRange s with
  | none => s.event 0x0036 0 0
  | some a =>
    let len := Min.min (leNat (s.flRd (bitBase + 8) 8)) (flashSize - bitBase)
    let s1 : State := { s with mem := tputAll (tclear s.mem a len) (tslice s.flash bitBase len a) }
    let s2 := s1.queueLoad { src := a, len := len, flash := true }
    if waitingLoads s < 8 then s2 else { s2 with mem := s.mem }
def execFlash (s : State) : Host.Outcome State Fault Refusal := ok (s.live State.flashNow)

/-- Stage READY: alert STAGE; a bit-stream in module flash is loaded as CFG_CTL.FLASH does, and CFG_SRC and CFG_LEN name it (17 R485, R487). -/
def execReadyEntry (s : State) : Host.Outcome State Fault Refusal :=
  ok (s.inStage .links (fun s =>
    if !s.aud.linksInit then s
    else
      let s1 := (s.toStage .ready).alert 4
      if s.flRd bitBase 4 = [0x51, 0x46, 0x42, 0x53] then
        let s2 := match bootRange s with
          | some a => s1.modCfg (fun c =>
              { c with src := BitVec.ofNat 48 a, len := BitVec.ofNat 33 (Min.min (leNat (s.flRd (bitBase + 8) 8)) (flashSize - bitBase)) })
          | none => s1
        s2.flashNow
      else s1))

/-- Take the head load off the queue after a failure before APPLY (R217). -/
def State.failHead (s : State) (st : Status) (reason part : Nat) (serial : W64) (off : Nat) : State :=
  match s.cfg.queue with
  | [] => s
  | r :: rest => (s.modCfg (fun c => { c with queue := rest, phase := .failed })).endLoad r st reason part serial off

/-- CFG_CTL.ABORT: the load at the queue head, if it has not reached APPLY; a drained partition starts again (R217, R218). -/
def State.abortLoad (s : State) : State :=
  match s.cfg.queue with
  | [] => s
  | r :: _ =>
    if r.phase == .apply then s
    else
      let s1 := s.failHead .stopped 0x11 (r.part.getD (headerPart s r)) (headerSerial s r) 0
      match r.part with
      | some p => s1.undrain p
      | none => s1
def execAbort (s : State) : Host.Outcome State Fault Refusal := ok (s.live State.abortLoad)

/-- The key record at CFG_SRC (R208), refused with SIGNATURE while IDOK is 0 (17 R489); the operand is what its SIGNATURE certifies (notes/assumptions/10.md). -/
def State.keyRecord (s : State) (x : Seal) : State :=
  let a := s.cfg.src.toNat
  let s0 := s.modCfg (fun c => { c with keyReq := false })
  if !s.pwr.idok then s0.measure 4 .signature [] 0
  else if !signedAt s a 0x70 then s0.measure 4 .bound [] 0
  else
    let l := s.rd a 0x70
    let sec := s.section_ (a + 0x70)
    let slot := byteAt l 4
    let op := byteAt l 5
    let anchor := byteAt sec 1
    let fields := magicIs l && decide (slot ≤ 3) && (op = 1 || op = 2) && isZero ((l.drop 6).take 2) && isZero ((l.drop 0x68).take 8)
      && (op = 1 || isZero ((l.drop 0x28).take 64))
    if !fields then s0.measure 4 .bound l 0
    else if sealCovers x l sec && sealAnchored x s.cfg.keys anchor sec && anchor ≠ slot + 1 && ((l.drop 8).take 32 = moduleDigest s) then
      ((s0.storeKey slot (if op = 1 then some (BitVec.ofNat 512 (beNat ((l.drop 0x28).take 64))) else none)).measure 4 .ok l 0).event 0x0018 0 slot
    else s0.measure 4 .signature l 0
where
  /-- "QFKR". -/
  magicIs (l : List Byte) : Bool := l.take 4 == [0x51#8, 0x46, 0x4B, 0x52]
def execKeyreg (x : Seal) (s : State) : Host.Outcome State Fault Refusal := ok (s.live (fun s => s.keyRecord x))

/-- The merged map holds the column bad (03 R83, R84). -/
def badCol (s : State) (g a n : Nat) : Bool := s.cfg.badCols.contains (64 * g + a, n) || s.cfg.repRec.contains (.badColumn (64 * g + a) n)

/-- Good columns of array `a` of cluster `g` in the merged map, lowest first (R220). -/
def goodCols (s : State) (g a : Nat) : List Nat := (List.range 16).filter (fun n => !badCol s g a n)

/-- Columns a mask records. -/
def maskWidth (m : BitVec 16) : Nat := ((List.range 16).filter (fun n => m.toNat.testBit n)).length

/-- A spare is eligible for cluster `g` with these width records (R220). -/
def spareOk (s : State) (g : Nat) (widths : List (BitVec 16)) (x : Nat) : Bool :=
  spareFree s x && x / 160 = g / 160 && (List.range 64).all (fun a => decide (maskWidth (widths.getD a 0xFFFF) ≤ (goodCols s x a).length))

/-- The spare a repair of `g` takes (R220): the one CFG_RPRCTL names if it is eligible (notes/assumptions/17.md), else the lowest. -/
def chooseSpare (s : State) (g : Nat) (widths : List (BitVec 16)) : Option Nat :=
  if spareOk s g widths s.cfg.rprSpare.toNat then some s.cfg.rprSpare.toNat else (List.range 640).find? (spareOk s g widths)

/-- The load at the head has begun. -/
def headBegun : List LoadReq → List LoadReq
  | r :: l => { r with begun := true } :: l
  | [] => []

/-- Request the repair of a cluster of a partition, failed or degraded (R219, R221). -/
def State.requestRepair (s : State) (g : Nat) (failed : Bool) : State :=
  match partOfCluster s g with
  | none => s
  | some p =>
    let q := s.part p
    if !q.defined || q.state == .down || !q.clusters.contains g || q.repairs.any (fun r => r.old = g && (r.failed || !failed)) then s
    else
      let was := q.repairs.find? (fun r => r.old = g)
      let sp := match was.bind (·.spare) with | some x => some x | none => chooseSpare s g (s.cluster g).widths
      let s0 := match sp with
        | some x => s.modCluster x (fun k => { k with state := .loading, part := BitVec.ofNat 6 p })
        | none => s
      let s1 := s0.modPart p (fun q =>
        { q with repairs := q.repairs.filter (fun r => r.old ≠ g) ++ [{ old := g, spare := sp, failed := failed }] })
      (s1.modCfg (fun c => { c with queue := if headRuns s then headBegun c.queue else c.queue, rprPhase := .waitTick, rprStatus := .ok, rprLost := false, rprFailed := failed, rprOld := BitVec.ofNat 10 g,
                                    rprNew := BitVec.ofNat 10 (sp.getD 0), rprLines := 0 })).charge 0

/-- Bubarus is asked for a repair; while it restarts, the request waits (16 R448). -/
def State.askRepair (s : State) (g : Nat) (failed : Bool) : State :=
  if s.pwr.mpDown.isSome then s.modAud (fun a => { a with due := a.due ++ [.repair g failed] }) else s.requestRepair g failed

/-- CFG_RPRCTL.START (R219); a cluster that has reported itself failed is repaired as failed. -/
def State.repairNow (s : State) : State := s.askRepair s.cfg.rprClus.toNat (s.cluster s.cfg.rprClus.toNat).failed
def execRepairStart (cluster spare : BitVec 10) (s : State) : Host.Outcome State Fault Refusal :=
  ok (s.live (fun s => (s.modCfg (fun c => { c with rprClus := cluster, rprSpare := spare })).repairNow))

/-! ## DMA (11 R334, R337) -/

/-- The command has beats to move (11 R333): its work has not ended, and no access of it waits or is to be repeated. -/
def DmaRun.ready (r : DmaRun) : Bool := !r.done && !r.finished && r.failAt.isNone && r.heldAt.isNone

/-- DMA_CCTLi.STOP: the running command stops at the next descriptor boundary. -/
def State.dmaStopReq (s : State) (ch : Nat) : State :=
  s.modChan ch (fun c => match c.run with | some r => if r.done then c else { c with run := some { r with stopReq := true } } | none => c)
def execDmaStop (ch : Nat) (s : State) : Host.Outcome State Fault Refusal := ok (s.live (fun s => if ch < 256 then s.dmaStopReq ch else s))

/-! ## UPD (13 R397, R401) -/

/-- The command the engine is on, one of whose accesses waits, is this job's. -/
def Upd.isBegun (u : Upd) (j : UpdJob) : Bool := u.began == some (j.stream, j.seq)

/-- The earliest admitted of the parked UPDATEs whose group is complete: the engine's present work (R373). While an access of the engine waits,
its work is the command that waits. -/
def updRunning (u : Upd) : Option UpdJob :=
  if u.began.isSome then u.parked.find? u.isBegun
  else
    match u.parked.filter (fun j => j.parkedAt.isNone) with
    | [] => none
    | j :: l => some (l.foldl (fun m x => if x.adm < m.adm then x else m) j)

/-- The hold by 1,024 parked commands ends as the engine starts a command (R373). -/
def State.capDone (s : State) (d : Nat) : State :=
  match (s.updOf d).capFrom with
  | some (t, _) => (s.event 0x060C (dieCode d) (s.time - t)).modUpd d (fun u => { u with capFrom := none })
  | none => s

/-- The wait of a write for an EXPORT's hold is over, and its length is counted (R396). -/
def State.holdDone (s : State) (d : Nat) : State :=
  match (s.updOf d).holdFrom with
  | some (t, _) => (s.event 0x060B (dieCode d) (s.time - t)).modUpd d (fun u => { u with holdFrom := none })
  | none => s

/-- The wait of an engine's write on an EVICTING or RELOCATING page is over, and its length is counted (08 R255, R268). -/
def State.writeDone (s : State) (d : Nat) : State :=
  match (s.updOf d).writeFrom with
  | some (t, p) => (s.event 0x0207 p (s.time - t)).modUpd d (fun u => { u with writeFrom := none })
  | none => s

/-- The engine has nothing under way. -/
def State.idleUpd (s : State) (d : Nat) : State := s.modUpd d (fun u => { u with state := .idle, part := none, ctx := [], win := none })

/-- A command that waited so goes on, or is gone. -/
def State.waitOver (s : State) (n : Nat) (seq : BitVec 16) : State :=
  s.each [0, 1, 2, 3] (fun s d =>
    let mine := fun (w : Option (Nat × Nat × BitVec 16)) => w.any (fun x => x.2.1 = n && x.2.2 = seq)
    let s1 := if mine (s.updOf d).capFrom then s.capDone d else s
    let s2 := if mine (s1.updOf d).holdFrom then s1.holdDone d else s1
    if (s2.updOf d).began = some (n, seq) then ((s2.writeDone d).idleUpd d).modUpd d (fun u => { u with began := none }) else s2)

/-- Header STEP at completion, low 32 bits, of a job's shard. -/
def jobStep (s : State) (j : UpdJob) : Nat := s.rdN (j.shard + 8) 4

/-- RESULT of an UPDATE that ends before its flip (R399): PARKED, WAITF, STEP. -/
def updResult (s : State) (j : UpdJob) : W64 :=
  BitVec.ofNat 64 (b2n j.didPark * 2 ^ 60 + Min.min j.parkFrames 0xFFFF * 2 ^ 32 + jobStep s j)

/-- RESULT after the flip (R399). -/
def flipResult (s : State) (j : UpdJob) (skip root cut : Bool) : W64 :=
  updResult s j + BitVec.ofNat 64 (2 ^ 63 + b2n skip * 2 ^ 62 + b2n root * 2 ^ 61 + b2n cut * 2 ^ 59)

/-- What a flip is counted as (R381, R394, R395), with the command's engine cycles. -/
def State.updCounted (s : State) (f : Flipped) : State :=
  let d := f.x.d
  let e := dieCode d
  let s1 := if f.k.skip then (s.event 0x0601 e f.nonfin).modUpd d (fun u => { u with skips := satAdd u.skips 1 })
    else (s.event 0x0600 e f.cycles).modUpd d (fun u => { u with commits := satAdd u.commits 1 })
  if f.k.lsnext = f.x.h.lscale then s1 else s1.event 0x0606 e f.k.lsnext.toNat

/-- The end of an UPDATE that flipped. -/
def State.updDone (s : State) (f : Flipped) (j : UpdJob) (st : Status) (root cut : Bool) : State :=
  let d := f.x.d
  let s1 := ((s.updCounted f).waitOver j.stream j.seq).modUpd d (fun u =>
    { u with parked := u.parked.filter (fun y => !(y.stream = j.stream && y.seq = j.seq)) })
  (s1.idleUpd d).endCmd j.stream j.seq st 0 (flipResult s1 j f.k.skip root cut)

/-- The work of an UPDATE after its flip is cut short (R397). -/
def State.updCut (s : State) (f : Flipped) (j : UpdJob) (st : Status) (root : Bool) : State :=
  (s.event 0x060A (dieCode f.x.d) f.x.h.id).updDone f j st root true

/-- An UPDATE is interrupted (R397), one whose pass 1 waits among them: before its flip NOT_COMMITTED with the cause as REASON, after it the commit
stays. -/
def State.updInterrupt (s : State) (d : Nat) (j : UpdJob) (cause : Status) : State :=
  match j.flip with
  | some f => s.updCut f j cause false
  | none =>
    let s0 := (s.waitOver j.stream j.seq).modCmd j.stream j.seq (fun c => if c.phase = .admitted then { c with phase := .started } else c)
    let s1 := s0.modUpd d (fun u => { u with parked := u.parked.erase j, queue := u.queue.erase j, ctx := [], state := .idle, part := none })
    (s1.endCmd j.stream j.seq .notCommitted (BitVec.ofNat 8 cause.code) (updResult s j)).event 0x0603 (dieCode d) cause.code

/-- The UPDATE the engine is on: in its pass 1, an access of which waits, or with its group complete. -/
def updPresent (u : Upd) : Option UpdJob :=
  match updRunning u with
  | some j => some j
  | none => u.queue.find? (fun j => u.isBegun j && j.opcode = 3)

/-- UPD_CTL.ABORT (R397, R401). -/
def State.updAbort (s : State) (d : Nat) : State :=
  match updPresent (s.updOf d) with
  | some j => s.updInterrupt d j .stopped
  | none => s
def execUpdAbort (d : Nat) (s : State) : Host.Outcome State Fault Refusal := ok (s.live (fun s => if d < 4 then s.updAbort d else s))

/-- UPD_RSCRATCH, UPD_SPAREn and UPD_CLSIZEn take effect only while the engine is idle with nothing parked or queued (R401). -/
def State.updConfig (s : State) (d off v : Nat) : State :=
  let u := s.updOf d
  if u.state ≠ .idle || !u.parked.isEmpty || !u.queue.isEmpty then s.event 0x060E (dieCode d) off
  else if off = 0x18 then
    s.modUpd d (fun u => { u with scrVal := bitAt v 63, scrAddr := BitVec.ofNat 48 (v % 2 ^ 48 / 2 ^ 21 * 2 ^ 21) })
  else if 0x100 ≤ off ∧ off < 0x140 ∧ off % 8 = 0 then
    s.modUpd d (fun u => { u with spVal := tset false u.spVal ((off - 0x100) / 8) (bitAt v 63),
                                  spAddr := tset 0 u.spAddr ((off - 0x100) / 8) (BitVec.ofNat 48 (v % 2 ^ 48 / 64 * 64)) })
  else if 0x140 ≤ off ∧ off < 0x180 ∧ off % 8 = 0 then
    s.modUpd d (fun u => { u with clsize := tset 0 u.clsize ((off - 0x140) / 8) (BitVec.ofNat 48 v) })
  else s
def execUpdConfigWrite (d off : Nat) (val : W64) (s : State) : Host.Outcome State Fault Refusal :=
  ok (s.live (fun s => if d < 4 then s.updConfig d off val.toNat else s))

/-! ## ING (14 R418, R420) -/

/-- ING_CTL.ABORT bit of an engine that runs an INGEST. -/
def State.ingAbortReq (s : State) (e : Nat) : State :=
  s.modIng e (fun g => if g.run.isSome then { g with abortReq := true } else g)

/-! ## PLK (15 R422, R424, R425, R430, R434, R438) -/

/-- RETRAINn, of a port that may train (16 R446, 17 R484). -/
def State.plkTrain (s : State) (n : Nat) : State :=
  s.modPport n (fun q => if q.enable && mayTrain s (9 + n) then { q with state := .training, lanes := 0, downAt := sinceDown s .training q.downAt } else q)
def execPlkRetrain (n : Nat) (s : State) : Host.Outcome State Fault Refusal := ok (s.live (fun s => if n < 2 then s.plkTrain n else s))

/-- Port `n` is down: the running peer entries that use it end with reason 8 (R429). -/
def State.portLost (s : State) (n : Nat) : State :=
  s.modPlk (fun k => { k with queues := k.queues.map (fun e => (e.1, { e.2 with lost := e.2.lost || e.2.links.contains (18 + 2 * n) })) })

/-- PLK_CTL.ENABLEn. -/
def State.plkEnableTo (s : State) (n : Nat) (en : Bool) : State :=
  (if !en && (s.pport n).enable then s.portLost n else s).modPport n (fun q =>
    if en == q.enable then q
    else if en && !mayTrain s (9 + n) then { q with enable := true, state := .down, lanes := 0, downAt := none }
    else if en then { q with enable := true, state := .training, lanes := 0, downAt := some s.time }
    else { q with enable := false, state := .disabled, lanes := 0, downAt := none })
def execPlkEnable (n : Nat) (en : Bool) (s : State) : Host.Outcome State Fault Refusal :=
  ok (s.live (fun s => if n < 2 then s.plkEnableTo n en else s))

/-- PLK_QTAILq (R424). -/
def State.queueTail (s : State) (q v : Nat) : State :=
  let x := s.pq q
  let sz := 2 ^ x.log2.toNat
  let old := (x.tail.toNat + sz - x.head.toNat % sz) % sz
  let new := (v + sz - x.head.toNat % sz) % sz
  if v < sz ∧ old ≤ new then s.modPq q (fun x => { x with tail := BitVec.ofNat 16 v }) else s.event 0x080A q v
def execQueueTailWrite (q : Nat) (tail : BitVec 16) (s : State) : Host.Outcome State Fault Refusal :=
  ok (s.live (fun s => if q < 16 then s.queueTail q tail.toNat else s))

/-- A word of PLK_QBELL (R425). -/
def State.queueBell (s : State) (w : Nat) : State := if bitAt w 20 then s.queueTail (fieldNat w 19 16) (fieldNat w 15 0) else s

/-- A write of PLK_QCTLq; a write of EN clears a stop (R424, R430). R424 forbids software to write LOG2 while EN is 1 and gives such a write no
effect: the model ignores it; a LOG2 outside 4 to 12 is kept as written (notes/assumptions/60.md). -/
def State.queueCtl (s : State) (q v : Nat) : State :=
  s.modPq q (fun x =>
    { x with written := true, log2 := if x.en then x.log2 else BitVec.ofNat 4 (fieldNat v 15 12), port := BitVec.ofNat 2 (fieldNat v 9 8),
             prio := BitVec.ofNat 2 (fieldNat v 5 4), en := bitAt v 0, stop := bitAt v 1 || (x.stop && !bitAt v 0) })
def execQueueStop (q : Nat) (s : State) : Host.Outcome State Fault Refusal :=
  ok (s.live (fun s => if q < 16 then s.modPq q (fun x => { x with stop := true }) else s))
def execQueueEnable (q : Nat) (val : W64) (s : State) : Host.Outcome State Fault Refusal :=
  ok (s.live (fun s => if q < 16 then s.queueCtl q val.toNat else s))

/-- PLK_QBASEq. R424 forbids software to write it while EN is 1 and gives such a write no effect: the model ignores it
(notes/assumptions/60.md). -/
def State.queueBase (s : State) (q v : Nat) : State :=
  s.modPq q (fun x => if x.en then x else { x with base := BitVec.ofNat 48 (v % 2 ^ 48 / 64 * 64) })

/-- A module made time master after its full load gives each group across modules that has no sequence its epoch, on the grid of shared time; its
members tick first there (06 R164; DEDUCED, notes/assumptions/66.md). -/
def State.masterEpochs (s : State) : State :=
  if s.frm.epoch.isNone || s.frm.period = 0 then s
  else
    let e := sharedGrid s (s.time + 2400)
    s.each ((List.range 16).filter (fun g => let x := s.group g; x.en && x.xmod && !x.hasSeq)) (fun s g =>
      (s.modGroup g (fun x => { x with hasSeq := true, next := e, index := 0 })).each (membersOf s g) (fun s p =>
        s.modPart p (fun q => { q with firstIdx := 0, next := e, joinAt := none })))

/-- PLK_TSYNC.MASTER (R433, R434). R433 gives the time master the offset 0; a module already locked keeps its shared time from going back
(06 R161), and moves its offset to 0 with its timing flits (notes/assumptions/66.md). -/
def State.setMaster (s : State) (m : Bool) : State :=
  if m && !s.plk.master then
    (s.modPlk (fun k => { k with master := true, locked := true, masterId := k.modid, hops := 0, periodBad := false })).masterEpochs
  else s.modPlk (fun k => { k with master := m })
def execTimeMasterSet (s : State) : Host.Outcome State Fault Refusal := ok (s.live (fun s => s.setMaster true))

/-! ## AUD (16 R446, R464) -/

/-- Number of channels of a die pool: d = 0 to 3 for CD0 to CD3, 4 for LD (R440). -/
def dmaTotal (d : Nat) : Nat := if d = 4 then 64 else 48
/-- Channels of a die (11 R324). -/
def chansOf (d : Nat) : List Nat := if d = 4 then (List.range 64).map (· + 192) else (List.range 48).map (· + 48 * d)
def dieOfChan (ch : Nat) : Nat := if ch < 192 then ch / 48 else 4

/-- Retrain what carries link direction `l` (R446); the bridges have no training state. -/
def State.retrainLink (s : State) (l : Nat) : State :=
  match l / 2 with
  | 8 => s.hlkDown .training
  | 9 => s.plkTrain 0
  | 10 => s.plkTrain 1
  | n => if 11 ≤ n then s.bmpTrain (n - 11) else s

/-- AUD_CTL.RECON (R446). -/
def State.reconcile (s : State) : State :=
  let t := s.aud.target.toNat
  match s.aud.pool.toNat with
  | 1 =>
    if t < 5 ∧ (chansOf t).all (fun ch => (s.chan ch).run.isNone) then
      let d := (tget {} s.aud.dma t).skew
      (s.modAud (fun a => { a with dma := tmod {} a.dma t (fun x => { x with skew := 0, frozen := false }) })).event 0x0021 (0x100 + t) d.natAbs
    else s
  | 5 =>
    if t < 30 then
      let x := tget {} s.aud.links t
      let want := x.total.toNat - x.occ.toNat - x.inflight.toNat
      let diff := ((x.free.toNat : Int) - want).natAbs
      ((s.modAud (fun a => { a with links := tmod {} a.links t (fun x => { x with free := BitVec.ofNat 16 want, held := false }) })).event 0x0021
        (0x200 + t) diff).retrainLink t
    else s
  | _ => s
def execRecon (pool : BitVec 4) (target : BitVec 5) (s : State) : Host.Outcome State Fault Refusal :=
  ok (s.live (fun s => (s.modAud (fun a => { a with pool := pool, target := target })).reconcile))

end Sys2Proof.Machine
end

