-- ==== Sys2Proof/Machine/Checks.lean ====
section
/-! DEFINITION. The checks made at admission: the command itself (09 R287 to R297), DMA chains (11 R329), shards (12 R367),
updates (13 R375), ingests (14 R417), hints (08 R258) and footprints (08 R251). -/
namespace Sys2Proof.Machine

/-- Why a command is refused: status and REASON; `none` accepts it. -/
abbrev Refuse := Option (Status × Nat)

/-- The first test that fails decides (R287). -/
def firstFail : List (Bool × Status × Nat) → Refuse
  | [] => none
  | (bad, st, r) :: l => if bad then some (st, r) else firstFail l

/-! ## DMA descriptors (11 R327 to R329) -/

/-- A two's complement number of `n` bits. -/
def sgn (n v : Nat) : Int := if v.testBit (n - 1) then (v : Int) - 2 ^ n else v

/-- One pattern of a descriptor. -/
structure Pat where
  buf    : Nat
  buflen : Nat
  off    : Nat
  stride : Int
  len    : Nat
  count  : Nat
deriving DecidableEq, Repr

def patOf (l : List Byte) : Pat :=
  { buf := bytesN l 0 6, buflen := bytesN l 6 6, off := bytesN l 0xC 6, stride := sgn 32 (bytesN l 0x12 4),
    len := bytesN l 0x16 3, count := bytesN l 0x19 3 % 2 ^ 20 }

def srcPat (l : List Byte) : Pat := patOf l
def dstPat (l : List Byte) : Pat := patOf (l.drop 0x1C)
def descNext (l : List Byte) : Nat := bytesN l 0x38 6
def descChain (l : List Byte) : Bool := bitAt (bytesN l 0x3E 2) 0

/-- The ranges of the address map (08 R232). -/
def mapRanges : List (Nat × Nat) :=
  [(0, hbmEnd), (boardBase, boardEnd), (shelfBase, shelfEnd), (storeBase, storeEnd), (regBase, regEnd), (uniBase, uniEnd),
   (hostBase, addrEnd)]

/-- `[a, a + n)` lies within one range. -/
def inOneRange (a n : Nat) : Bool := mapRanges.any (fun r => decide (r.1 ≤ a) && decide (a < r.2) && decide (a + n ≤ r.2))

/-- Lowest and highest byte of a pattern that is not empty (R329). -/
def Pat.lo (q : Pat) : Int := (q.buf : Int) + q.off + (if q.stride < 0 then ((q.count : Int) - 1) * q.stride else 0)
def Pat.hi (q : Pat) : Int :=
  (q.buf : Int) + q.off + (if q.stride < 0 then 0 else ((q.count : Int) - 1) * q.stride) + q.len - 1

def Pat.inBounds (q : Pat) : Bool :=
  q.len * q.count = 0 || (decide ((q.buf : Int) ≤ q.lo) && decide (q.hi < (q.buf : Int) + q.buflen))

def Pat.regOk (q : Pat) : Bool :=
  !(decide (regBase ≤ q.buf) && decide (q.buf < regEnd))
    || (q.buf % 4 = 0 && q.off % 4 = 0 && q.len % 4 = 0 && q.stride % 4 = 0)

/-- The checks of one descriptor, in order (R329). -/
def descCheck (l : List Byte) : Option Status :=
  let a := srcPat l
  let b := dstPat l
  if bytesN l 0x19 3 / 2 ^ 20 ≠ 0 || bytesN l 0x35 3 / 2 ^ 20 ≠ 0 || bytesN l 0x3E 2 / 2 ≠ 0 then some .badOpcode
  else if (a.len * a.count = b.len * b.count ∧ inOneRange a.buf a.buflen ∧ inOneRange b.buf b.buflen) ∧ a.inBounds ∧ b.inBounds
      ∧ a.regOk ∧ b.regOk then none
  else some .bound

/-- The place of a descriptor is legal: aligned, in the stacked tier, the board tier or host memory (R327). -/
def descPlace (a : Nat) : Bool := a % 64 = 0 && (inStacked a 64 || inBoard a 64 || (decide (hostBase ≤ a) && decide (a + 64 ≤ addrEnd)))

/-- How the reading of a chain ends (R329): at its last descriptor, at one that fails with this status at this position and address, or at
a read that the host link holds (10 R314). -/
inductive ChainEnd where
  | passes
  | fails (st : Status) (pos addr : Nat)
  | waits
deriving DecidableEq, Repr

/-- Read and check a chain from position `pos` on: the descriptors that pass, and how the reading ends (R329). -/
def dmaChain (s : State) : Nat → Nat → Nat → List (Nat × List Byte) × ChainEnd
  | 0, _, a => ([], .fails .bound 255 a)
  | fuel + 1, pos, a =>
    if !descPlace a then ([], .fails .bound pos a)
    else
      match readMem s none a 64 with
      | .error .wait => ([], .waits)
      | .error .lost => ([], .fails .hostLost pos a)
      | .error _ => ([], .fails .busError pos a)
      | .ok l =>
        match descCheck l with
        | some st => ([], .fails st pos a)
        | none => if descChain l then (let r := dmaChain s fuel (pos + 1) (descNext l); ((a, l) :: r.1, r.2)) else ([(a, l)], .passes)

/-- The chain of a DMA command. -/
def chainOf (s : State) (b : List Byte) : List (Nat × List Byte) × ChainEnd := dmaChain s 256 0 (bytesN b 8 8)

/-! ## Shards (12 R339 to R347, R367) -/

def shardOf (a : Nat) (l : List Byte) : Shard :=
  let at_ := byteAt l 0x2E
  let fl := byteAt l 0x2F
  { addr := a, id := bytesN l 4 4, step := bytesN l 8 8, set := bytesN l 0x10 8, map := bytesN l 0x18 8, vlow := bytesN l 0x20 8,
    lscale := BitVec.ofNat 32 (bytesN l 0x28 4), owner := bytesN l 0x2C 2, frozen := bitAt at_ 0, tied := bitAt at_ 1,
    tier := bitAt at_ 2, k := fieldNat at_ 5 3, summed := bitAt fl 0, zpend := bitAt fl 1, rot := byteAt l 0x30 }

def mapOf (l : List Byte) : ShMap :=
  { rows := bytesN l 0 4, cols := bytesN l 4 4, wbase := bytesN l 8 8, wbytes := bytesN l 0x10 8, gbase := bytesN l 0x18 8,
    pbase := bytesN l 0x20 8, wfmt := byteAt l 0x28, nver := byteAt l 0x29, ngrad := byteAt l 0x2A, ntie := byteAt l 0x2B,
    gclass := byteAt l 0x2C, m1 := byteAt l 0x2D, m2 := byteAt l 0x2E, cls := byteAt l 0x2F, setbytes := bytesN l 0x30 8,
    nblk := bytesN l 0x38 2 }

def ShMap.n (m : ShMap) : Nat := m.rows * m.cols
/-- Region sizes of a state set (R345). -/
def ShMap.sM (m : ShMap) : Nat := ceil64 (4 * m.n)
def ShMap.momBytes (m : ShMap) : Nat := ceil64 m.n + ceil64 (2 * ceilDiv m.n 64)
def ShMap.s1 (m : ShMap) : Nat := if m.m1 = 1 then m.momBytes else 0
def ShMap.s2 (m : ShMap) : Nat := if m.m2 = 1 then m.momBytes else if m.m2 = 2 then ceil64 (4 * (m.rows + m.cols)) else 0
def ShMap.setSize (m : ShMap) : Nat := m.sM + m.s1 + m.s2
/-- Gradient slots and their size (R346). -/
def ShMap.ties (m : ShMap) : Nat := if m.ntie = 0 then 1 else m.ntie
def ShMap.sG (m : ShMap) : Nat := ceil64 ((if m.gclass = 0 then 4 else 2) * m.n)
def ShMap.gradSlot (m : ShMap) (i j : Nat) : Nat := m.gbase + (i * m.ties + j) * m.sG
/-- Working buffers (R344, R349). -/
def bufCount (h : Shard) (m : ShMap) : Nat := if h.frozen then 1 else m.nver + 1
def workBuf (h : Shard) (m : ShMap) (v : Nat) : Nat :=
  if h.frozen then m.wbase else m.wbase + (v + h.rot) % (m.nver + 1) * m.wbytes
def ShMap.pieces (m : ShMap) : Nat := fieldNat m.wfmt 3 2 + 1
def ShMap.dual (m : ShMap) : Bool := bitAt m.wfmt 4

/-- A positive power of two in FP32 (R339, R382). -/
def isPow2 (x : F32) : Bool :=
  match f32 x with
  | .fin false m _ => m ≠ 0 && m == 2 ^ m.log2
  | _ => false

def magicIs (l : List Byte) (m : List Byte) : Bool := l.take 4 == m

/-- The fields of a header are legal by themselves (R339; R367 row 2). -/
def headerOk (l : List Byte) (h : Shard) : Bool :=
  magicIs l [0x51, 0x46, 0x53, 0x48] && decide (byteAt l 0x2E < 64) && decide (byteAt l 0x2F < 4) && isZero ((l.drop 0x31).take 15)
    && decide (h.k ≤ 4) && decide (h.rot ≤ 4) && decide (h.owner < 16384) && (!h.frozen || (h.set = 0 && h.lscale = 0))
    && h.map % 64 = 0 && inStacked h.map 128

/-- The fields of the map are legal, and the header agrees with them (R339, R342; R367 row 2). -/
def mapOk (ml : List Byte) (h : Shard) (m : ShMap) : Bool :=
  (if h.frozen then m.gbase = 0 && m.ngrad = 0
        else decide (1 ≤ m.nver) && decide (m.nver ≤ 4) && decide (1 ≤ m.ngrad) && decide (m.ngrad ≤ 5)
          && decide (m.setbytes = m.setSize) && (if m.gclass = 0 then h.lscale = 0 else isPow2 h.lscale))
    && decide (1 ≤ m.rows) && decide (m.rows ≤ 16777216) && decide (1 ≤ m.cols) && decide (m.cols ≤ 16777216)
    && m.wbase % 64 = 0 && m.wbytes % 64 = 0 && m.gbase % 64 = 0
    && decide (m.wfmt < 32) && fieldNat m.wfmt 1 0 ≠ 3 && fieldNat m.wfmt 3 2 ≠ 3
    && !(fieldNat m.wfmt 1 0 = 2 && fieldNat m.wfmt 3 2 ≠ 0)
    && m.ntie ≠ 1 && decide (m.ntie ≤ 16) && decide (m.gclass ≤ 1) && decide (m.m1 ≤ 1) && decide (m.m2 ≤ 2)
    && decide (m.cls ≤ 7) && decide (m.nblk ≤ 4096) && isZero ((ml.drop 0x3A).take 70)

/-- Read header and map: the shard, or rows 2 and 3 of R367, each as far as what has been read can tell. -/
def readShard (s : State) (a : Nat) : Except (Status × Nat) (Shard × ShMap) :=
  if a % 64 ≠ 0 || !inStacked a 64 then .error (.bound, 9)
  else
    match readMem s none a 64 with
    | .error _ => .error (.busError, 0)
    | .ok l =>
      let h := shardOf a l
      if !headerOk l h then .error (.bound, 9)
      else
        match readMem s none h.map 128 with
        | .error _ => .error (.busError, 0)
        | .ok ml => if mapOk ml h (mapOf ml) then .ok (h, mapOf ml) else .error (.bound, 9)

/-- Die of a shard header (R339). -/
def homeDie (a : Nat) : Nat := stackOf a / 4

/-- Every page of a span resolves, through the partition's table where it is unified, to a physical address that passes the test. -/
def resolvesTo (s : State) (p a n : Nat) (test : Nat → Bool) : Bool :=
  (a :: (List.range (n / pageSize + 1)).filterMap (fun i =>
    let x := (a / pageSize + i + 1) * pageSize
    if x < a + n then some x else none)).all (fun x =>
      match resolve s (some p) x false with
      | .at pa => test pa
      | _ => false)

/-- The whole span resolves to the stacked tier (R357). -/
def resolvesStacked (s : State) (p a n : Nat) : Bool := resolvesTo s p a n (fun pa => decide (pa < hbmEnd))

/-- Staleness (R353); a frozen shard's NVER is ignored (R342). -/
def staleOk (h : Shard) (m : ShMap) : Bool :=
  (if h.tier then decide (1 ≤ h.k) else h.k = 0) && (h.frozen || decide (Max.max h.k 1 ≤ m.nver))

/-- Row 6 of R367. -/
def row6 (s : State) (p op : Nat) (h : Shard) (m : ShMap) : Refuse :=
  firstFail [(op ≠ 4 && !staleOk h m, .bound, 2),
    (op = 3 && m.gclass = 0 && !resolvesStacked s p m.gbase (m.ngrad * m.ties * m.sG), .bound, 3),
    (op = 0x0B && !h.tied, .bound, 4)]

/-! ## EXPORT and IMPORT (12 R363 to R365) -/

/-- Entries of the preconditioner block table (R347). -/
structure PBlock where
  size : Nat
  axis : Nat
  rsel : Nat
  first : Nat
  addr : Nat
deriving DecidableEq, Repr

def pblockOf (l : List Byte) : PBlock :=
  { size := bytesN l 0 2, axis := byteAt l 2, rsel := byteAt l 3, first := bytesN l 4 4, addr := bytesN l 8 8 }

def PBlock.matBytes (b : PBlock) : Nat := ceil64 (4 * b.size * b.size)

/-- The block table, read through the owner partition's translation. -/
def readBlocks (s : State) (p : Nat) (m : ShMap) : Option (List PBlock) :=
  if m.nblk = 0 ∨ m.pbase = 0 then some []
  else
    match readMem s (some p) m.pbase (32 * m.nblk) with
    | .ok l => some ((List.range m.nblk).map (fun i => pblockOf (l.drop (32 * i))))
    | .error _ => none

/-- The same, where the parts named take the blocks in; no other part needs their table (R363). -/
def readBlocksIf (s : State) (p : Nat) (m : ShMap) (parts : Nat) : Option (List PBlock) := if parts.testBit 4 then readBlocks s p m else some []

/-- The shard has the part of a PARTS bit. -/
def hasPart (h : Shard) (m : ShMap) (bit : Nat) : Bool :=
  match bit with
  | 0 => true
  | 1 => !h.frozen
  | 2 => !h.frozen && m.m1 ≠ 0
  | 3 => !h.frozen && m.m2 ≠ 0
  | 4 => !h.frozen && m.nblk ≠ 0 && m.pbase ≠ 0
  | _ => !h.frozen

/-- Bytes of a part in an image (R363). -/
def partBytes (m : ShMap) (bl : List PBlock) (bit : Nat) : Nat :=
  match bit with
  | 0 => m.wbytes
  | 1 => m.sM
  | 2 => m.s1
  | 3 => m.s2
  | 4 => 32 * m.nblk + (bl.map (fun b => 3 * b.matBytes)).foldl (· + ·) 0
  | _ => m.ties * m.sG

def partsSel (parts : Nat) : List Nat := (List.range 6).filter (fun i => parts.testBit i)

/-- Offset of each selected part, and the image's length (R363: each at a multiple of 64 bytes). -/
def imageLayout (m : ShMap) (bl : List PBlock) (parts : Nat) : List (Nat × Nat × Nat) × Nat :=
  (partsSel parts).foldl (fun acc i => (acc.1 ++ [(i, acc.2, partBytes m bl i)], acc.2 + ceil64 (partBytes m bl i))) ([], 0x100)

/-- The readable version a VERSION byte names (R364, R349). -/
def versionNamed (h : Shard) (m : ShMap) (v : Nat) : Option Nat :=
  if v = 0xFF then some h.step
  else if h.frozen then (if h.step % 256 = v then some h.step else none)
  else
    (List.range 5).findSome? (fun i =>
      let n := h.step - i
      if i ≤ h.step ∧ n % 256 = v ∧ h.vlow ≤ n ∧ h.step - m.nver ≤ n then some n else none)

/-- Version `v` lies in a buffer that a command may have begun to write: the shadow buffer, and a frozen shard's one buffer, which an
IMPORT writes in place (R349, R365). -/
def versionDoubtful (h : Shard) (m : ShMap) (v : Nat) : Bool := h.frozen || (v = h.step - m.nver && decide (m.nver ≤ h.step))

/-- A version named is readable until a command begins to write its buffer: STEP − NVER while the buffer's VERSION still names it (R349),
a frozen shard's while VERSION is not all ones (R366). -/
def versionThere (s : State) (p : Nat) (h : Shard) (m : ShMap) (v : Nat) : Bool :=
  !versionDoubtful h m v
    || (match readMem s (some p) (workBuf h m v) 8 with
        | .ok l => if h.frozen then leNat l ≠ 2 ^ 64 - 1 else leNat l = v
        | .error _ => false)

def exportCheck (s : State) (p : Nat) (b : List Byte) (h : Shard) (m : ShMap) : Refuse :=
  let parts := byteAt b 0x20
  let ver := versionNamed h m (byteAt b 0x21)
  let bl := readBlocksIf s p m parts
  firstFail [(!(ver.any (fun v => versionThere s p h m v)), .bound, 5),
    ((partsSel parts).any (fun i => !hasPart h m i), .bound, 6),
    (bl.isNone, .busError, 0),
    (decide (bytesN b 0x18 8 < (imageLayout m (bl.getD []) parts).2), .bound, 7)]

/-- The head of an image at the source of an IMPORT: header, map, PARTS, VERSION, BYTES (R363). -/
def imageHead (s : State) (p a : Nat) : Except Res (List Byte) := readMem s (some p) a 0x100

/-- Block sizes and axes agree with the image's block table `l` (R365), which stands at the head of its part 4. -/
def blocksAgree (bl : List PBlock) (l : List Byte) : Bool :=
  bl.zipIdx.all (fun e => let c := pblockOf (l.drop (32 * e.2)); c.size = e.1.size && c.axis = e.1.axis)

/-- The offset of part 4 in an image that carries these parts, which the parts before it give. -/
def blocksAt (m : ShMap) (parts : Nat) : Nat := (imageLayout m [] (parts % 16)).2

/-- Only EXPORT refuses a part that the shard lacks (R364); an IMPORT finds nothing of it to write. -/
def importCheck (s : State) (p : Nat) (b : List Byte) (m : ShMap) : Refuse :=
  let a := bytesN b 0x10 8
  match imageHead s p a with
  | .error .lost => some (.hostLost, 0)
  | .error _ => some (.busError, 0)
  | .ok l =>
    let im := mapOf (l.drop 0x40)
    let carried := byteAt l 0xC0
    let bl := readBlocksIf s p m carried
    let table := if carried.testBit 4 then readMem s (some p) (a + blocksAt m carried) (32 * m.nblk) else .ok []
    let same := im.rows = m.rows ∧ im.cols = m.cols ∧ im.wbytes = m.wbytes ∧ im.wfmt = m.wfmt ∧ im.ntie = m.ntie
      ∧ im.gclass = m.gclass ∧ im.m1 = m.m1 ∧ im.m2 = m.m2 ∧ im.setbytes = m.setbytes
    firstFail [(decide (bytesN b 0x18 8 < bytesN l 0xD0 8), .bound, 7),
      (decide (¬ same) || (carried.testBit 4 && im.nblk ≠ m.nblk), .bound, 8),
      (bl.isNone, .busError, 0),
      (match table with | .error .lost => true | _ => false, .hostLost, 0),
      (match table with | .error _ => true | .ok _ => false, .busError, 0),
      (carried.testBit 4 && !blocksAgree (bl.getD []) (table.toOption.getD []), .bound, 8)]

/-! ## UPDATE (13 R375, R376, R382, R383) -/

def paramsOf (l : List Byte) : Params :=
  let f := bytesN l 4 2
  let w := fun off => BitVec.ofNat 32 (bytesN l off 4)
  { clip := bitAt f 0, precond := bitAt f 1, nesterov := bitAt f 2, biasc := bitAt f 3, sr := bitAt f 4, sq16 := bitAt f 5,
    sched := byteAt l 6, proot := byteAt l 7, lr := w 8, lrmin := w 0xC, warmup := bytesN l 0x10 4, total := bytesN l 0x14 4,
    clipnorm := w 0x18, wd := w 0x1C, beta1 := w 0x20, beta2 := w 0x24, eps := w 0x28, eps2 := w 0x2C, lsmin := w 0x30, lsmax := w 0x34,
    lsgrow := bytesN l 0x38 4, gslot := bytesN l 0x3C 2, gtimeout := bytesN l 0x3E 2, prefresh := bytesN l 0x40 4,
    piter := byteAt l 0x44, ptol := w 0x48, peps := w 0x4C, pbeta := w 0x50 }

/-- From 0 up to but not including 1. -/
def unitOk (x : F32) : Bool := fleb 0 x && fltb x fone

/-- The ranges of R382; fields that a rule does not use are not checked. -/
def paramsOk (l : List Byte) (q : Params) (rule : Nat) (classB : Bool) (m1 : Nat) : Bool :=
  magicIs l [0x51, 0x46, 0x55, 0x50] && decide (bytesN l 4 2 < 64) && isZero ((l.drop 0x45).take 3)
    && decide (q.sched ≤ 3) && (if q.precond then q.proot = 2 || q.proot = 4 else q.proot = 0)
    && fltb 0 q.lr && fleb 0 q.lrmin && fleb q.lrmin q.lr
    && !((q.sched = 1 || q.sched = 2) && decide (q.total ≤ q.warmup))
    && (!q.clip || fltb 0 q.clipnorm)
    && (rule = 0 || fleb 0 q.wd)
    && (rule = 3 && m1 = 0 || unitOk q.beta1) && (rule = 1 || unitOk q.beta2)
    && (rule ≠ 2 || fltb 0 q.eps) && (rule ≠ 3 || fltb 0 q.eps2)
    && (!classB || (isPow2 q.lsmin && isPow2 q.lsmax && fleb q.lsmin q.lsmax))
    && (!q.precond || (decide (1 ≤ q.piter) && decide (q.piter ≤ 32) && fltb 0 q.ptol && fltb 0 q.peps && fleb 0 q.pbeta && fleb q.pbeta fone))

/-- The map meets the rule's needs (R383). -/
def ruleNeeds (rule : Nat) (m : ShMap) (precond : Bool) : Bool :=
  match rule with
  | 1 | 4 => m.m1 = 1 && m.m2 = 0
  | 2 => m.m1 = 1 && m.m2 = 1
  | 3 => m.m2 = 2 && decide (64 + 4 * (m.rows + m.cols) ≤ m.wbytes) && !precond
  | _ => true

/-- The head of a statistics record (R376). -/
def statsOk (s : State) (a gslot step : Nat) : Bool :=
  a % 64 = 0 && inStacked a 64 &&
    (match readMem s none a 64 with
     | .error _ => false
     | .ok l =>
       let e := bytesN l 4 2
       magicIs l [0x51, 0x46, 0x47, 0x53] && decide (1 ≤ e) && decide (e ≤ 1024) && inStacked a (64 + 16 * e)
         && decide (gslot < e) && bytesN l 8 8 = step)

/-- Two blocks of one axis overlap (R375 8g). -/
def blocksClash : List PBlock → Bool
  | [] => false
  | b :: bs => bs.any (fun c => c.axis = b.axis && decide (b.first < c.first + c.size) && decide (c.first < b.first + b.size)) || blocksClash bs

def precondOk (s : State) (p : Nat) (m : ShMap) : Bool :=
  m.nblk ≠ 0 && m.pbase ≠ 0 &&
    (match readBlocks s p m with
     | none => false
     | some bl =>
       bl.all (fun b => decide (1 ≤ b.size) && decide (b.size ≤ 1024) && decide (b.axis ≤ 1)
         && decide (b.first + b.size ≤ (if b.axis = 0 then m.rows else m.cols)) && resolvesStacked s p b.addr (3 * b.matBytes))
         && !blocksClash bl)

/-- The engine a command runs on (R373). -/
def engineOf (b : List Byte) : Nat :=
  let op := byteAt b 0
  let e := if op = 3 then byteAt b 0x29 else if op = 0x0B then byteAt b 0x10 else 0xFF
  if e = 0xFF then homeDie (bytesN b 8 8) else e

/-- The spare lies wholly in the tier that the TIER bit names (R375 8e). -/
def spareTier (s : State) (p : Nat) (a n : Nat) (tier : Bool) : Bool :=
  resolvesTo s p a n (fun x => if tier then inBoard x 1 else inStacked x 1)

/-- Row 8 of R367 (R375). -/
def updateCheck (s : State) (p : Nat) (b : List Byte) (h : Shard) (m : ShMap) : Refuse :=
  let rule := byteAt b 0x28
  let eng := byteAt b 0x29
  let pa := bytesN b 0x18 8
  let st := bytesN b 0x30 8
  let code := bytesN b 0x10 8
  let u := s.updOf (engineOf b)
  if 4 < rule ∨ (3 < eng ∧ eng ≠ 0xFF) then some (.badOpcode, 0)
  else if pa % 64 ≠ 0 || !inStacked pa 128 then some (.bound, 0x20)
  else
    match readMem s none pa 128 with
    | .error _ => some (.busError, 0)
    | .ok l =>
      let q := paramsOf l
      firstFail [(!paramsOk l q rule (decide (m.gclass = 1)) m.m1, .bound, 0x20),
        (!ruleNeeds rule m q.precond, .bound, 0x21),
        (rule = 0 && (code = 0 || code % 8 ≠ 0 || !inStacked code 8), .bound, 0x22),
        (!tget false u.spVal m.cls || decide ((tget 0#48 u.clsize m.cls).toNat < m.setbytes)
          || !spareTier s p (tget 0#48 u.spAddr m.cls).toNat m.setbytes h.tier, .bound, 0x23),
        (st ≠ 0 && !statsOk s st q.gslot h.step, .bound, 0x24),
        (q.precond && !precondOk s p m, .bound, 0x25),
        (bytesN b 0x20 8 ≠ h.step, .stepSkew, 0),
        (h.tied && !h.summed, .tiedUnsummed, 0)]

/-- The checks of a command that names a shard (R367, after R287). -/
def shardCheck (s : State) (n p : Nat) (b : List Byte) : Refuse :=
  let op := byteAt b 0
  match readShard s (bytesN b 8 8) with
  | .error e => some e
  | .ok (h, m) =>
    if op ≠ 4 ∧ h.owner ≠ n then some (.bound, 1)
    else if (op = 3 ∨ op = 0x0B) ∧ h.frozen then some (.frozenSkipped, 0)
    else
      match row6 s p op h m with
      | some e => some e
      | none =>
        match op with
        | 3 => updateCheck s p b h m
        | 4 => exportCheck s p b h m
        | 5 => importCheck s p b m
        | _ => if 3 < byteAt b 0x10 ∧ byteAt b 0x10 ≠ 0xFF then some (.badOpcode, 0) else none

/-! ## INGEST (14 R406, R413, R417) -/

/-- A record queue's head is legal (R406). -/
def queueHeadOk (l : List Byte) : Bool :=
  magicIs l [0x51, 0x46, 0x49, 0x51] && decide (4 ≤ byteAt l 4) && decide (byteAt l 4 ≤ 16) && isZero ((l.drop 5).take 3)
    && isZero ((l.drop 0x18).take 40)

def disjoint (a n b m : Nat) : Bool := decide (a + n ≤ b) || decide (b + m ≤ a)

def maskBytes (slots : Nat) : Nat := ceil64 (4 * slots) + slots
def manifestBytes (slots : Nat) : Nat := 64 + 32 * slots

def ingestCheck (s : State) (b : List Byte) : Refuse :=
  let src := bytesN b 8 8
  let batch := bytesN b 0x10 8
  let man := bytesN b 0x18 8
  let mask := bytesN b 0x20 8
  let sz := bytesN b 0x28 4
  let slots := bytesN b 0x2C 2
  let pool := bytesN b 0x30 8
  let roi := bytesN b 0x38 8
  let qPlace := fun a => a % 64 = 0 && inStacked a 64
  let head := fun a => readMem s none a 64
  let bad := fun (r : Except Res (List Byte)) => match r with | .ok _ => false | .error _ => true
  let qOk := fun a => match head a with | .ok l => queueHeadOk l | .error _ => true
  let spans := [(batch, slots * sz), (mask, maskBytes slots), (man, manifestBytes slots)]
  firstFail [(decide (3 < byteAt b 0x2E) || slots = 0 || decide (4096 < slots) || sz = 0 || sz % 64 ≠ 0 || decide (16777216 < sz), .bound, 1),
    (!spans.all (fun x => x.1 % 64 = 0 && inOneRange x.1 x.2) || !disjoint batch (slots * sz) mask (maskBytes slots)
      || !disjoint batch (slots * sz) man (manifestBytes slots) || !disjoint mask (maskBytes slots) man (manifestBytes slots), .bound, 2),
    (!qPlace src || (pool ≠ 0 && !qPlace pool) || pool = src || !qOk src || (pool ≠ 0 && !qOk pool), .bound, 3),
    (roi ≠ 0 && (roi % 64 ≠ 0 || !inStacked roi 64 ||
      (match head roi with
       | .error _ => false
       | .ok l =>
         let st := bytesN l 4 4
         !magicIs l [0x51, 0x46, 0x52, 0x49] || st % 64 ≠ 0 || decide (st < 64) || decide (262144 < 64 + slots * st)
           || !inStacked roi (64 + slots * st))), .bound, 4),
    (bad (head src) || (pool ≠ 0 && bad (head pool)) || (roi ≠ 0 && bad (head roi)), .busError, 5)]

/-! ## RUN footprints (08 R251) -/

def programOf (s : State) (p prog : Nat) : Option Program := (s.part p).programs.find? (fun x => x.prog = prog)

/-- The footprint list of a program. -/
def footprint (s : State) (g : Program) : List (Nat × Bool) :=
  (List.range g.footprint).map (fun i => footEntry (s.rdN (g.fplist + 4 * i) 4))

/-- A page occurs twice. -/
def repeats : List (Nat × Bool) → Bool
  | [] => false
  | e :: l => l.any (fun x => x.1 = e.1) || repeats l

def footprintOk (s : State) (p : Nat) (pinned : Bool) (g : Program) : Bool :=
  let l := footprint s g
  !repeats l && l.all (fun e =>
    match readLeaf s p e.1 with
    | some x => x.state ≠ 0 && x.state < 8 && (!pinned || x.stay)
    | none => false)

/-! ## Every command (09 R285 to R297) -/

/-- Reserved opcode, FLAGS bit or payload field (R287). -/
def reservedField (b : List Byte) : Bool :=
  let z := fun off n => !isZero ((b.drop off).take n)
  fieldNat (byteAt b 1) 6 1 ≠ 0 ||
    (match byteAt b 0 with
     | 0 => z 8 56
     | 1 => z 9 7
     | 2 => decide (3 < byteAt b 0x11) || z 0x12 46
     | 3 => z 0x2A 6 || z 0x38 8
     | 4 | 5 => decide (63 < byteAt b 0x20) || z 0x22 30
     | 6 => (hintOf ((b.drop 8).take 32)).rsv || z 0x28 24
     | 7 => z 8 56
     | 8 => z 0x18 40
     | 9 => z 0x1A 38
     | 0xA => decide (1 < byteAt b 0x18) || z 0x19 39
     | 0xB => z 0x11 47
     | 0xC => decide (3 < byteAt b 0x2F) || byteAt b 0x2F % 4 = 3
     | _ => true)

/-- The counter of SIGNAL and WAIT (R294). -/
def counterOk (a : Nat) : Bool := a % 8 = 0 && inStacked a 8

/-- The admission check of a command of stream `n` of partition `p` (R287); a DMA chain was checked at the fetch (11 R329),
and so were the heads that an INGEST names (14 R417). -/
def admitCheck (s : State) (n p : Nat) (f : Fetched) : Refuse :=
  let b := f.bytes
  if reservedField b then some (.badOpcode, 0)
  else
    match byteAt b 0 with
    | 1 =>
      match programOf s p (byteAt b 8) with
      | none => some (.bound, 0)
      | some g => if footprintOk s p (s.stream n).pinned g then none else some (.bound, 0)
    | 2 => f.refuse
    | 3 | 4 | 5 | 0xB => shardCheck s n p b
    | 6 =>
      let h := hintOf ((b.drop 8).take 32)
      if h.op = 0 ∨ 7 < h.op then some (.badOpcode, 0)
      else if hintBoundOk s p h && decide (h.count ≤ 65536) then none else some (.bound, 0)
    | 8 => if counterOk (bytesN b 8 8) && bytesN b 0x18 2 = 0 then none else some (.bound, 0)
    | 9 => if !counterOk (bytesN b 8 8) then some (.bound, 0) else if locate s (bytesN b 8 8) == .mem then none else some (.busError, 0)
    | 0xC => f.refuse
    | _ => none

/-- A read that a command's checks make: the partition whose table translates it, address, length, and the outcome where it fails. -/
structure CheckRead where
  part : Option Nat
  addr : Nat
  len  : Nat
  out  : Status × Nat
deriving DecidableEq, Repr

/-- The reads of the checks of a command that names a shard. -/
def shardReads (s : State) (p : Nat) (b : List Byte) (h : Shard) (m : ShMap) : List CheckRead :=
  let st := bytesN b 0x30 8
  let table := fun out => if m.nblk = 0 ∨ m.pbase = 0 then [] else [(⟨some p, m.pbase, 32 * m.nblk, out⟩ : CheckRead)]
  match byteAt b 0 with
  | 3 => ⟨none, bytesN b 0x18 8, 128, (.busError, 0)⟩ :: (if st = 0 then [] else [⟨none, st, 64, (.bound, 0x24)⟩]) ++ table (.bound, 0x25)
  | 4 => (if (byteAt b 0x20).testBit 4 then table (.busError, 0) else []) ++ (match versionNamed h m (byteAt b 0x21) with
      | some v => if versionDoubtful h m v then [⟨some p, workBuf h m v, 8, (.bound, 5)⟩] else []
      | none => [])
  | 5 =>
    let a := bytesN b 0x10 8
    ⟨some p, a, 0x100, (.busError, 0)⟩ :: (match imageHead s p a with
      | .ok l => if (byteAt l 0xC0).testBit 4 then
          table (.busError, 0) ++ [⟨some p, a + blocksAt m (byteAt l 0xC0), 32 * m.nblk, (.busError, 0)⟩] else []
      | .error _ => [])
  | _ => []

/-- The reads that the checks of a command make, in their order (R287). -/
def checkReads (s : State) (p : Nat) (b : List Byte) : List CheckRead :=
  let a := bytesN b 8 8
  match byteAt b 0 with
  | 3 | 4 | 5 | 0xB =>
    ⟨none, a, 64, (.busError, 0)⟩ :: (match readMem s none a 64 with
      | .error _ => []
      | .ok l => let h := shardOf a l
        ⟨none, h.map, 128, (.busError, 0)⟩ :: (match readMem s none h.map 128 with
          | .error _ => []
          | .ok ml => shardReads s p b h (mapOf ml)))
  | 9 => [⟨none, a, 8, (.busError, 0)⟩]
  | _ => []

/-- The heads that an INGEST names, read with its fetch (14 R417). -/
def headReads (b : List Byte) : List Nat := bytesN b 8 8 :: [bytesN b 0x30 8, bytesN b 0x38 8].filter (fun x => x ≠ 0)

/-- The read whose failure refuses a command with `e`: its partition context, what it met, and where. -/
def checkStop (s : State) (p : Nat) (b : List Byte) (e : Status × Nat) : Option (Option Nat × Res × Nat) :=
  (checkReads s p b).findSome? (fun x => if x.out = e then (firstStop s x.part x.addr x.len).map (fun y => (x.part, y)) else none)

/-- A read of the checks waits, on a page in motion or for the host link (08 R244, 10 R314): the command waits at its stream's head
(DEDUCED, notes/assumptions/66.md). -/
def checkWaits (s : State) (p : Nat) (b : List Byte) (e : Status × Nat) : Bool :=
  match checkStop s p b e with
  | some (_, .wait, _) => true
  | _ => false

/-- What a refusal at admission records besides code 0x0305 (08 R233; 11 R338, 12 R368, 13 R402). -/
def State.refusalEvents (s : State) (n p : Nat) (b : List Byte) (e : Status × Nat) : State :=
  let s0 := match checkStop s p b e with | some (q, .bus, a) => s.noLocation q a | _ => s
  let s1 := s0.event 0x0305 n e.1.code
  let id := match readShard s (bytesN b 8 8) with | .ok (h, _) => h.id | .error _ => 0
  match byteAt b 0, e with
  | 2, (.badOpcode, r) | 2, (.bound, r) | 2, (.busError, r) | 2, (.hostLost, r) => if reservedField b then s1 else s1.event 0x0502 (byteAt b 0x10) r
  | 3, (.frozenSkipped, _) | 0xB, (.frozenSkipped, _) => s1.event 0x0620 p n
  | 3, (.tiedUnsummed, _) => s1.event 0x0621 p id
  | 3, (.stepSkew, _) => s1.event 0x0602 (dieCode (engineOf b)) (bytesN b 0x20 8 % 2 ^ 32)
  | 3, (.bound, 1) | 5, (.bound, 1) | 0xB, (.bound, 1) => s1.event 0x0622 p n
  | _, _ => s1

end Sys2Proof.Machine
end

