-- ==== Sys2Proof/Machine/Routes.lean ====
section
/-! DEFINITION. Static routes over the die meshes and bridges (01 R14, R17, R22, R23; 07 R195 to R198, R495). -/
namespace Sys2Proof.Machine

/-! ## Endpoints and segments (R196) -/

inductive Endpoint where
  | cluster (g : Nat)
  | stack (h : Nat)
  | ld
deriving DecidableEq, Repr

def endpointOf (code : Nat) : Option Endpoint :=
  if code < 0x280 then some (.cluster code)
  else if 0x300 ≤ code ∧ code < 0x310 then some (.stack (code - 0x300))
  else if code = 0x380 then some .ld
  else none

/-- One segment of a route record. -/
structure Seg where
  die  : Nat
  yx   : Bool
  xout : Nat
  yout : Nat
  exit : Nat
  xin  : Nat
  rsv  : Bool
deriving DecidableEq, Repr

def segOf (w : BitVec 32) : Seg :=
  let v := w.toNat
  { die := fieldNat v 31 30, yx := bitAt v 29, xout := fieldNat v 28 25, yout := fieldNat v 24 21, exit := fieldNat v 20 18,
    xin := fieldNat v 17 14, rsv := decide (fieldNat v 13 0 ≠ 0) }

/-- Global cluster number of a router (R17). -/
def routerAt (d x y : Nat) : Nat := 160 * d + 16 * y + x
def xOf (g : Nat) : Nat := g % 160 % 16
def yOf (g : Nat) : Nat := g % 160 / 16

/-- Die that the east or west port of a die reaches, and the bridge crossed: 0 B01, 1 B13, 2 B32, 3 B20, 4 to 7 BL0 to BL3 (R14, R197). -/
def eastOf (d : Nat) : Nat × Nat := match d with | 0 => (1, 0) | 1 => (3, 1) | 3 => (2, 2) | _ => (0, 3)
def westOf (d : Nat) : Nat × Nat := match d with | 0 => (2, 3) | 1 => (0, 0) | 3 => (1, 1) | _ => (3, 2)

def dieOf : Endpoint → Option Nat
  | .cluster g => some (g / 160)
  | .stack h => some (h / 4)
  | .ld => none

/-! ## What a record must meet (R495) -/

/-- The last segment reaches the destination. -/
def reaches (dst : Endpoint) (g : Seg) : Bool :=
  match dst with
  | .ld => g.exit = 3 && g.yout = 9
  | .cluster n => g.exit = 0 && g.die = n / 160 && g.xout = xOf n && g.yout = yOf n
  | .stack h => g.exit = 0 && g.die = h / 4 && g.yout = 0 && g.xout / 4 = h % 4

/-- How a segment is entered: from LD, or on a given die. -/
inductive Entry where
  | fromLd
  | on (die : Nat)
deriving DecidableEq, Repr

def entryOk (e : Entry) (g : Seg) : Bool :=
  decide (g.yout < 10) && !g.rsv && (match e with | .fromLd => true | .on d => g.die = d && g.xin = 0)

/-- Where a segment that is not the last leads, if its router carries that port. -/
def leavesTo (g : Seg) : Option Entry :=
  match g.exit with
  | 1 => if g.xout = 0 then some (.on (westOf g.die).1) else none
  | 2 => if g.xout = 15 then some (.on (eastOf g.die).1) else none
  | 3 => if g.yout = 9 then some .fromLd else none
  | _ => none

def segsOk (dst : Endpoint) : Entry → List Seg → Bool
  | _, [] => false
  | e, [g] => entryOk e g && reaches dst g
  | e, g :: l => entryOk e g && (match leavesTo g with | some e' => segsOk dst e' l | none => false)

/-- A route record leads from its source to its destination (R495). -/
def routeOk (r : Route) : Bool :=
  match endpointOf r.src, endpointOf r.dst with
  | some src, some dst =>
    segsOk dst (match dieOf src with | some d => .on d | none => .fromLd) (r.segs.map segOf)
  | _, _ => false

/-! ## What a route crosses (R22, R198) -/

/-- Numbers from `a` to `b`, either way. -/
def span (a b : Nat) : List Nat := if a ≤ b then (List.range (b - a + 1)).map (· + a) else (List.range (a - b + 1)).map (· + b)

/-- Routers of a leg within one die. -/
def leg (d : Nat) (yx : Bool) (x1 y1 x2 y2 : Nat) : List Nat :=
  if yx then (span y1 y2).map (routerAt d x1) ++ (span x1 x2).map (fun x => routerAt d x y2)
  else (span x1 x2).map (fun x => routerAt d x y1) ++ (span y1 y2).map (routerAt d x2)

/-- Routers and bridges a flit meets. -/
structure Crossing where
  routers : List Nat := []
  bridges : List Nat := []
deriving DecidableEq, Repr

def Crossing.add (c : Crossing) (r b : List Nat) : Crossing := { routers := c.routers ++ r, bridges := c.bridges ++ b }

/-- Router of an endpoint; a stack's one of four is the implementation's. -/
def routerOf (e : Endpoint) (other : Nat) : Nat × Nat × Nat :=
  match e with
  | .cluster g => (g / 160, xOf g, yOf g)
  | .stack h => (h / 4, 4 * (h % 4) + Config.attach other h % 4, 0)
  | .ld => (0, 0, 9)

/-- Follow the segments of a record from a router. -/
def follow : Nat → Nat → List Seg → Crossing → Crossing
  | _, _, [], c => c
  | x, y, g :: l, c =>
    let c1 := c.add (leg g.die g.yx x y g.xout g.yout) []
    match g.exit with
    | 1 => follow 15 g.yout l (c1.add [] [(westOf g.die).2])
    | 2 => follow 0 g.yout l (c1.add [] [(eastOf g.die).2])
    | 3 => follow (match l with | n :: _ => n.xin | [] => 0) 9 l
        (c1.add [] ((4 + g.die) :: (match l with | n :: _ => [4 + n.die] | [] => [])))
    | _ => c1

def crossingOf (r : Route) : Crossing :=
  let gs := r.segs.map segOf
  match endpointOf r.src, gs with
  | some .ld, g :: _ => follow g.xin 9 gs { bridges := [4 + g.die] }
  | some e, _ => let p := routerOf e r.dst; follow p.2.1 p.2.2 gs {}
  | none, _ => {}

/-- Cross from a die to a neighbour along row `y`: routers, bridge, and where the flit lands. -/
def cross (d e x y : Nat) : List Nat × List Nat × Nat :=
  if (eastOf d).1 = e then ((span x 15).map (fun i => routerAt d i y), [(eastOf d).2], 0)
  else ((span 0 x).map (fun i => routerAt d i y), [(westOf d).2], 15)

/-- The default route (R198). -/
def defaultRoute (src dst : Endpoint) (srcCode dstCode : Nat) : Crossing :=
  let a := routerOf src dstCode
  let b := routerOf dst srcCode
  match src, dst with
  | .ld, .ld => {}
  | .ld, _ => { routers := (span b.2.2 9).map (routerAt b.1 b.2.1), bridges := [4 + b.1] }
  | _, .ld => { routers := (span a.2.2 9).map (routerAt a.1 a.2.1), bridges := [4 + a.1] }
  | _, _ =>
    let (d, x, y) := a
    let (e, u, v) := b
    if d = e then { routers := leg d false x y u v }
    else if (eastOf d).1 = e ∨ (westOf d).1 = e then
      let c := cross d e x y
      { routers := c.1 ++ leg e false c.2.2 y u v, bridges := c.2.1 }
    else
      let m := if d = 0 ∨ d = 3 then 1 else 0
      let c := cross d m x y
      let c2 := cross m e c.2.2 y
      { routers := c.1 ++ c2.1 ++ leg e false c2.2.2 y u v, bridges := c.2.1 ++ c2.2.1 }

/-- The route a partition's traffic takes between two endpoints (R195, R198). -/
def routeFor (s : State) (p src dst : Nat) : Crossing :=
  let hit := fun (r : Route) => r.src = src && r.dst = dst
  match (s.part p).routes.find? hit, s.cfg.routes.find? hit with
  | some r, _ | none, some r => crossingOf r
  | none, none =>
    match endpointOf src, endpointOf dst with
    | some a, some b => defaultRoute a b src dst
    | _, _ => {}

/-- Every route of a partition, by record or by default: between any two of its clusters, the sixteen stacks and LD
(R195, R227; notes/assumptions/51.md). -/
def partRoutes (s : State) (p : Nat) : List Crossing :=
  let ends := (s.part p).clusters ++ (List.range 16).map (· + 0x300) ++ [0x380]
  ends.flatMap (fun a => (ends.filter (· ≠ a)).map (routeFor s p a))

/-- Some route of the partition crosses the router, the bridge. -/
def usesRouter (s : State) (p g : Nat) : Bool := (partRoutes s p).any (fun c => c.routers.contains g)
def usesBridge (s : State) (p b : Nat) : Bool := (partRoutes s p).any (fun c => c.bridges.contains b)

end Sys2Proof.Machine
end

