-- ==== Sys2Proof/Machine/Links.lean ====
section
/-! DEFINITION. Link credits: the directions of bridges and ports that an access crosses, and the credits of what is in flight there (01 R24; 15
R431; 16 R440, R464). -/
namespace Sys2Proof.Machine

/-- Where a physical address lies, as traffic reaches it: a cluster, 0x300 + stack, LD, the host link, or a board port (01 R13 to R15). -/
def placeOf (pa : Nat) : Nat :=
  if pa < hbmEnd then 0x300 + stackOf pa
  else if shelfBase ≤ pa ∧ pa < shelfEnd then (pa - shelfBase) / 0x400000
  else if storeBase ≤ pa ∧ pa < storeEnd then (pa - storeBase) / 0x200000
  else if boardBase ≤ pa ∧ pa < boardEnd then 0x382 + (pa - boardBase) / pageSize / portFrames
  else if hostBase ≤ pa then 0x381
  else 0x380

/-- Die of a place: 4 for LD and what lies behind its ports. -/
def placeDie (x : Nat) : Nat := if x < 0x300 then x / 160 else if x < 0x380 then (x - 0x300) / 4 else 4

/-- The dies a bridge joins, in the order of its name (01 R14). -/
def bridgeEnds (b : Nat) : Nat × Nat :=
  match b with
  | 0 => (0, 1)
  | 1 => (1, 3)
  | 2 => (3, 2)
  | 3 => (2, 0)
  | n => (4, n - 4)

/-- Directions of the bridges a flit crosses from die `d` on, numbered as AUD_LINKl (16 R464). -/
def directions : Nat → List Nat → List Nat
  | _, [] => []
  | d, b :: l => let e := bridgeEnds b; if e.1 = d then 2 * b :: directions e.2 l else (2 * b + 1) :: directions e.1 l

/-- The direction of the port between LD and a place behind it. -/
def portDirection (x : Nat) (out : Bool) : List Nat :=
  if x = 0x381 then [16 + b2n (!out)] else if 0x382 ≤ x then [22 + 2 * (x - 0x382) + b2n (!out)] else []

/-- Link directions that the data of an access of a core of cluster `g` crosses: to the place for a write, from it for a read. -/
def accessLinks (s : State) (p g x : Nat) (write : Bool) : List Nat :=
  let y := Min.min x 0x380
  if write then directions (dieOfCluster g) (routeFor s p g y).bridges ++ portDirection x true
  else portDirection x false ++ directions (placeDie x) (routeFor s p y g).bridges

/-- Credits of a direction in flight: one for each move and each peer entry that crosses it (DEDUCED, notes/assumptions/72.md). -/
def linkBusy (s : State) (l : Nat) : Nat :=
  (s.cores.map (fun e => ((e.2.fetches ++ e.2.drains).filter (fun m => m.links.contains l)).length)).sum
    + (s.plk.queues.filter (fun e => e.2.links.contains l)).length

/-- Sender credits left: those free with nothing in flight, less those in flight (01 R24). -/
def linkFree (s : State) (l : Nat) : Nat := (tget {} s.aud.links l).free.toNat - linkBusy s l

/-- A sender that needs a credit of each of these directions has it; without one it stalls (01 R24). -/
def creditsFree (s : State) (ls : List Nat) : Bool := ls.all (fun l => decide (0 < linkFree s l))

end Sys2Proof.Machine
end

