-- ==== Sys2Proof/Machine/Regs.lean ====
section
/-! DEFINITION. The register space (00 R7 to R11): what every register reads as, and what a write to it does. A die is given by
its index: 0 to 3 for CD0 to CD3, 4 for LD. -/
namespace Sys2Proof.Machine

/-! ## Layout (00 R7, R8) -/

/-- Die of a register address, and the offset within the die. -/
def regDie (a : Nat) : Nat := let k := (a - regBase) / 0x1000000; if k = 0 then 4 else k - 1
def regBlock (a : Nat) : Nat := (a - regBase) % 0x1000000 / 0x10000
def regOff (a : Nat) : Nat := (a - regBase) % 0x10000

/-- The block is present on the die (each block's own rule), and the register is none that R337 puts under R9. -/
def regPresent (d b off : Nat) : Bool :=
  match b with
  | 0 | 1 | 0xC => true
  | 5 => decide (off < 0x1000) || decide ((off - 0x1000) / 0x20 < dmaTotal d)
  | 4 | 6 => d ≠ 4
  | _ => d = 4 && decide (b < 0xE)

/-- Index of a register array of stride `st` and `n` members that starts at `base`. -/
def regIdx (off base st n : Nat) : Option Nat :=
  if base ≤ off ∧ (off - base) / st < n then some ((off - base) / st) else none

/-- A field of `w` bits at bit `lo`. -/
def fld (lo w v : Nat) : Nat := v % 2 ^ w * 2 ^ lo

/-! ## Reads -/

def readMgt (s : State) (d off : Nat) : Nat :=
  let m := s.mgtOf (dieCode d)
  match off with
  | 0x00 => 0x1152 * 2 ^ 48 + 2 ^ 40 + dieCode d * 2 ^ 32
  | 0x08 => m.idfp.toNat
  | 0x10 => fld 48 16 m.breaks.toNat + fld 3 1 (b2n m.ccwOk) + fld 2 1 (b2n m.cwOk)
  | 0x18 => if d = 4 then 0 else
      fld 32 8 (s.parts.filter (fun e => e.2.defined && decide (e.2.home = d))).length + b2n m.alive
  | 0x20 => fld 63 1 (b2n m.errVal) + m.errAddr.toNat
  | _ => match regIdx off 0x40 8 4 with | some n => (tget 0 m.scratch n).toNat | none => 0

def PState.code : PState → Nat
  | .idle => 0 | .running => 1 | .late => 2 | .halted => 3 | .drained => 4 | .down => 5

/-- A partition's registers lie on its home die. -/
def homedHere (s : State) (d p : Nat) : Bool := (s.part p).defined && decide ((s.part p).home = d)

def readFrmLd (s : State) (off : Nat) : Nat :=
  match off with
  | 0x00 => s.time % 2 ^ 64
  | 0x08 => s.frm.period.toNat
  | 0x10 => s.frm.cal.toNat
  | 0x18 => s.frm.calTb.toNat
  | 0x20 => [0, 1, 2, 3].foldl (fun a d => a + fld (4 * d) 4 (tget 0 s.frm.throt d).toNat) 0
  | _ =>
    match regIdx off 0x40 8 4 with
    | some n => (List.range 16).foldl (fun a j =>
        let q := s.part (16 * n + j)
        a + (if q.defined then fld (4 * j) 4 (8 + q.home % 4) else 0)) 0
    | none =>
      match regIdx off 0x100 0x20 16 with
      | none => 0
      | some g =>
        let x := s.group g
        match off % 0x20 with
        | 0x00 => 2 * b2n x.xmod + b2n x.en
        | 0x08 => x.next % 2 ^ 64
        | 0x10 => fld 48 16 x.skew.toNat + fld 32 4 x.level.toNat + (x.index - 1) % 2 ^ 32
        | _ => 0

def readFrmPart (q : Part) (r : Nat) : Nat :=
  match r with
  | 0x00 => fld 23 1 (b2n q.locked) + fld 19 4 q.lgrp.toNat + fld 8 8 q.mult.toNat
  | 0x08 => fld 8 9 q.admitted.toNat + fld 4 2 q.consec + q.state.code
  | 0x10 => q.next % 2 ^ 64
  | 0x18 => q.frame.toNat
  | 0x20 => fld 32 32 q.halts.toNat + q.overruns.toNat
  | 0x28 => fld 32 32 q.slackMin.toNat + q.slackLast.toNat
  | 0x30 => fld 32 4 q.gapLevel.toNat + q.gap.toNat
  | _ => 0

def readFrm (s : State) (d off : Nat) : Nat :=
  if d = 4 then readFrmLd s off
  else match regIdx off 0x1000 0x40 64 with
    | some p => if homedHere s d p then readFrmPart (s.part p) (off % 0x40) else 0
    | none => 0

def LoadPhase.code : LoadPhase → Nat
  | .idle => 0 | .verify => 1 | .wait => 2 | .drain => 3 | .apply => 4 | .done => 5 | .failed => 6
def RepairPhase.code : RepairPhase → Nat
  | .idle => 0 | .waitTick => 1 | .copy => 2 | .apply => 3 | .done => 4 | .failed => 5
def ClState.code : ClState → Nat
  | .unassigned => 0 | .assigned => 1 | .spare => 2 | .drained => 3 | .loading => 4 | .failed => 5 | .routerFault => 6
def PortState.code : PortState → Nat
  | .down => 0 | .training => 1 | .up => 2 | .upHalf => 3 | .disabled => 4

/-- First 8 bytes of the SM3 digest of a key. -/
def keyFp (k : BitVec 512) : Nat := leNat ((sm3 (leBytes 64 k.toNat).reverse).take 8)

def readCfg (s : State) (off : Nat) : Nat :=
  let c := s.cfg
  match off with
  | 0x00 => fld 1 1 (b2n c.force)
  | 0x08 => c.src.toNat
  | 0x10 => c.len.toNat
  | 0x18 => fld 56 8 c.status.code + fld 48 8 c.reason.toNat + fld 40 8 c.part.toNat + fld 36 4 (loadPhase s).code
      + fld 32 4 (waitingLoads s) + c.offset.toNat
  | 0x28 => fld 32 10 c.rprSpare.toNat + fld 16 10 c.rprClus.toNat
  | 0x30 => fld 56 8 c.rprStatus.code + fld 52 4 c.rprPhase.code + fld 51 1 (b2n c.rprLost) + fld 50 1 (b2n c.rprFailed)
      + fld 38 10 c.rprOld.toNat + fld 28 10 c.rprNew.toNat + c.rprLines.toNat
  | 0x38 => [0, 1, 2, 3].foldl (fun a d => a + fld (8 * d) 8 (freeSpares s d).length) 0
  | 0x40 => fld 63 1 (b2n c.rtfVal) + c.rtfRouter.toNat
  | 0x48 => fld 32 32 c.recSeq + fld 0 16 c.repRec.length
  | _ =>
    match regIdx off 0x80 8 4, regIdx off 0x200 8 64, regIdx off 0x1000 8 640 with
    | some n, _, _ => (match tget none c.keys n with | some k => keyFp k | none => 0)
    | none, some p, _ => (s.part p).serial.toNat
    | none, none, some g =>
      let x := s.cluster g
      fld 32 16 x.parity.toNat + (if x.state == .assigned then fld 8 6 x.part.toNat else 0) + x.state.code
    | none, none, none => 0

def readStm (s : State) (off : Nat) : Nat :=
  let m := s.stm
  let n := fun (f : Nat × Stream → Bool) => (m.streams.filter f).length
  match off with
  | 0x00 => m.tableBase.toNat
  | 0x08 => m.argBase.toNat
  | 0x18 => fld 56 8 m.status.code + fld 16 14 m.stream.toNat
  | 0x20 => m.sinfo.toNat
  | 0x28 => fld 33 15 (n (fun e => e.2.state != .idle)) + fld 24 9 (n (fun e => e.2.pinned && e.2.state != .idle))
      + fld 12 12 (n (fun e => decide (0 < e.2.cached))) + fld 0 12 (n (fun e => decide (0 < e.2.cached) && heldEntry e.2))
  | _ => match regIdx off 0x1000 8 512 with
    | some k => (List.range 32).foldl (fun a j => a + fld (2 * j) 2 (s.stream (32 * k + j)).state.summary) 0
    | none => 0

/-- The stacks are trained: stage HBM is over (17 R485). -/
def hbmTrained (s : State) : Bool := s.pwr.stage == .links || s.pwr.stage == .ready || s.pwr.stage == .running

/-- Free stacked frames on the four stacks of a die (08 R266); none before the stacks are trained, so that the field resets to 0. -/
def freeStackedOn (s : State) (d : Nat) : Nat :=
  if !hbmTrained s then 0 else
  let out := ((s.migOf d).retired.filter (fun e => e.2.isSome)).length
  let usable := fun f => decide (f / stackFrames / 4 = d) && !pchRetired s (f / stackFrames) (pchOf f)
  let boot := (bootInForce s).flatMap (fun a => (List.range 16).map (fun i => a / pageSize + i))
  147456 - 1152 * out - (s.sAlloc.filter (fun e => usable e.1)).length
    - (boot.filter (fun f => usable f && tget 0 s.sAlloc f == 0)).length

/-- Free present board frames of a port (08 R266). -/
def freeBoardOn (s : State) (n : Nat) : Nat :=
  if boardPresent s (n * portFrames) then
    (s.bmpOf n).frames.toNat - (s.bAlloc.filter (fun e => e.1 / portFrames = n)).length
  else 0

def readMemBlock (s : State) (d off : Nat) : Nat :=
  let m := s.migOf d
  match off with
  | 0x00 => fld 8 5 m.pch.toNat + fld 4 2 m.stack.toNat
  | 0x08 => fld 48 13 m.dlist.length + fld 44 4 m.running.length + fld 0 32 m.waiting.length
  | 0x10 => fld 32 21 (freeBoardOn s d) + fld 0 18 (freeStackedOn s d)
  | 0x18 => (List.range 64).foldl (fun a i => a + fld i 1 (b2n (tget none m.retired i).isSome)) 0
  | 0x20 => (List.range 64).foldl (fun a i => a + fld i 1 (b2n (tget none m.retired (64 + i)).isSome)) 0
  | _ =>
    match regIdx off 0x1000 0x40 64, regIdx off 0x4000 0x80 64 with
    | some p, _ =>
      let q := s.part p
      if !homedHere s d p then 0
      else match off % 0x40 with
        | 0x00 => fld 16 1 (b2n q.mode) + q.stackMask.toNat
        | 0x08 => q.ptBase.toNat
        | 0x10 => fld 32 32 q.boardQuota + fld 0 32 q.hbmQuota
        | 0x18 => fld 32 32 q.puseB.toNat + q.puseH.toNat
        | 0x20 => fld 32 32 q.refused.toNat + q.deferred.toNat
        | 0x28 => fld 32 32 q.lateMax.toNat + q.lateCnt.toNat
        | _ => 0
    | none, some p => if homedHere s d p then (tget 0 (s.part p).lateHist (off % 0x80 / 8)).toNat else 0
    | none, none => 0

/-- The command that a channel runs: one that has completed keeps the staging buffer only (11 R325, R326). -/
def Chan.running (c : Chan) : Option DmaRun := c.run.filter (fun r => !r.done)

/-- DMA_CSTATi.STATE of a channel of die `d` (11 R337); it waits for beats while a channel of a higher level has some (11 R333). -/
def chanState (s : State) (d : Nat) (c : Chan) : Nat :=
  match c.running with
  | none => 0
  | some r =>
    if r.stopReq then 3
    else if r.failAt.isSome then 4
    else if r.ready && (chansOf d).any (fun ch => (s.chan ch).run.any (fun q => q.ready && decide (q.prio < r.prio))) then 2
    else 1

def chanOfLocal (d i : Nat) : Nat := if d = 4 then 192 + i else 48 * d + i

def readDma (s : State) (d off : Nat) : Nat :=
  match off with
  | 0x00 => (s.dmaOf d).retryLimit.toNat
  | 0x08 => fld 32 16 (s.dmaOf d).retries.toNat + fld 8 7 (tget {} s.aud.dma d).held
      + fld 0 7 ((chansOf d).filter (fun ch => (s.chan ch).running.isSome)).length
  | _ =>
    match regIdx off 0x1000 0x20 (dmaTotal d) with
    | none => 0
    | some i =>
      let c := s.chan (chanOfLocal d i)
      match off % 0x20 with
      | 0x08 =>
        fld 56 8 c.last.code + (match c.running with | some r => fld 48 8 r.pos + fld 34 14 r.stream + fld 32 2 r.prio.toNat | none => 0)
          + fld 4 28 (Min.min c.queue.length 0x0FFFFFFF) + chanState s d c
      | 0x10 => fld 63 1 (b2n c.errVal) + c.errAddr.toNat
      | 0x18 => c.bytes.toNat
      | _ => 0

def EngState.code : EngState → Nat
  | .idle => 0 | .pass1 => 1 | .pass2 => 2 | .convert => 3 | .post => 4 | .refresh => 5 | .other => 6

def readUpd (s : State) (d off : Nat) : Nat :=
  let u := s.updOf d
  match off with
  | 0x08 => fld 60 4 u.state.code + fld 32 11 (u.parked.filter (fun j => !u.isBegun j)).length
      + fld 0 32 (u.queue.filter (fun j => !u.isBegun j)).length
  | 0x10 => u.ilimit.toNat
  | 0x18 => fld 63 1 (b2n u.scrVal) + u.scrAddr.toNat
  | 0x20 => fld 63 1 (b2n u.fltVal) + u.fltPc.toNat
  | 0x28 => fld 32 32 u.curShard.toNat + fld 16 14 u.curStream.toNat
  | 0x30 => fld 32 32 u.skips.toNat + u.commits.toNat
  | _ =>
    match regIdx off 0x100 8 8, regIdx off 0x140 8 8, regIdx off 0x200 8 32 with
    | some n, _, _ => fld 63 1 (b2n (tget false u.spVal n)) + (tget 0 u.spAddr n).toNat
    | none, some n, _ => (tget 0 u.clsize n).toNat
    | none, none, some w => (tget 0 u.ctx w).toNat
    | none, none, none => 0

/-- ING_ESTATi.STATE (14 R420). -/
def ingState (g : Ing) : Nat :=
  match g.run with
  | none => if g.late.isEmpty then 0 else 3
  | some j => if j.finish then 3 else if j.waiting then 2 else 1

def readIng (s : State) (off : Nat) : Nat :=
  match regIdx off 0x100 0x40 4 with
  | none => 0
  | some i =>
    let g := s.ingOf i
    match off % 0x40 with
    | 0x00 => fld 60 4 (ingState g) + fld 32 16 (Min.min g.queue.length 0xFFFF)
        + (match g.run with | some j => fld 0 13 j.slot | none => 0)
    | 0x08 => (match g.run with | some j => fld 16 14 j.stream + fld 0 6 j.part | none => 0)
    | 0x10 => fld 32 32 g.rejects.toNat + g.accepted.toNat
    | 0x18 => fld 32 32 g.missing.toNat + g.padded.toNat
    | _ => 0

def readHlk (s : State) (off : Nat) : Nat :=
  let h := s.hlk
  match off with
  | 0x08 => h.winBase.toNat
  | 0x10 => h.width.toNat
  | 0x18 => fld 48 16 h.epoch.toNat + fld 32 4 h.cause.toNat
      + fld 16 15 (s.stm.streams.filter (fun e => e.2.state == .hostLost)).length + fld 8 4 h.lanes.toNat + fld 4 1 (b2n h.needhs)
      + h.state.code
  | 0x28 => h.holdBase.toNat
  | 0x30 => fld 48 16 h.losses.toNat + fld 32 16 h.retrains.toNat + h.replays.toNat
  | 0x38 => fld 63 1 (b2n h.errVal) + h.errAddr.toNat
  | 0x40 => fld 15 1 (b2n h.irqEn) + h.irqVec.toNat
  | 0x48 => h.lossTime.toNat
  | _ => 0

/-- PLK_QSTATq.STATE (15 R438). Its Reset value is IDLE though EN resets to 0: the model shows DISABLED once PLK_QCTLq has been written
(notes/assumptions/60.md). -/
def pqState (x : PeerQ) : Nat := if x.run.isSome then 1 else if !x.en then (if x.written then 3 else 0) else if x.stop then 2 else 0

def readPlk (s : State) (off : Nat) : Nat :=
  let k := s.plk
  match off with
  | 0x00 => [0, 1].foldl (fun a n => a + fld (8 * n + 1) 2 (s.pport n).width.toNat + fld (8 * n) 1 (b2n (s.pport n).enable)) 0
  | 0x08 => [0, 1].foldl (fun a n => a + fld (16 * n + 8) 8 (s.pport n).lanes.toNat + fld (16 * n) 4 (s.pport n).state.code) 0
  | 0x10 => k.modid.toNat
  | 0x18 => fld 56 8 k.masterId.toNat + fld 48 8 k.hops.toNat + fld 40 1 (b2n k.srcport) + fld 32 1 (b2n k.locked) + b2n k.master
  | 0x20 => (BitVec.ofInt 64 k.toffset).toNat
  | 0x28 => fld 48 16 k.retrains.toNat + fld 32 16 k.downs.toNat + k.replays.toNat
  | 0x30 => k.pps.toNat
  | _ =>
    match regIdx off 0x40 8 8, regIdx off 0x100 0x20 16 with
    | some n, _ => (List.range 32).foldl (fun a j => a + fld (2 * j) 2 (tget 0 k.routes (32 * n + j)).toNat) 0
    | none, some q =>
      let x := s.pq q
      (match off % 0x20 with
       | 0x00 => x.base.toNat
       | 0x08 => fld 12 4 x.log2.toNat + fld 8 2 x.port.toNat + fld 4 2 x.prio.toNat + b2n x.en
       | 0x10 => x.tail.toNat
       | 0x18 => fld 16 16 x.head.toNat + pqState x
       | _ => 0)
    | none, none => 0

def readBmp (s : State) (off : Nat) : Nat :=
  match regIdx off 0 0x40 4 with
  | none => 0
  | some n =>
    let b := s.bmpOf n
    match off % 0x40 with
    | 0x00 => fld 2 1 (b2n b.enable) + b.width.toNat
    | 0x08 => fld 8 8 b.lanes.toNat + b.state.code
    | 0x10 => b.frames.toNat
    | 0x18 => fld 48 16 b.retrains.toNat + fld 32 16 b.poison.toNat + b.replays.toNat
    | 0x20 => b.latMax.toNat
    | _ => 0

def readEvr (s : State) (off : Nat) : Nat :=
  let e := s.evr
  match off with
  | 0x08 => fld 56 8 e.cstatus.code + fld 43 13 (e.slots.filter (fun x => x.2.valid)).length
      + fld 42 1 (b2n (freeSlot 4080 0 e.slots).isNone) + fld 41 1 (b2n e.dbusy) + fld 32 8 e.dstatus.code + e.lost.toNat
  | 0x10 => e.token.toNat
  | 0x18 => e.nonce0.toNat
  | 0x20 => e.nonce1.toNat
  | 0x28 => e.sel.toNat
  | 0x30 => e.dumpAddr.toNat
  | 0x38 => e.clears.toNat
  | _ =>
    match regIdx off 0x100 8 11, regIdx off 0x200 8 16 with
    | some r, _ => (tget 0x0100#16 e.rate r).toNat
    | none, some w => bytesN (tget {} e.slots e.sel.toNat).bytes (8 * w) 8
    | none, none => 0

/-- Units held by the holders of a partition's pools 0, 2 and 4, counted at the holders (16 R440, R464). -/
def streamsOf (s : State) (p : Nat) : List (Nat × Stream) := s.stm.streams.filter (fun e => e.2.part.toNat = p && e.2.state != .idle)
def heldCredits (s : State) (p : Nat) : Nat := ((streamsOf s p).map (fun e => e.2.cmds.length)).foldl (· + ·) 0
def heldRefs (s : State) (p : Nat) : Nat :=
  ((streamsOf s p).map (fun e => (e.2.cmds.map (·.refs)).foldl (· + ·) 0)).foldl (· + ·) 0
def heldRed (s : State) (p : Nat) : Nat := 4 * (s.part p).slots.length
/-- Credits of a queue with its consumers or on the way (06 R182). -/
def Queue.out (x : Queue) : Nat := x.announced + x.held + x.annFly + x.crdFly

def readAudPart (s : State) (p r : Nat) : Nat :=
  let q := s.part p
  let two := fun t h => fld 32 32 t + fld 0 32 h
  match r with
  | 0x00 => fld 63 1 (b2n q.cons) + fld 52 4 q.consPool.toNat + q.audits.toNat
  | 0x08 => two q.credTotal (heldCredits s p)
  | 0x10 => fld 0 32 q.dmaHeld
  | 0x18 => two q.redTotal (heldRed s p)
  | 0x20 => two ((q.queues.map (fun e => e.2.c.toNat)).foldl (· + ·) 0) ((q.queues.map (fun e => e.2.out)).foldl (· + ·) 0)
  | 0x28 => two q.pageTotal (heldRefs s p)
  | 0x30 => q.diff.toNat
  | _ => 0

/-- AUD_DMAd: 0 until the ledger is set up with the links (17 R485). -/
def readAudDma (s : State) (d : Nat) : Nat :=
  if s.aud.linksInit then
    let x := tget {} s.aud.dma d
    fld 24 8 (dmaTotal d) + fld 16 8 x.held + fld 8 8 ((dmaTotal d : Int) - x.held + x.skew).toNat + b2n x.frozen
  else 0

def readAud (s : State) (d off : Nat) : Nat :=
  let a := s.aud
  if d ≠ 4 then
    match regIdx off 0x1000 0x40 64 with
    | some p => if homedHere s d p then readAudPart s p (off % 0x40) else 0
    | none => 0
  else
    match off with
    | 0x00 => fld 16 5 a.target.toNat + fld 8 4 a.pool.toNat
    | 0x08 => fld 32 32 a.mismatches.toNat + fld 24 4 a.lastPool.toNat + fld 16 8 a.lastWhere.toNat
    | 0x10 => fld 48 16 a.cethr.toNat + fld 32 16 a.cewin.toNat + fld 24 8 a.scrub.toNat + fld 1 1 (b2n a.sramrep) + b2n a.ueret
    | 0x18 => (if s.evr.restored then avCond s else a.cond).toNat
    | 0x20 => a.up.toNat
    | 0x28 => a.down.toNat
    | 0x30 => a.excl.toNat
    | 0x38 => a.nocond.toNat
    | _ =>
      match regIdx off 0x100 8 5, regIdx off 0x200 8 30 with
      | some k, _ => readAudDma s k
      | none, some l =>
        let x := tget {} a.links l
        fld 48 16 x.total.toNat + fld 32 16 (linkFree s l) + fld 16 16 x.occ.toNat + fld 1 15 (x.inflight.toNat + linkBusy s l) + b2n x.held
      | none, none => 0

def Stage.code : Stage → Nat
  | .rom => 0 | .fw => 1 | .restore => 2 | .selftest => 3 | .hbm => 4 | .links => 5 | .ready => 6 | .running => 7 | .noimage => 8

def readPwr (s : State) (off : Nat) : Nat :=
  let w := s.pwr
  match off with
  | 0x00 => w.floor.toNat
  | 0x08 => fld 56 8 w.qstatus.code + fld 48 8 w.fwstatus.code + fld 40 1 (b2n w.qbusy) + fld 36 4 w.lp.toNat + fld 32 1 (b2n w.idok)
      + fld 16 1 (b2n w.bootcopy) + w.stage.code
  | 0x10 => w.limit.toNat
  | 0x18 => fld 32 16 w.mv.toNat + w.ma.toNat
  | 0x20 => fld 16 16 w.pmax.toNat + w.pavg.toNat
  | 0x28 => w.alert.toNat
  | 0x30 => w.alertEn.toNat
  | 0x38 => w.attreq.toNat
  | 0x40 => w.fwsrc.toNat
  | 0x48 => fld 32 32 w.logTotal.toNat + fld 0 11 w.log.length
  | _ => match regIdx off 0x100 8 5 with
    | some d =>
      let t := tget {} w.temps d
      fld 32 16 t.tmax.toNat + fld 16 16 t.hbm.toNat + t.tj.toNat
    | none => 0

/-- What a present register reads as; offsets with no register read 0 (R11). -/
def regRead (s : State) (d b off : Nat) : Nat :=
  match b with
  | 0 => readMgt s d off
  | 1 => readFrm s d off
  | 2 => readCfg s off
  | 3 => readStm s off
  | 4 => readMemBlock s d off
  | 5 => readDma s d off
  | 6 => readUpd s d off
  | 7 => readIng s off
  | 8 => readHlk s off
  | 9 => readPlk s off
  | 0xA => readBmp s off
  | 0xB => readEvr s off
  | 0xC => readAud s d off
  | _ => readPwr s off

/-! ## Writes -/

/-- One write to a register: its bits, and which 32-bit halves it reaches (R9). -/
structure RegW where
  v  : Nat
  lo : Bool := true
  hi : Bool := true
deriving DecidableEq, Repr

/-- The bits written, the rest 0: what WS and W1C fields see. -/
def RegW.z (w : RegW) : Nat := (if w.lo then w.v % 2 ^ 32 else 0) + (if w.hi then w.v / 2 ^ 32 % 2 ^ 32 * 2 ^ 32 else 0)
/-- The bits written over the present value: what RW fields see. -/
def RegW.n (w : RegW) (cur : Nat) : Nat :=
  (if w.lo then w.v % 2 ^ 32 else cur % 2 ^ 32) + (if w.hi then w.v / 2 ^ 32 % 2 ^ 32 else cur / 2 ^ 32 % 2 ^ 32) * 2 ^ 32

/-- Do `f` when bit `i` of the written value is 1. -/
def State.onBit (s : State) (v i : Nat) (f : State → State) : State := if bitAt v i then f s else s

def State.writeMgt (s : State) (d off : Nat) (w : RegW) : State :=
  if off = 0x20 then s.modMgt (dieCode d) (fun m => { m with errVal := m.errVal && !bitAt w.z 63 })
  else match regIdx off 0x40 8 4 with
    | some n => s.modMgt (dieCode d) (fun m => { m with scratch := tset 0 m.scratch n (BitVec.ofNat 64 (w.n (readMgt s d off))) })
    | none => s

def State.writeFrm (s : State) (d off : Nat) (w : RegW) : State :=
  if d = 4 then (if off = 0x10 then s.setCal (w.n s.frm.cal.toNat) else s)
  else match regIdx off 0x1000 0x40 64 with
    | some p =>
      if homedHere s d p && off % 0x40 = 0 then (s.onBit w.z 2 (fun s => s.clrSlack p)).onBit w.z 0 (fun s => s.resume p) else s
    | none => s

/-- CFG_CTL: FORCE first, since a LOAD of the same write takes it. Of several WS bits written at once the manual gives no order: here ABORT,
LOAD, FLASH, KEYREG (notes/assumptions/62.md). -/
def State.writeCfg (s : State) (off : Nat) (w : RegW) : State :=
  match off with
  | 0x00 =>
    let s1 := if w.lo then s.modCfg (fun c => { c with force := bitAt w.v 1 }) else s
    let s2 := s1.onBit w.z 2 State.abortLoad
    let s3 := s2.onBit w.z 0 State.loadNow
    let s4 := s3.onBit w.z 3 State.flashNow
    s4.onBit w.z 4 (fun s => s.modCfg (fun c => { c with keyReq := true }))
  | 0x08 => s.modCfg (fun c => { c with src := BitVec.ofNat 48 (w.n c.src.toNat % 2 ^ 48 / 64 * 64) })
  | 0x10 => s.modCfg (fun c => { c with len := BitVec.ofNat 33 (w.n c.len.toNat) })
  | 0x28 =>
    let x := w.n (readCfg s 0x28)
    (s.modCfg (fun c => { c with rprSpare := BitVec.ofNat 10 (fieldNat x 41 32), rprClus := BitVec.ofNat 10 (fieldNat x 25 16) })).onBit
      w.z 0 State.repairNow
  | _ => s

def State.writeStm (s : State) (off : Nat) (w : RegW) : State :=
  match off with
  | 0x00 => s.setTableBase (w.n s.stm.tableBase.toNat % 2 ^ 48)
  | 0x08 => s.setArgBase (w.n s.stm.argBase.toNat % 2 ^ 48)
  | 0x10 => if w.lo then s.doorbell (w.v % 2 ^ 32) else s
  | 0x18 => if w.lo then s.scmd (fieldNat w.v 29 16) (fieldNat w.v 3 0) else s
  | _ => s

def State.writeMemBlock (s : State) (d off : Nat) (w : RegW) : State :=
  if off = 0 then
    (if w.lo then
      (s.modMig d (fun m => { m with pch := BitVec.ofNat 5 (fieldNat w.v 12 8), stack := BitVec.ofNat 2 (fieldNat w.v 5 4) })).onBit
        w.z 0 (fun s => s.memRetire d)
     else s)
  else match regIdx off 0x1000 0x40 64 with
    | some p => if homedHere s d p && off % 0x40 = 0x30 then s.onBit w.z 0 (fun s => s.clrLate p) else s
    | none => s

def State.writeDma (s : State) (d off : Nat) (w : RegW) : State :=
  if off = 0 then (if w.lo then s.modDma d (fun x => { x with retryLimit := BitVec.ofNat 4 w.v }) else s)
  else match regIdx off 0x1000 0x20 (dmaTotal d) with
    | none => s
    | some i =>
      let ch := chanOfLocal d i
      match off % 0x20 with
      | 0x00 => s.onBit w.z 0 (fun s => s.dmaStopReq ch)
      | 0x10 => s.modChan ch (fun c => { c with errVal := c.errVal && !bitAt w.z 63 })
      | _ => s

def State.writeUpd (s : State) (d off : Nat) (w : RegW) : State :=
  match off with
  | 0x00 => s.onBit w.z 0 (fun s => s.updAbort d)
  | 0x10 => s.modUpd d (fun u => { u with ilimit := BitVec.ofNat 48 (w.n u.ilimit.toNat) })
  | 0x20 => s.modUpd d (fun u => { u with fltVal := u.fltVal && !bitAt w.z 63 })
  | _ =>
    if off = 0x18 || (decide (0x100 ≤ off) && decide (off < 0x180) && off % 8 = 0) then s.updConfig d off (w.n (readUpd s d off)) else s

def State.writeIng (s : State) (off : Nat) (w : RegW) : State :=
  if off = 0 then [0, 1, 2, 3].foldl (fun s i => s.onBit w.z i (fun s => s.ingAbortReq i)) s else s

def State.writeHlk (s : State) (off : Nat) (w : RegW) : State :=
  match off with
  | 0x00 => if w.lo then s.doorbell (w.v % 2 ^ 32) else s
  | 0x08 => s.modHlk (fun h => { h with winBase := BitVec.ofNat 47 (w.n h.winBase.toNat % 2 ^ 47 / 2 ^ 21 * 2 ^ 21) })
  | 0x10 => if w.lo then (s.modHlk (fun h => { h with width := BitVec.ofNat 2 w.v })).onBit w.z 2 State.hlkTrain else s
  | 0x20 => if w.lo then s.handshakeWrite (w.v % 2 ^ 16) else s
  | 0x28 => s.setHoldBase (w.n s.hlk.holdBase.toNat)
  | 0x38 => s.modHlk (fun h => { h with errVal := h.errVal && !bitAt w.z 63 })
  | 0x40 => if w.lo then s.modHlk (fun h => { h with irqEn := bitAt w.v 15, irqVec := BitVec.ofNat 11 w.v }) else s
  | _ => s

def State.writePlk (s : State) (off : Nat) (w : RegW) : State :=
  match off with
  | 0x00 =>
    if w.lo then
      [0, 1].foldl (fun s n =>
        let s1 := s.modPport n (fun q => { q with width := BitVec.ofNat 2 (fieldNat w.v (8 * n + 2) (8 * n + 1)) })
        (s1.plkEnableTo n (bitAt w.v (8 * n))).onBit w.v (8 * n + 3) (fun s => s.plkTrain n)) s
    else s
  | 0x10 => if w.lo then s.modPlk (fun k =>
      { k with modid := BitVec.ofNat 8 w.v, masterId := if k.master && k.masterId == k.modid then BitVec.ofNat 8 w.v else k.masterId }) else s
  | 0x18 => if w.lo then s.setMaster (bitAt w.v 0) else s
  | _ =>
    match regIdx off 0x40 8 8, regIdx off 0x100 0x20 16, regIdx off 0x400 8 8 with
    | some n, _, _ =>
      let x := w.n (readPlk s off)
      s.modPlk (fun k => { k with routes := (List.range 32).foldl (fun t j => tset 0 t (32 * n + j) (BitVec.ofNat 2 (x / 2 ^ (2 * j)))) k.routes })
    | none, some q, _ =>
      (match off % 0x20 with
       | 0x00 => s.queueBase q (w.n (s.pq q).base.toNat)
       | 0x08 => if w.lo then s.queueCtl q (w.v % 2 ^ 32) else s
       | 0x10 => if w.lo then s.queueTail q (w.v % 2 ^ 16) else s
       | _ => s)
    | none, none, some _ => s.queueBell w.z
    | none, none, none => s

def State.writeBmp (s : State) (off : Nat) (w : RegW) : State :=
  match regIdx off 0 0x40 4 with
  | none => s
  | some n =>
    if off % 0x40 = 0 && w.lo then
      ((s.modBmp n (fun b => { b with width := BitVec.ofNat 2 w.v })).bmpEnableTo n (bitAt w.v 2)).onBit w.v 3 (fun s => s.bmpTrain n)
    else s

/-- EVR: of several WS bits written at once CLEAR, SNAP, DUMP act in this order (notes/assumptions/62.md). -/
def State.writeEvr (s : State) (off : Nat) (w : RegW) : State :=
  match off with
  | 0x00 =>
    ((s.onBit w.z 0 (fun s => s.modEvr (fun e => { e with clearReq := true }))).onBit w.z 1 State.snapNow).onBit w.z 2 State.evrDump
  | 0x10 => s.modEvr (fun e => { e with token := BitVec.ofNat 48 (w.n e.token.toNat % 2 ^ 48 / 64 * 64) })
  | 0x28 => if w.lo then s.modEvr (fun e => { e with sel := BitVec.ofNat 12 w.v }) else s
  | 0x30 => s.modEvr (fun e => { e with dumpAddr := BitVec.ofNat 48 (w.n e.dumpAddr.toNat % 2 ^ 48 / 4096 * 4096) })
  | _ => match regIdx off 0x100 8 11 with
    | some r => if w.lo then s.modEvr (fun e => { e with rate := tset 0x0100#16 e.rate r (BitVec.ofNat 16 w.v) }) else s
    | none => s

def State.writeAud (s : State) (d off : Nat) (w : RegW) : State :=
  if d ≠ 4 then s
  else match off with
    | 0x00 =>
      if w.lo then
        (s.modAud (fun a => { a with target := BitVec.ofNat 5 (fieldNat w.v 20 16), pool := BitVec.ofNat 4 (fieldNat w.v 11 8) })).onBit
          w.v 0 State.reconcile
      else s
    | 0x10 =>
      let x := w.n (readAud s 4 0x10)
      s.modAud (fun a => { a with cethr := BitVec.ofNat 16 (x / 2 ^ 48), cewin := BitVec.ofNat 16 (x / 2 ^ 32),
                                  scrub := BitVec.ofNat 8 (x / 2 ^ 24), sramrep := bitAt x 1, ueret := bitAt x 0 })
    | _ => s

/-- PWR: of several WS bits written at once CLRMAX, FWUPD, QUOTE act in this order, after FLOOR (notes/assumptions/62.md). -/
def State.writePwr (s : State) (off : Nat) (w : RegW) : State :=
  match off with
  | 0x00 =>
    if w.lo then
      (((s.modPwr (fun p => { p with floor := BitVec.ofNat 4 w.v })).onBit w.v 10 State.clrMax).onBit w.v 9 (fun s =>
        s.modPwr (fun p => { p with fwReq := true }))).onBit w.v 8 State.quoteStart
    else s
  | 0x10 => if w.lo then s.setLimit (w.v % 2 ^ 32) else s
  | 0x28 => s.modPwr (fun p => { p with alert := p.alert &&& ~~~ BitVec.ofNat 6 w.z })
  | 0x30 => if w.lo then s.modPwr (fun p => { p with alertEn := BitVec.ofNat 6 w.v }) else s
  | 0x38 => s.modPwr (fun p => { p with attreq := BitVec.ofNat 48 (w.n p.attreq.toNat % 2 ^ 48 / 64 * 64) })
  | 0x40 => s.modPwr (fun p => { p with fwsrc := BitVec.ofNat 48 (w.n p.fwsrc.toNat % 2 ^ 48 / 64 * 64) })
  | _ => s

/-- A write to a present register (R10, R11); registers that ignore writes are not listed. -/
def State.regWrite (s : State) (d b off : Nat) (w : RegW) : State :=
  match b with
  | 0 => s.writeMgt d off w
  | 1 => s.writeFrm d off w
  | 2 => s.writeCfg off w
  | 3 => s.writeStm off w
  | 4 => s.writeMemBlock d off w
  | 5 => s.writeDma d off w
  | 6 => s.writeUpd d off w
  | 7 => s.writeIng off w
  | 8 => s.writeHlk off w
  | 9 => s.writePlk off w
  | 0xA => s.writeBmp off w
  | 0xB => s.writeEvr off w
  | 0xC => s.writeAud d off w
  | 0xD => s.writePwr off w
  | _ => s

/-! ## Accesses to register space (R9, 10 R307) -/

/-- An access that R9 discards: counted under 0x0002 and latched in MGT_ERRADDR. -/
def State.discardReg (s : State) (a : Nat) : State :=
  let k := dieCode (regDie a)
  (s.event 0x0002 k (a % 2 ^ 32)).modMgt k (fun m => if m.errVal then m else { m with errVal := true, errAddr := BitVec.ofNat 48 a })

/-- The access is 32 or 64 bits, naturally aligned, and its block is present. -/
def regAccessOk (a n : Nat) : Bool :=
  (n = 8 && a % 8 = 0 || n = 4 && a % 4 = 0) && regPresent (regDie a) (regBlock a) (regOff a)

/-- Parts of an access split at 8-byte boundaries (10 R307). -/
def regParts : Nat → Nat → Nat → List (Nat × Nat)
  | 0, _, _ => []
  | fuel + 1, a, n =>
    if n = 0 then []
    else
      let k := Min.min n (8 - a % 8)
      (a, k) :: regParts fuel (a + k) (n - k)

/-- Read one part. -/
def State.regRead1 (s : State) (a n : Nat) : List Byte × State :=
  if regAccessOk a n then
    let v := regRead s (regDie a) (regBlock a) (regOff a / 8 * 8)
    (leBytes n (if n = 4 && a % 8 = 4 then v / 2 ^ 32 else v), s)
  else (List.replicate n 0, s.discardReg a)

/-- Write one part. -/
def State.regWrite1 (s : State) (a : Nat) (l : List Byte) : State :=
  if regAccessOk a l.length then
    let v := leNat l
    let w : RegW := if l.length = 8 then { v := v } else if a % 8 = 4 then { v := v * 2 ^ 32, lo := false } else { v := v, hi := false }
    s.regWrite (regDie a) (regBlock a) (regOff a / 8 * 8) w
  else s.discardReg a

/-- Read a span of register space as a run of accesses in rising address order. -/
def State.regReadSpan (s : State) (a n : Nat) : List Byte × State :=
  (regParts (n / 8 + 2) a n).foldl (fun r p => let x := r.2.regRead1 p.1 p.2; (r.1 ++ x.1, x.2)) ([], s)

def State.regWriteSpan (s : State) (a : Nat) (l : List Byte) : State :=
  ((regParts (l.length / 8 + 2) a l.length).foldl (fun r p => (r.1.regWrite1 p.1 (r.2.take p.2), r.2.drop p.2)) (s, l)).1

end Sys2Proof.Machine
end

