-- ==== Sys2Proof/Machine/Bus.lean ====
section
/-! DEFINITION. One access of any master to any location, register space included (01 R37, R38; 08 R233). -/
namespace Sys2Proof.Machine

/-- Count an access that the command of a pinned stream makes in the board tier (08 R254). -/
def State.boardUse (s : State) (pa n : Nat) : State :=
  match s.bus with
  | some (k, _) => if (s.stream k).pinned && inBoard pa n then s.event 0x020C (s.stream k).part.toNat k else s
  | none => s

/-- The place that the TLB of the update engine making the accesses gives a unified address, if it holds the page (13 R371). -/
def engineHit (s : State) (p : Option Nat) (a : Nat) : Option Nat :=
  match s.bus, p with
  | some (_, some d), some q =>
    if locate s a == .uni then
      ((s.updOf d).tlb.find? (fun t => t.part = q && t.page = pageOf a)).map (fun t => t.base + a % pageSize)
    else none
  | _, _ => none

/-- An access of an update engine that missed in its TLB enters the translation it has found (13 R371). -/
def State.engineFill (s : State) (p : Option Nat) (a pa : Nat) : State :=
  match s.bus, p with
  | some (_, some d), some q =>
    if locate s a == .uni && !tlbHolds (s.updOf d).tlb q (pageOf a) then
      s.modUpd d (fun u => { u with tlb := tlbAdd u.tlb { part := q, page := pageOf a, base := pa - a % pageSize, clean := false } })
    else s
  | _, _ => s

/-- Where a read leads: an update engine's TLB may still hold a place that the page has left, and that stays as it was until the engine has
acknowledged (04 R121); an access to a page that is being promoted waits, whatever the TLB holds (R371, 08 R244). A write is translated
afresh (08 R244, R245). -/
def readPlace (s : State) (p : Option Nat) (a : Nat) : Res :=
  match engineHit s p a with
  | some pa => if p.any (fun q => translate s q a false == .wait) then .wait else reachOf s pa
  | none => resolve s p a false

/-- Read one piece of at most a line. A failing access is counted under 0x020E; bad data is a bus error of its own (08 R265; 16 R448). -/
def State.busRead (s : State) (p : Option Nat) (a n : Nat) : Except Res (List Byte) × State :=
  match readPlace s p a with
  | .at pa => if s.badLine = some (pa / 64) then (.error .bus, s) else (.ok (s.rd pa n), (s.boardUse pa n).engineFill p a pa)
  | .reg => let r := s.regReadSpan a n; (.ok r.1, r.2)
  | .bus => (.error .bus, s.noLocation p a)
  | r => (.error r, s)

/-- Write one piece of at most a line: what it met, and the state after. -/
def State.busWrite (s : State) (p : Option Nat) (a : Nat) (l : List Byte) : Res × State :=
  match s.writePiece p a l with
  | (.at pa, s1) => (.at pa, (s1.boardUse pa l.length).engineFill p a pa)
  | (.reg, s1) => (.reg, s1.regWriteSpan a l)
  | (.bus, s1) => (.bus, s1.noLocation p a)
  | r => r

/-- The access was carried out. -/
def Res.done : Res → Bool
  | .at _ | .reg => true
  | _ => false

/-- Read a span piece by piece, stopping at the first that fails. -/
def State.busReadSpan (s : State) (p : Option Nat) : List (Nat × Nat) → Except Res (List Byte) × State
  | [] => (.ok [], s)
  | (a, n) :: l =>
    match s.busRead p a n with
    | (.error e, s1) => (.error e, s1)
    | (.ok b, s1) =>
      match State.busReadSpan s1 p l with
      | (.ok c, s2) => (.ok (b ++ c), s2)
      | r => r

/-- Write a span piece by piece, stopping at the first that fails; what was written before stays. -/
def State.busWriteSpan (s : State) (p : Option Nat) : List (Nat × Nat) → List Byte → Option Res × State
  | [], _ => (none, s)
  | (a, n) :: l, b =>
    match s.busWrite p a (b.take n) with
    | (r, s1) => if r.done then State.busWriteSpan s1 p l (b.drop n) else (some r, s1)

/-- Read and write any span of device addresses. -/
def State.readAny (s : State) (p : Option Nat) (a n : Nat) : Except Res (List Byte) × State := s.busReadSpan p (linesOf a n)
def State.writeAny (s : State) (p : Option Nat) (a : Nat) (l : List Byte) : Option Res × State := s.busWriteSpan p (linesOf a l.length) l

end Sys2Proof.Machine
end

