-- ==== Sys2Proof/Machine/Dma.lean ====
section
/-! DEFINITION. DMA channels (11). -/
namespace Sys2Proof.Machine

/-! ## Commands at their channel (R325) -/

/-- Set the phase of an admitted command. -/
def State.startCmd (s : State) (n : Nat) (seq : BitVec 16) : State := s.modCmd n seq (fun c => { c with phase := .started })

/-- Command DMA joins its channel, at its admission (R325). -/
def State.queueDma (s : State) (n : Nat) (c : Cmd) : State :=
  let ch := byteAt c.bytes 0x10
  let x := s.chan ch
  let r : DmaRun := { stream := n, seq := c.seq, part := (s.stream n).part.toNat, prio := BitVec.ofNat 2 (byteAt c.bytes 0x11),
                      descs := c.descs, tick := c.tick, addr := bytesN c.bytes 8 8, waited := x.run.any (fun r => !r.done) || !x.queue.isEmpty }
  s.modChan ch (fun x => { x with queue := x.queue ++ [r] })

/-- The tick of an admitted DMA command has come. -/
def State.dmaHere (s : State) (n : Nat) (c : Cmd) : State :=
  (s.startCmd n c.seq).modChan (byteAt c.bytes 0x10) (fun x =>
    { x with queue := x.queue.map (fun r => if r.stream = n ∧ r.seq = c.seq then { r with here := true } else r) })

def execDma (stream : Nat) (s : State) : Host.Outcome State Fault Refusal :=
  ok (s.live (fun s => match nextOf s stream 2 with | some c => s.dmaHere stream c | none => s))

/-- The command at the head of a channel's queue cannot start yet. -/
def State.dmaWaits (s : State) (ch : Nat) : State :=
  s.modChan ch (fun x => { x with queue := match x.queue with | r :: rest => { r with waited := true } :: rest | [] => [] })

/-- The channel's staging buffer passes from a command that has completed to the one that starts (notes/assumptions/69.md). -/
def State.passBuffer (s : State) (ch : Nat) : State :=
  match (s.chan ch).run with
  | some r =>
    (s.modAud (fun a => { a with dma := tmod {} a.dma (dieOfChan ch) (fun x => { x with held := x.held - 1 }) })).modPart r.part
      (fun q => { q with dmaHeld := q.dmaHeld - 1 })
  | none => s

/-- A channel starts its next command when the one ahead has completed, and takes its staging buffer (R325, R326), also where the record of
the one ahead is not written yet. A frozen mover starts none (16 R446). -/
def State.dmaStartCh (s : State) (ch : Nat) : State :=
  let x := s.chan ch
  let d := dieOfChan ch
  match x.queue with
  | [] => s
  | r :: rest =>
    if !r.here then s
    else if x.run.any (fun r => !r.done) || (tget {} s.aud.dma d).frozen then s.dmaWaits ch
    else
      let s0 := (s.advanceTo (Max.max r.tick x.freeAt)).passBuffer ch
      let s1 := s0.modChan ch (fun x => { x with run := some r, queue := rest, bytes := 0 })
      let s2 := (s1.modAud (fun a => { a with dma := tmod {} a.dma d (fun x => { x with held := x.held + 1 }) })).modPart r.part
        (fun q => { q with dmaHeld := q.dmaHeld + 1 })
      if r.waited then s2.event 0x0506 ch ((s0.time - r.tick) / 1200) else s2

def execDmaStart (ch : Nat) (s : State) : Host.Outcome State Fault Refusal :=
  ok (s.live (fun s => if ch < 256 then s.dmaStartCh ch else s))

/-! ## The funnel (R328, R332) -/

/-- Largest access that is naturally aligned at `a` and at most `n` bytes. -/
def accSize (a n : Nat) : Nat := ([64, 32, 16, 8, 4, 2].find? (fun k => a % k = 0 && decide (k ≤ n))).getD 1

/-- Accesses of one run of bytes. -/
def accesses : Nat → Nat → Nat → List (Nat × Nat)
  | 0, _, _ => []
  | fuel + 1, a, n => if n = 0 then [] else (a, accSize a n) :: accesses fuel (a + accSize a n) (n - accSize a n)

/-- Accesses of a pattern's byte stream from byte `off` on. -/
def Pat.accs (q : Pat) (off : Nat) : List (Nat × Nat) :=
  if q.len = 0 then []
  else (List.range (q.count - off / q.len)).flatMap (fun i =>
    let j := off / q.len + i
    let skip := if i = 0 then off % q.len else 0
    let a := ((q.buf : Int) + q.off + j * q.stride).toNat + skip
    accesses (q.len / 64 + 12) a (q.len - skip))

/-- What stopped a run of accesses: the failing access. -/
abbrev Stop := Option (Res × Nat)

/-- Whether a descriptor may read what it writes: its bounds meet, or one of them is an address of the unified view. -/
def mayOverlap (l : List Byte) : Bool :=
  let a := srcPat l
  let b := dstPat l
  (decide (a.lo ≤ b.hi) && decide (b.lo ≤ a.hi)) || (decide (uniBase ≤ a.buf) && decide (a.buf < uniEnd)) != (decide (uniBase ≤ b.buf) && decide (b.buf < uniEnd))

/-- A channel's funnel while it moves a descriptor (R332): the module, the data in the staging buffer, what the descriptor has overwritten,
oldest write first, and what has been read and written since the funnel took up its work, with the requests sent to host memory. -/
structure Funnel where
  st     : State
  staged : List Byte := []
  olds   : List (Nat × List Byte) := []
  read   : Nat := 0
  wrote  : Nat := 0
  host   : Nat := 0
deriving DecidableEq, Repr

/-- Bytes at `[a, a + n)` as they were before the writes listed, oldest first; `l` is what they are now. -/
def before (olds : List (Nat × List Byte)) (a : Nat) (l : List Byte) : List Byte :=
  olds.foldr (fun o l => l.zipIdx.map (fun e => if o.1 ≤ a + e.2 ∧ a + e.2 < o.1 + o.2.length then o.2.getD (a + e.2 - o.1) 0 else e.1)) l

/-- One access reads into the buffer. Bytes that the same descriptor has written read as the old or the new value, 8 aligned bytes at a
time (R328; 01 R39): which is open. -/
def Funnel.readOne (f : Funnel) (p : Option Nat) (a n : Nat) : Option Res × Funnel :=
  match f.st.busRead p a n with
  | (.error e, s) => (some e, { f with st := s })
  | (.ok b, s) =>
    match resolve f.st p a false with
    | .at pa =>
      let old := before f.olds pa b
      if old = b then (none, { f with st := s, staged := f.staged ++ b, read := f.read + n })
      else (none, { f with st := s.drawNext, staged := f.staged ++ mix8 s.draw pa old b, read := f.read + n })
    | _ => (none, { f with st := s, staged := f.staged ++ b, read := f.read + n })

/-- One access writes out of the buffer; `keep` where the descriptor may read what it writes. -/
def Funnel.writeOne (f : Funnel) (p : Option Nat) (keep : Bool) (a n : Nat) : Option Res × Funnel :=
  let r := f.st.busWrite p a (f.staged.take n)
  match r.1 with
  | .at pa => (none, { st := r.2, staged := f.staged.drop n, olds := if keep then f.olds ++ [(pa, f.st.rd pa n)] else f.olds, read := f.read,
                       wrote := f.wrote + n, host := f.host + b2n (decide (hostBase ≤ pa)) })
  | .reg => (none, { f with st := r.2, staged := f.staged.drop n, wrote := f.wrote + n })
  | e => (some e, { f with st := r.2 })

/-- Read accesses until the buffer holds `n` bytes: those left, the failing one if any, and the funnel. -/
def Funnel.readTo (p : Option Nat) (n : Nat) : List (Nat × Nat) → Funnel → List (Nat × Nat) × Stop × Funnel
  | [], f => ([], none, f)
  | (a, k) :: l, f =>
    if n ≤ f.staged.length then ((a, k) :: l, none, f)
    else
      match f.readOne p a k with
      | (some e, f1) => ((a, k) :: l, some (e, a), f1)
      | (none, f1) => Funnel.readTo p n l f1

/-- Reads that run ahead of a write that does not go on, while the 4 KiB buffer has room for them and they reach memory (R332). -/
def Funnel.ahead (p : Option Nat) : List (Nat × Nat) → Funnel → Funnel
  | [], f => f
  | (a, k) :: l, f =>
    match resolve f.st p a false with
    | .at _ => if 4096 < f.staged.length + k then f else Funnel.ahead p l (f.readOne p a k).2
    | _ => f

/-- Write the accesses listed, reading what each of them needs (R332): the access that stops the descriptor, if any, and the funnel. -/
def Funnel.run (p : Option Nat) (keep : Bool) : List (Nat × Nat) → List (Nat × Nat) → Funnel → Stop × Funnel
  | [], _, f => (none, f)
  | (a, n) :: l, src, f =>
    match f.readTo p n src with
    | (_, some e, f1) => (some e, f1)
    | (rest, none, f1) =>
      match f1.writeOne p keep a n with
      | (none, f2) => Funnel.run p keep l rest f2
      | (some e, f2) => (some (e, a), f2.ahead p rest)

/-- Move the rest of the running descriptor `l`: what stopped it, and the funnel. -/
def State.moveDesc (s : State) (r : DmaRun) (l : List Byte) : Stop × Funnel :=
  let f := Funnel.run (some r.part) (mayOverlap l) ((dstPat l).accs r.off) ((srcPat l).accs r.rpos)
    { st := { s with bus := some (r.stream, none) }, staged := r.staged, olds := r.olds }
  (f.1, { f.2 with st := { f.2.st with bus := s.bus }.modStream r.stream (fun x => x.addOut r.seq f.2.host) })

/-! ## Running (R330 to R335) -/

def State.modRun (s : State) (ch : Nat) (f : DmaRun → DmaRun) : State :=
  s.modChan ch (fun x => match x.run with | some r => let q := f r; { x with run := some q, bytes := BitVec.ofNat 55 q.bytes } | none => x)

/-- The command's work ends with this status (R336). -/
def State.dmaEnd (s : State) (ch : Nat) (st : Status) (reason : Nat) : State :=
  match (s.chan ch).run with
  | none => s
  | some r =>
    (s.modRun ch (fun r => { r with finished := true, cur := none, failAt := none, staged := [], olds := [] })).endCmd r.stream r.seq st
      (BitVec.ofNat 8 reason) (BitVec.ofNat 64 (r.pos * 2 ^ 55 + r.bytes))

/-- The running descriptor has moved all its bytes. -/
def DmaRun.nextDesc (r : DmaRun) (l : List Byte) : DmaRun :=
  { r with pos := r.pos + 1, off := 0, rpos := 0, staged := [], olds := [], cur := none, addr := descNext l, repeats := 0, again := none }

/-- Go on with the running descriptor `l` of channel `ch`. -/
def State.dmaGo (s : State) (ch : Nat) (r : DmaRun) (l : List Byte) : State :=
  let m := s.moveDesc r l
  let f := m.2
  let s0 := f.st.modRun ch (fun r => { r with bytes := r.bytes + f.wrote, off := r.off + f.wrote, rpos := r.rpos + f.read, staged := f.staged,
                                              olds := f.olds, failAt := none, again := none })
  let s1 := match m.1 with
    | some (.wait, _) => s0
    | _ => (s0.writeWaited (some r.part) r.heldAt).modRun ch (fun r => { r with heldAt := none })
  match m.1 with
  | none =>
    let s2 := s1.modRun ch (fun r => r.nextDesc l)
    if r.stopReq then (s2.event 0x0503 ch (r.pos + 1)).dmaEnd ch .stopped 0
    else if !descChain l then s2.dmaEnd ch .ok 0
    else s2
  | some (.lost, _) => s1.dmaEnd ch .hostLost 0
  | some (.wait, a) => s1.modRun ch (fun x =>
      { x with heldAt := if x.heldAt.isNone && leavingPage s (some r.part) a then some s.time else x.heldAt,
               again := if r.failAt = some a ∨ r.again = some a then some a else none })
  | some (_, a) =>
    let k := if r.failAt = some a ∨ r.again = some a then r.repeats else 0
    if (s.dmaOf (dieOfChan ch)).retryLimit.toNat ≤ k then
      let s2 := s1.modChan ch (fun x => if x.errVal then x else { x with errVal := true, errAddr := BitVec.ofNat 48 a })
      (s2.event 0x0501 ch r.pos).dmaEnd ch .busError r.pos
    else s1.modRun ch (fun r => { r with failAt := some a, failTime := s.time, repeats := k })

/-- What the second reading of a descriptor gives (R330): the descriptor to run, `changed` where it differs from the fetch; the status it
fails with; or nothing yet, while the host link holds the read. -/
inductive Reread where
  | run (l : List Byte) (changed : Bool)
  | fails (st : Status) (changed : Bool)
  | waits
deriving DecidableEq, Repr

/-- Read the descriptor again before it runs, and check it when it differs (R330), the length of the chain it stands in among the rest: the last of
256 names no other. A NEXT that leads to no place a descriptor may have fails at that place, where none is read (R327). -/
def dmaReread (s : State) (r : DmaRun) : Reread :=
  let old := (r.descs[r.pos]?).map (·.2)
  if 256 ≤ r.pos || !descPlace r.addr then .fails .bound false
  else
    match readMem s none r.addr 64 with
    | .error .wait => .waits
    | .error .lost => .fails .hostLost false
    | .error _ => .fails .busError false
    | .ok l =>
      if old = some l then .run l false
      else match descCheck l with
        | some st => .fails st true
        | none => if descChain l && r.pos = 255 then .fails .bound true else .run l true

/-- Run one descriptor, or go on with one that waited on a page. -/
def State.dmaDesc (s : State) (ch : Nat) : State :=
  match (s.chan ch).run with
  | none => s
  | some r =>
    if r.finished || r.failAt.isSome then s
    else
      match r.cur with
      | some l => s.dmaGo ch r l
      | none =>
        if r.stopReq then (s.event 0x0503 ch r.pos).dmaEnd ch .stopped 0
        else if 0 < r.pos && 0 < (s.stream r.stream).outOf r.seq then s
        else
          match dmaReread s r with
          | .waits => s
          | .fails st changed =>
            let s1 := if changed then s.event 0x0505 ch r.pos else if st = .busError then s.noLocation (some r.part) r.addr else s
            s1.dmaEnd ch st (if st = .hostLost then 0 else r.pos)
          | .run l changed =>
            let s1 := if changed then s.event 0x0505 ch r.pos else s
            (s1.modRun ch (fun r => { r with cur := some l })).dmaGo ch { r with cur := some l } l

/-- A channel of this level of the die has beats to move. -/
def levelRuns (s : State) (d : Nat) (l : BitVec 2) : Bool :=
  (chansOf d).any (fun ch => (s.chan ch).run.any (fun r => r.ready && r.prio == l))

/-- Run a descriptor; `preempted` lists the levels that took the beats meanwhile: those among them that are higher and have a channel of the
die running, where any byte was moved (R333). -/
def execDmaDescriptor (ch : Nat) (preempted : List (BitVec 2)) (s : State) : Host.Outcome State Fault Refusal :=
  ok (s.live (fun s =>
    match (s.chan ch).run with
    | none => s
    | some r =>
      if r.finished then s
      else
        let t := s.dmaDesc ch
        if (t.chan ch).bytes = (s.chan ch).bytes then t
        else (preempted.filter (fun l => decide (l < r.prio) && levelRuns s (dieOfChan ch) l)).foldl (fun s l => s.event 0x0504 ch l.toNat) t))

/-- 1 µs after a failure the access is repeated, and where that succeeds the descriptor goes on (R335); every higher level that has beats then takes
them first (R333). -/
def State.dmaRepeat (s : State) (ch : Nat) : State :=
  match (s.chan ch).run with
  | none => s
  | some r =>
    match r.failAt, r.cur with
    | some _, some l =>
      let k := r.repeats + 1
      let s1 := ((s.advanceTo (r.failTime + 1200)).event 0x0500 ch k).modDma (dieOfChan ch) (fun d => { d with retries := satAdd d.retries 1 })
      let t := (s1.modRun ch (fun r => { r with repeats := k })).dmaGo ch { r with repeats := k } l
      if (t.chan ch).bytes = (s.chan ch).bytes then t
      else ([0, 1, 2, 3].filter (fun (l : BitVec 2) => decide (l < r.prio) && levelRuns s1 (dieOfChan ch) l)).foldl (fun s l => s.event 0x0504 ch l.toNat) t
    | _, _ => s

def execDmaRetry (ch : Nat) (s : State) : Host.Outcome State Fault Refusal := ok (s.live (fun s => s.dmaRepeat ch))

/-- The channel meets bad data in the line of address `a` (08 R265): it moves what stands before it in the running descriptor, and every repeat
meets it again. A descriptor that does not read the line is not touched. -/
def State.dmaMeets (s : State) (ch a : Nat) : State :=
  let t := s.meeting a (fun s => s.dmaDesc ch)
  if (t.chan ch).run.any (fun r => r.failAt.isSome) then
    s.meeting a (fun s => (s.dmaDesc ch).each (List.range ((s.dmaOf (dieOfChan ch)).retryLimit.toNat + 1)) (fun s _ => s.dmaRepeat ch))
  else if (t.chan ch).run.any (fun r => r.finished) && (s.chan ch).run.any (fun r => !r.finished) && (t.chan ch).errVal then t
  else s

end Sys2Proof.Machine
end

