-- ==== Sys2Proof/Machine/Cmds.lean ====
section
/-! DEFINITION. Stream commands that the partition controller and the migration engines carry out: NOP, RUN, HINT, FENCE, SIGNAL, WAIT and
LOAD_BITSTREAM (08 R252, R257 to R259; 09 R286 to R295). -/
namespace Sys2Proof.Machine

/-! ## Fetch (09 R283, R284; 11 R329) -/

/-- The next covered command not yet fetched, if fetching may go on (R283). -/
def fetchPlace (x : Stream) : Option Nat :=
  let sz := 2 ^ x.clog2
  let covered := (x.tail.toNat + sz - x.head.toNat) % sz
  let k := x.fetched.length
  if x.live && k < covered && k < x.credits.toNat then some k else none

/-- The sequence and phase check (R283). -/
def seqPhaseOk (x : Stream) (k : Nat) (b : List Byte) : Bool :=
  let wraps := decide (2 ^ x.clog2 ≤ x.head.toNat + k)
  decide (bytesN b 2 2 = (x.nseq.toNat + k) % 65536) && (bitAt (byteAt b 1) 7 == (x.cph != wraps))

/-- A command read from its ring, with its descriptor chain read and checked if it is a DMA command (11 R329), and with the heads it names if it
is an INGEST (14 R417); `none` while such a read waits. A read that reaches no location is counted (08 R233). -/
def State.takeUp (s : State) (b : List Byte) : Option (Fetched × State) :=
  if byteAt b 0 = 2 && !reservedField b then
    match chainOf s b with
    | (_, .waits) => none
    | (l, .passes) => some ({ bytes := b, descs := l }, s)
    | (l, .fails st pos a) =>
      some ({ bytes := b, descs := l, refuse := some (st, pos) }, if st = .busError then s.noLocation none a else s)
  else if byteAt b 0 = 0xC && !reservedField b then
    match ingestCheck s b, (headReads b).findSome? (fun a => firstStop s none a 64) with
    | some (.busError, _), some (.wait, _) => none
    | some (.busError, r), some (.bus, a) => some ({ bytes := b, refuse := some (.busError, r) }, s.noLocation none a)
    | e, _ => some ({ bytes := b, refuse := e }, s)
  else some ({ bytes := b }, s)

/-- A read of the command ring is not sent after a loss (10 R317). -/
def State.ringReadLost (s : State) (n : Nat) : State := (State.writeRecords true 600 ((s.useEntry n).ringLost n 1) n).writeBack n

/-- Read and check the next command; `again` is a re-read. A read that the host link holds leaves everything as it is (10 R314). -/
def State.fetchOne (s : State) (n : Nat) (again : Bool) : State :=
  let x := s.stream n
  match fetchPlace x with
  | none => s
  | some k =>
    let i := (x.head.toNat + k) % 2 ^ x.clog2
    let a := x.cring.toNat + 64 * i
    match readMem s none a 64 with
    | .error .wait => s
    | .error .lost => s.ringReadLost n
    | .error _ => ((s.useEntry n).noLocation none a).faultStream n 1
    | .ok b =>
      if seqPhaseOk x k b then
        match s.takeUp b with
        | none => s
        | some (f, s1) =>
          let since := if x.fetched.isEmpty && x.waited.isNone then some 0 else x.waited
          (s1.useEntry n).modStream n (fun x => { x with fetched := x.fetched ++ [f], retrying := false, rereads := 0, waited := since })
      else if again then
        let r := x.rereads + 1
        if 8 ≤ r then ((s.useEntry n).modStream n (fun x => { x with stuck := true, retrying := false, rereads := 0 })).event 0x0301 n i
        else (s.useEntry n).modStream n (fun x => { x with rereads := r, readAt := s.time })
      else (s.useEntry n).modStream n (fun x => { x with retrying := true, rereads := 0, readAt := s.time })

def execCommandFetch (stream : Nat) (s : State) : Host.Outcome State Fault Refusal :=
  ok (s.live (fun s => let x := s.stream stream; if x.stuck || x.retrying then s else s.fetchOne stream false))

/-- A re-read, 1 µs after the failing one (R284). -/
def execCommandReread (stream : Nat) (s : State) : Host.Outcome State Fault Refusal :=
  ok (s.live (fun s =>
    let x := s.stream stream
    if x.retrying && !x.stuck then (s.advanceTo (x.readAt + 1200)).fetchOne stream true else s))

/-- The command completes at its admission tick. -/
def State.completeNow (s : State) (n : Nat) (c : Cmd) (st : Status) (result : W64) : State :=
  (s.modCmd n c.seq (fun d => d.finish st 0 result c.tick)).recordsNow n

/-! ## NOP, FENCE, SIGNAL, WAIT (R286, R293, R294) -/

def execNop (stream : Nat) (s : State) : Host.Outcome State Fault Refusal :=
  ok (s.live (fun s => match nextOf s stream 0 with | some c => s.completeNow stream c .ok 0 | none => s))

def execFence (stream : Nat) (s : State) : Host.Outcome State Fault Refusal :=
  ok (s.live (fun s => match nextOf s stream 7 with | some c => s.completeNow stream c .ok 0 | none => s))

/-- Add to a counter, modulo 2^64 (R294): how that went. A counter at no location takes nothing (08 R233). -/
def State.addSignal (s : State) (a : Nat) (v : Nat) : Status × State :=
  if locate s a == .mem then (.ok, s.wrN a 8 ((s.rdN a 8 + v) % 2 ^ 64)) else (.busError, s.noLocation none a)

def execSignal (stream : Nat) (s : State) : Host.Outcome State Fault Refusal :=
  ok (s.live (fun s =>
    match nextOf s stream 8 with
    | some c => let r := s.addSignal (bytesN c.bytes 8 8) (bytesN c.bytes 0x10 8); r.2.completeNow stream c r.1 0
    | none => s))

/-- A WAIT accepted because its counter held. -/
def execWait (stream : Nat) (s : State) : Host.Outcome State Fault Refusal :=
  ok (s.live (fun s =>
    match nextOf s stream 9 with
    | some c => if c.timedOut then s else s.completeNow stream c .ok c.waitVal
    | none => s))

/-- A WAIT accepted because its timeout had passed. -/
def execWaitTimeout (stream : Nat) (s : State) : Host.Outcome State Fault Refusal :=
  ok (s.live (fun s =>
    match nextOf s stream 9 with
    | some c => if c.timedOut then s.completeNow stream c .stopped c.waitVal else s
    | none => s))

/-! ## RUN (R288) and its footprint (08 R252) -/

/-- The argument block. -/
def argBlock (n slot : Nat) (c : Cmd) : List Byte :=
  leBytes 2 n ++ leBytes 2 c.seq.toNat ++ (c.bytes.drop 4).take 4 ++ [c.bytes.getD 8 0, BitVec.ofNat 8 slot, 0, 0, 0, 0, 0, 0] ++ (c.bytes.drop 0x10).take 48

/-- The argument block of a RUN is written; at no location it takes nothing, and the program meets BUS_ERROR (R288; 08 R233). -/
def State.runStart (s : State) (n : Nat) (c : Cmd) : State :=
  let p := (s.stream n).part.toNat
  match (s.part p).slots.find? (fun u => u.stream = n && u.seq = c.seq) with
  | none => s
  | some u =>
    let a := s.stm.argBase.toNat + 4096 * p + 64 * u.slot
    let s1 := s.startCmd n c.seq
    if locate s a == .mem then s1.wr a (argBlock n u.slot c)
    else (s1.noLocation none a).modPart p (fun q => { q with slots := q.slots.map (fun v => if v.slot = u.slot then { v with busErr := true } else v) })

def execRun (stream : Nat) (s : State) : Host.Outcome State Fault Refusal :=
  ok (s.live (fun s => match nextOf s stream 1 with | some c => s.runStart stream c | none => s))

/-- A RUN whose footprint has not reached the engines. -/
def Cmd.unpinned (c : Cmd) : Bool :=
  opOf c = 1 && !c.pinned && (match c.phase with | .admitted | .started => true | _ => false)

def State.footprintPin (s : State) (n : Nat) (c : Cmd) : State :=
  let p := (s.stream n).part.toNat
  match programOf s p (byteAt c.bytes 8) with
  | none => s
  | some g =>
    let r := s.pinAll p (footprint s g) []
    r.2.modCmd n c.seq (fun c => { c with pins := r.1, pinned := true })

/-- The earliest admitted RUN of a partition whose footprint has not reached the engines (R252): its place in the order of admissions. -/
def nextPin (s : State) (p : Nat) : Option Nat :=
  (s.stm.streams.flatMap (fun e => if e.2.part.toNat = p then (e.2.cmds.filter Cmd.unpinned).map (·.adm) else [])).min?

/-- Footprints are sent at the admission tick and reach the engines in admission order (R252): a RUN behind another of its partition has no turn yet. -/
def execFootprintPin (stream : Nat) (s : State) : Host.Outcome State Fault Refusal :=
  ok (s.live (fun s => match (s.stream stream).cmds.find? Cmd.unpinned with
    | some c => if nextPin s (s.stream stream).part.toNat = some c.adm then (s.advanceTo c.tick).footprintPin stream c else s
    | none => s))

/-! ## HINT (08 R257 to R259) -/

/-- A RUN of the partition admitted no later than `tick` has its footprint still on its way (R252). -/
def pinsDue (s : State) (p tick : Nat) : Bool :=
  s.stm.streams.any (fun e => e.2.part.toNat = p && e.2.cmds.any (fun c => c.unpinned && decide (c.tick ≤ tick)))

/-- The page is still on its way for the hint of stream `n` and SEQ `sq`. -/
def stillMoving (s : State) (n : Nat) (sq : BitVec 16) (p : Nat) (copy : Bool) (g : Nat) : Bool :=
  if copy then
    [0, 1, 2, 3].any (fun d => let m := s.migOf d
      (m.running ++ m.waiting).any (fun c => c.part = p && c.page = g && (match c.kind with | .hint _ k q => k = n && q = sq | _ => false)))
  else (readLeaf s p g).any (fun l => l.state = 5 || l.state = 6)

/-- Pages that a unit gave up at once are refused. -/
def settleGone (s : State) (n p : Nat) (copy : Bool) (c : Cmd) : Cmd :=
  let gone := c.hWait.filter (fun g => !stillMoving s n c.seq p copy g)
  { c with hWait := c.hWait.filter (stillMoving s n c.seq p copy), hRef := c.hRef + gone.length }

def State.hintStart (s : State) (n : Nat) (c : Cmd) (h : Hint) : State :=
  let p := (s.stream n).part.toNat
  let copy := decide (h.op = 7)
  let r := s.hintPages n p h h.count 0 { c with phase := .started, hCopy := copy }
  let d := (settleGone r.1 n p copy r.2).hintEnd
  r.1.modCmd n c.seq (fun _ => d)

/-- Carry out the stream's next HINT, at its admission tick (R259), if it has this operation. -/
def State.hint (s : State) (n op : Nat) : State :=
  match nextOf s n 6 with
  | none => s
  | some c =>
    let h := hintOf ((c.bytes.drop 8).take 32)
    if h.op = op ∧ !pinsDue s (s.stream n).part.toNat c.tick then (s.advanceTo c.tick).hintStart n c h else s

def execMap (stream : Nat) (s : State) : Host.Outcome State Fault Refusal := ok (s.live (fun s => s.hint stream 1))
def execUnmap (stream : Nat) (s : State) : Host.Outcome State Fault Refusal := ok (s.live (fun s => s.hint stream 2))
def execPlace (stream : Nat) (s : State) : Host.Outcome State Fault Refusal := ok (s.live (fun s => s.hint stream 3))
def execEvict (stream : Nat) (s : State) : Host.Outcome State Fault Refusal := ok (s.live (fun s => s.hint stream 4))
def execDropb (stream : Nat) (s : State) : Host.Outcome State Fault Refusal := ok (s.live (fun s => s.hint stream 5))
def execAttr (stream : Nat) (s : State) : Host.Outcome State Fault Refusal := ok (s.live (fun s => s.hint stream 6))
def execCopy (stream : Nat) (s : State) : Host.Outcome State Fault Refusal := ok (s.live (fun s => s.hint stream 7))

/-! ## LOAD_BITSTREAM (R295) -/

def State.loadCmd (s : State) (n : Nat) (c : Cmd) : State :=
  (s.startCmd n c.seq).queueLoad
    { src := bytesN c.bytes 8 8, len := bytesN c.bytes 0x10 8, force := bitAt (byteAt c.bytes 0x18) 0, cmd := some (n, c.seq) }

def execLoadBitstream (stream : Nat) (s : State) : Host.Outcome State Fault Refusal :=
  ok (s.live (fun s => match nextOf s stream 0xA with | some c => s.loadCmd stream c | none => s))

end Sys2Proof.Machine
end

