-- ==== Sys2Proof/Machine/Block.lean ====
section
/-! DEFINITION. Block-scaled numbers: element encodings, the UE4M3 fine scale, conversion and pieces (02). -/
namespace Sys2Proof.Machine

/-- An element encoding (R43). -/
structure Enc where
  width : Nat
  mant  : Nat
  bias  : Nat
deriving DecidableEq, Repr

def encE3M2 : Enc := ⟨6, 2, 3⟩
def encE2M3 : Enc := ⟨6, 3, 1⟩
def encE2M1 : Enc := ⟨4, 1, 1⟩

/-- Value of an element code (R43, R44). -/
def Enc.value (c : Enc) (x : Nat) : Num :=
  let neg := x.testBit (c.width - 1)
  let mag := x % 2 ^ (c.width - 1)
  let e := mag / 2 ^ c.mant
  let m := mag % 2 ^ c.mant
  if e = 0 then .fin neg m (1 - (c.bias : Int) - c.mant)
  else .fin neg (2 ^ c.mant + m) ((e : Int) - c.bias - c.mant)

/-- Largest magnitude code; magnitudes rise with the code. -/
def Enc.top (c : Enc) : Nat := 2 ^ (c.width - 1) - 1

/-- What a fine-scale byte means (R46). -/
inductive Fine where
  | value (v : Num)
  | poisoned
  | reserved
deriving DecidableEq, Repr

def fineOf (x : Byte) : Fine :=
  let n := x.toNat
  if n = 0xFF then .poisoned
  else if 0x80 ≤ n then .reserved
  else if n / 8 = 0 then .value (.fin false (n % 8) (-9))
  else .value (.fin false (8 + n % 8) ((n / 8 : Nat) - 10))

/-- Value of a value code. -/
def fineNum (n : Nat) : Num :=
  match fineOf (BitVec.ofNat 8 n) with
  | .value v => v
  | _ => .nan

/-- Two finite magnitudes brought to one exponent. -/
def align (a b : Num) : Nat × Nat :=
  match a, b with
  | .fin _ m1 e1, .fin _ m2 e2 =>
    let q := if e1 ≤ e2 then e1 else e2
    (m1 <<< (e1 - q).toNat, m2 <<< (e2 - q).toNat)
  | _, _ => (0, 0)

/-- The largest magnitude code whose value × s is at most x, searched downward from `k`. -/
def gridBelow (c : Enc) (s x : Num) : Nat → Nat
  | 0 => 0
  | k + 1 => if ((c.value (k + 1)).mul s).le x then k + 1 else gridBelow c s x k

/-- Round the exact quotient x / s to an element code (R50, R51); `r` is the random number of stochastic rounding. -/
def roundElem (c : Enc) (s : Num) (r : Option Nat) (x : Num) : Nat :=
  let neg := x.isNeg
  let a := x.mag
  let lo := if a.isInf then c.top else gridBelow c s a c.top
  let mag :=
    if lo = c.top then lo
    else
      let gl := (c.value lo).mul s
      let gh := (c.value (lo + 1)).mul s
      let num := a.add gl.negate
      let den := gh.add gl.negate
      let p := align num den
      match r with
      | some r => if r < 65536 * p.1 / p.2 then lo + 1 else lo
      | none => if p.2 < 2 * p.1 then lo + 1 else if 2 * p.1 = p.2 then (if lo % 2 = 0 then lo else lo + 1) else lo
  if mag = 0 then 0 else if neg then 2 ^ (c.width - 1) + mag else mag

/-- One converted block (R50): its fine scale and element codes. -/
structure BlockOut where
  code  : Byte
  elems : List (BitVec 6)
  sat   : Bool := false
deriving DecidableEq, Repr

/-- The block a conversion writes when it poisons (R57). -/
def poisonBlock (n : Nat) : BlockOut := { code := 0xFF, elems := List.replicate n 0 }

/-- The larger of the magnitudes of a list. -/
def maxMag (l : List Num) : Num := l.foldl (fun b x => if b.lt x.mag then x.mag else b) (.fin false 0 0)

/-- Convert a block of values already divided by the coarse scale, none of them NaN (R50); `rs` are the lanes' random
numbers, empty for round to nearest. -/
def convertBlock (c : Enc) (rs : List Nat) (xs : List F32) : BlockOut :=
  let vs := xs.map f32
  let b := maxMag vs
  if b.isZero then { code := 0, elems := xs.map (fun _ => 0) }
  else
    let fit := (List.range 127).find? (fun k => b.le ((fineNum (k + 1)).mul (c.value c.top)))
    let code := match fit with | some k => k + 1 | none => 127
    let s := fineNum code
    { code := BitVec.ofNat 8 code, sat := fit.isNone,
      elems := vs.zipIdx.map (fun p => BitVec.ofNat 6 (roundElem c s (if rs.isEmpty then none else some (rs.getD p.2 0)) p.1)) }

/-- Value of an element of a converted block as FP32 (R48 without the coarse scale; R52): exact. -/
def elemVal (c : Enc) (code : Byte) (e : BitVec 6) : F32 :=
  match fineOf code with
  | .value v => toF32 ((c.value e.toNat).mul v)
  | _ => qnan

/-- The pieces of a block (R52): every piece but the last rounds to nearest. -/
def convertPieces (c : Enc) (rs : List Nat) : Nat → List F32 → List BlockOut
  | 0, _ => []
  | 1, xs => [convertBlock c rs xs]
  | k + 2, xs =>
    let o := convertBlock c [] xs
    let res := (xs.zip o.elems).map (fun p => fsub p.1 (elemVal c o.code p.2))
    o :: convertPieces c rs (k + 1) res

/-- Whether a value is NaN or infinite. -/
def Num.notFinite (x : Num) : Bool := x.isNan || x.isInf

/-- Convert a block of values with a coarse scale into `k` pieces (R49, R50, R52, R57). -/
def convertValues (c : Enc) (k : Nat) (coarse : F32) (rs : List Nat) (x : List Num) : List BlockOut :=
  if !goodScale coarse || x.any Num.notFinite then List.replicate k (poisonBlock x.length)
  else convertPieces c rs k (x.map (fun v => BitVec.ofNat 32 (divNum fmt32 .toInf v (f32 coarse))))

/-- Running maximum of a register over inputs (R56): NaN stays, infinity and subnormals count. A value whose exact magnitude lies beyond the FP32
range leaves infinity in the register, which the manual does not say (notes/assumptions/63.md). -/
def runMax (r : F32) (xs : List Num) : F32 :=
  xs.foldl (fun r x => if (f32 r).isNan || x.isNan then qnan else toF32 ((f32 r).max x.mag)) r

/-- The module's own choice of a coarse scale (R49). -/
def chooseCoarse (c : Enc) (amax : F32) : F32 :=
  match f32 amax with
  | .fin _ m e =>
    if m = 0 then fone
    else
      -- ceil(log2(amax / (Emax × 256))) by exact comparison
      let lim := (c.value c.top).mul (.fin false 256 0)
      let k0 : Int := (bitLen m : Int) + e - 8 - 8
      let k := ((List.range 12).find? (fun (i : Nat) => (Num.fin false m e).le (lim.mul (.fin false 1 (k0 + (i : Int)))))).getD 12
      let ex : Int := k0 + (k : Int)
      let ex := if ex < -126 then -126 else if 127 < ex then 127 else ex
      toF32 (.fin false 1 ex)
  | _ => fone

end Sys2Proof.Machine
end

