-- ==== Sys2Proof/Machine/Operands.lean ====
section
/-! DEFINITION. Operand forms: the 128-bit schedule word and its four bodies, and the 64-bit vector instruction (05 R127, R131,
R135, R137, R142, R148). -/
namespace Sys2Proof.Machine

/-- Fields of a vector instruction, and its OPC (R148). -/
def vargsOf (w : Nat) : VArgs :=
  { i := bitAt w 63, vd := BitVec.ofNat 5 (w >>> 51), va := BitVec.ofNat 5 (w >>> 46), vb := BitVec.ofNat 5 (w >>> 41),
    vc := BitVec.ofNat 5 (w >>> 36), msk := BitVec.ofNat 3 (w >>> 33), mz := bitAt w 32, imm := BitVec.ofNat 32 w }
def opcOf (w : Nat) : BitVec 7 := BitVec.ofNat 7 (w >>> 56)

/-- MAC body (R131). -/
def macOf (w : Nat) : MacArgs :=
  { arrg := BitVec.ofNat 2 (w >>> 60), pmode := BitVec.ofNat 2 (w >>> 58), aenc := BitVec.ofNat 2 (w >>> 56),
    wenc := BitVec.ofNat 2 (w >>> 54), chain := bitAt w 53, xpose := bitAt w 52, noload := bitAt w 51, side := bitAt w 50,
    split := BitVec.ofNat 6 (w >>> 44), asel := BitVec.ofNat 2 (w >>> 42), rbase := BitVec.ofNat 7 (w >>> 35),
    rcnt := BitVec.ofNat 7 (w >>> 28), wline := BitVec.ofNat 11 (w >>> 17), aline := BitVec.ofNat 11 (w >>> 6),
    ring := BitVec.ofNat 4 (w >>> 2) }

/-- Drain body (R135). -/
def drainOf (w : Nat) : DrainArgs :=
  { arrg := BitVec.ofNat 2 (w >>> 60), dfmt := BitVec.ofNat 2 (w >>> 58), benc := BitVec.ofNat 2 (w >>> 56),
    axis := bitAt w 55, sr := bitAt w 54, maxr := BitVec.ofNat 3 (w >>> 51), pieces := BitVec.ofNat 2 (w >>> 49),
    side := bitAt w 48, csreg := BitVec.ofNat 4 (w >>> 44), cvreg := BitVec.ofNat 4 (w >>> 40), asel := BitVec.ofNat 2 (w >>> 38),
    rbase := BitVec.ofNat 7 (w >>> 31), rcnt := BitVec.ofNat 7 (w >>> 24), dline := BitVec.ofNat 11 (w >>> 13),
    mrec := BitVec.ofNat 12 (w >>> 1) }

/-- MOV body less MOP (R137). -/
def movOf (w : Nat) : MovArgs :=
  { loc := bitAt w 59, loff := BitVec.ofNat 16 (w >>> 43), base := BitVec.ofNat 4 (w >>> 39), roff := BitVec.ofNat 18 (w >>> 21),
    lines := BitVec.ofNat 8 (w >>> 13), free := BitVec.ofNat 13 w }

/-- SYN body less SOP (R142). -/
def synOf (w : Nat) : SynArgs :=
  { tgt := BitVec.ofNat 14 (w >>> 46), ctr := BitVec.ofNat 4 (w >>> 42), val := BitVec.ofNat 16 (w >>> 26),
    qid := BitVec.ofNat 6 (w >>> 20), cmask := BitVec.ofNat 16 (w >>> 4) }

/-- Header of a schedule word, from bits 127:64 (R127). -/
def hdrOf (w : Nat) : WordHdr :=
  { offset := BitVec.ofNat 32 (w >>> 30), reps := BitVec.ofNat 10 (w >>> 20), rgap := BitVec.ofNat 10 (w >>> 10),
    pflag := BitVec.ofNat 3 (w >>> 7), pinv := bitAt w 6, slot := BitVec.ofNat 6 w }

/-- Body of a schedule word of class `cls`. -/
def bodyOf (cls w : Nat) : Word :=
  match cls with
  | 0 => match fieldNat w 63 62 with
    | 0 => .mac (macOf w)
    | 1 => .drain (drainOf w)
    | _ => .reserved
  | 1 => .vec (opcOf w) (vargsOf w)
  | 2 => .mov (BitVec.ofNat 4 (w >>> 60)) (movOf w)
  | _ => .syn (BitVec.ofNat 4 (w >>> 60)) (synOf w)

/-- A schedule word from its 16 bytes (R127). -/
def wordOf (l : List Byte) : SWord :=
  let b := bytesN l 0 8
  let h := bytesN l 8 8
  { h := hdrOf h, w := bodyOf (fieldNat h 63 62) b }

end Sys2Proof.Machine
end

