-- ==== Sys2Proof/Machine/Cores.lean ====
section
/-! DEFINITION. What every schedule word shares (05 R127 to R130, R157): issue order, predicates, slots, the core store;
then the matrix arrays, drains and the conversion unit (03, 05 R131 to R136, R153). -/
namespace Sys2Proof.Machine

/-! ## Slots and the status of their commands -/

/-- Change the slot's command in the partition of core `c`. -/
def State.modSlot (s : State) (c : Nat) (slot : BitVec 6) (f : SlotUse → SlotUse) : State :=
  match partOfCluster s (clusterOfCore c) with
  | none => s
  | some p => s.modPart p (fun q => { q with slots := q.slots.map (fun u => if u.slot = slot.toNat then f u else u) })

def State.markBusErr (s : State) (c : Nat) (slot : BitVec 6) : State := s.modSlot c slot (fun u => { u with busErr := true })
def State.markBadOp (s : State) (c : Nat) (slot : BitVec 6) : State := s.modSlot c slot (fun u => { u with badOp := true })
def State.markPoison (s : State) (c : Nat) (slot : BitVec 6) : State := s.modSlot c slot (fun u => { u with poison := true })
def State.markHostLost (s : State) (c : Nat) (slot : BitVec 6) : State := s.modSlot c slot (fun u => { u with hostLost := true })

/-- A reserved encoding: code 0x0A40 with the cycle offset, and BAD_OPCODE for the slot's command (R157). -/
def State.reservedWord (s : State) (c : Nat) (h : WordHdr) : State :=
  (s.event 0x0A40 c h.offset.toNat).markBadOp c h.slot

/-! ## The compute stream (R129) -/

/-- Scheduled cycle of the word's next issue. -/
def SWord.sched (x : SWord) : Nat := x.eff + x.rep * Max.max 1 x.h.rgap.toNat

/-- The words before the ninth repeated one, which the sequencer tracks, and that ninth word (R129). -/
def tracked : Nat → List SWord → List SWord × Option SWord
  | _, [] => ([], none)
  | k, x :: xs =>
    if x.h.reps = 0 then (match tracked k xs with | (l, n) => (x :: l, n))
    else match k with
      | 0 => ([], some x)
      | k + 1 => (match tracked k xs with | (l, n) => (x :: l, n))

/-- The next issue among the words that `may` issue: earliest scheduled cycle, in stream order among equals; position in the stream and
the word. -/
def nextIssue (may : SWord → Bool) : Nat → List SWord → Option (Nat × SWord)
  | _, [] => none
  | i, x :: xs =>
    match nextIssue may (i + 1) xs with
    | none => if may x then some (i, x) else none
    | some (j, y) => if may x && decide (x.sched ≤ y.sched) then some (i, x) else some (j, y)

/-- While a ninth repeated word waits, the tracked words go on, and every other issue at or after its first cycle is held (R129). -/
def notHeld (ninth : Option SWord) (x : SWord) : Bool := x.h.reps ≠ 0 || ninth.all (fun y => decide (x.sched < y.sched))

/-- The issue that takes place next in a core. -/
def headIssue (k : Core) : Option (Nat × SWord) :=
  let t := tracked 8 k.compute
  nextIssue (notHeld t.2) 0 t.1

/-- Count one issue of the word at position `i`: the word leaves after its last one. -/
def afterIssue (ws : List SWord) (i : Nat) : List SWord :=
  match ws[i]? with
  | none => ws
  | some x => if x.h.reps.toNat ≤ x.rep then ws.eraseIdx i else ws.set i { x with rep := x.rep + 1 }

/-- Every word of the frame has been read into the schedule buffer (04 R122). -/
def allRead (k : Core) : Bool := k.feeds.all (fun f => f.left = 0)

/-- Every issue scheduled before cycle `t` has been made (R139), those of waiting and of unread words among them. -/
def issuedBefore (k : Core) (t : Int) : Bool :=
  k.compute.all (fun x => decide (t ≤ (x.sched : Int))) && (allRead k || decide (t ≤ (k.lastEff : Int)))

/-- A fetch with OFFSET at or below cycle `t` is not complete: the issue waits at its need point (04 R110, R139). -/
def needsFetch (k : Core) (t : Nat) : Bool :=
  k.movement.any (fun x => (match x.w with | .mov 0 _ => true | _ => false) && decide (x.h.offset.toNat ≤ t))
    || k.fetches.any (fun m => decide (m.h.offset.toNat ≤ t))

/-- A compute issue of the frame is scheduled at or after `t`: a fetch with that OFFSET has a need point (R139). -/
def hasNeed (k : Core) (t : Nat) : Bool :=
  !allRead k || k.compute.any (fun x => decide (t ≤ x.eff + x.h.reps.toNat * Max.max 1 x.h.rgap.toNat))

/-- The predicate of a word (R130). -/
def predOk (k : Core) (h : WordHdr) : Bool := k.f.toNat.testBit h.pflag.toNat != h.pinv

/-- A core runs schedule words only in a frame of its cluster (04 R122 to R125). -/
def runsWords (s : State) (c : Nat) : Bool := s.alive && decide (c < 10240) && (s.cluster (clusterOfCore c)).frameOn

/-- Cycle offset 0 of the core's frame (04 R123). -/
def frameBase (s : State) (c : Nat) : Nat :=
  match partOfCluster s (clusterOfCore c) with
  | none => s.time
  | some p => (s.part p).lastTick + 1200

/-! ### The schedule buffer (04 R122; 05 R128, R129; 07 R205) -/

def SWord.moves (x : SWord) : Bool := match x.w with | .mov _ _ => true | _ => false

/-- A MOV word with a reserved MOP (R137). -/
def SWord.badMove (x : SWord) : Bool :=
  match x.w with
  | .mov mop _ => !(decide (mop.toNat ≤ 3) || mop = 8)
  | _ => false

/-- The slot whose next word comes next: least place, the lower slot first; its position, place and word. -/
def nextFeed (s : State) : Nat → List Feed → Option (Nat × Nat × SWord)
  | _, [] => none
  | i, f :: fs =>
    if f.left = 0 then nextFeed s (i + 1) fs
    else
      let w := { wordOf (s.rd f.addr 16) with dead := f.dead }
      let k := Max.max f.place w.h.offset.toNat
      match nextFeed s (i + 1) fs with
      | none => some (i, k, w)
      | some r => if k ≤ r.2.1 then some (i, k, w) else some r

/-- Read one word into the buffer: it goes to the compute stream with its first scheduled cycle, or to the movement stream. -/
def Core.take (k : Core) (i place : Nat) (w : SWord) : Core :=
  let k1 := { k with feeds := k.feeds.modify i (fun f => { f with addr := f.addr + 16, left := f.left - 1, place := place }) }
  if w.moves then
    { k1 with nextIdx := k.nextIdx + 1, movement := if w.badMove then k.movement else k.movement ++ [{ w with idx := k.nextIdx }] }
  else
    let e := Max.max k.lastEff w.h.offset.toNat
    { k1 with lastEff := e, compute := k.compute ++ [{ w with eff := e }] }

/-- Fill the schedule buffer of 256 words (04 R122; notes/assumptions/57.md). -/
def State.refill (s : State) (c : Nat) : Nat → State
  | 0 => s
  | n + 1 =>
    let k := s.core c
    if 256 ≤ k.compute.length + k.movement.length then s
    else
      match nextFeed s 0 k.feeds with
      | none => s.modCore c (fun k => { k with landed := k.landed.filter (fun l => hasNeed k l.2) })
      | some (i, place, w) =>
        let s1 := s.modCore c (fun k => k.take i place w)
        State.refill (if w.badMove && !w.dead then s1.reservedWord c w.h else s1) c n

def State.readAhead (s : State) (c : Nat) : State := if (s.core c).feeds.isEmpty then s else s.refill c 257

/-! ### Registers of a word and their latencies (R150, R154) -/

def vKey (r : BitVec 5) : Nat := r.toNat
def mKey (i : Nat) : Nat := 32 + i % 8
def sKey (r : BitVec 5) : Nat := 48 + r.toNat % 16
def fKey (i : Nat) : Nat := 64 + i % 8

/-- Registers a vector instruction writes in a core, its operands, its latency and its interval (R150). S[a] of an SST with POST may be read after
1 cycle: R150 gives that row no latency (DESIGN CHOICE, notes/assumptions/58.md). -/
def vecUse (o : BitVec 7) (x : VArgs) : List Nat × List Nat × Nat × Nat :=
  let b := if x.i then [] else [vKey x.vb]
  let sb := if x.i then [] else [sKey x.vb]
  let pst := if x.vb.toNat % 2 = 1 then [sKey x.va] else []
  let n := o.toNat
  let u : List Nat × List Nat × Nat × Nat :=
    if n = 0 then ([], [], 0, 1)
    else if n = 4 || n = 5 || n = 8 then ([vKey x.vd], [vKey x.va, vKey x.vc] ++ b, 4, 1)
    else if n ≤ 7 then ([vKey x.vd], vKey x.va :: b, 4, 1)
    else if n ≤ 0x0B then ([vKey x.vd], [vKey x.va], 4, 1)
    else if n = 0x0C then ([vKey x.vd], vKey x.va :: b, 12, 4)
    else if n ≤ 0x0F then ([vKey x.vd], [vKey x.va], 12, 4)
    else if n ≤ 0x14 then ([vKey x.vd], [vKey x.va], 10, 2)
    else if n = 0x15 then ([vKey x.vd], [vKey x.va, mKey x.vc.toNat] ++ b, 4, 1)
    else if n = 0x16 then ([vKey x.vd], if x.i then [] else [vKey x.va], 4, 1)
    else if n ≤ 0x23 then ([mKey x.vd.toNat], vKey x.va :: b, 3, 1)
    else if n ≤ 0x2A then ([mKey x.vd.toNat], [mKey x.va.toNat, mKey x.vb.toNat], 1, 1)
    else if n = 0x2B then ([mKey x.vd.toNat], [mKey x.va.toNat], 1, 1)
    else if n = 0x2C then ([mKey x.vd.toNat], [], 1, 1)
    else if n = 0x2D then ([sKey x.vd], [mKey x.va.toNat], 3, 1)
    else if n = 0x2E then ([fKey x.vd.toNat], [mKey x.va.toNat], 2, 1)
    else if n ≤ 0x34 then ([sKey x.vd], [vKey x.va], 8, 1)
    else if n = 0x35 then ([vKey x.vd], [sKey x.va], 2, 1)
    else if n = 0x36 then ([vKey x.vd], [], 1, 1)
    else if n ≤ 0x39 then ([vKey x.vd], [vKey x.va], 4, 1)
    else if n = 0x40 || n = 0x42 then (vKey x.vd :: pst, [sKey x.va], 6, 1)
    else if n = 0x41 then (pst, [vKey x.vd, sKey x.va], 6, 1)
    else if n = 0x45 then (sKey x.vd :: pst, [sKey x.va], 6, 1)
    else if n = 0x46 then (pst, [sKey x.vd, sKey x.va], 1, 1)
    else if n = 0x48 then ([], [sKey x.va, sKey x.vd, 48 + fieldNat x.imm.toNat 31 28], 0, 1)
    else if n = 0x50 then ([sKey x.vd], [], 1, 1)
    else if n ≤ 0x52 then ([sKey x.vd], sKey x.va :: sb, 1, 1)
    else if n = 0x53 then ([sKey x.vd], sKey x.va :: sb, 3, 1)
    else if n ≤ 0x55 then ([sKey x.vd], sKey x.va :: sb, 4, 1)
    else if n = 0x56 then ([sKey x.vd], sKey x.va :: sb, 12, 4)
    else ([], [], 0, 1)
  (u.1, u.2.1 ++ (if x.msk = 0 then [] else [mKey x.msk.toNat]), u.2.2)

/-- Registers a compute word writes and reads, its latency and its interval; the interval's row is the opcode's. -/
def wordUse : Word → List Nat × List Nat × Nat × Nat
  | .vec o x => vecUse o x
  | .drain f => ([], [48 + f.csreg.toNat] ++ (if f.dfmt = 3 then [48 + f.cvreg.toNat] else []), 0, 1)
  | _ => ([], [], 0, 1)

/-- Rows of the opcode table share an interval (R150). -/
def rowOf : Word → Option Nat
  | .vec o _ => let n := o.toNat
    some (if n = 0 then 0 else if n ≤ 8 then 1 else if n ≤ 0x0B then 9 else if n = 0x0C then 0x0C else if n ≤ 0x0F then 0x0D
      else if n ≤ 0x14 then 0x10 else if 0x51 ≤ n ∧ n ≤ 0x53 then 0x51 else if 0x54 ≤ n ∧ n ≤ 0x56 then 0x54 else n)
  | _ => none

/-- Class of a compute word: 0 ARR, 1 VEC, 2 SYN. -/
def Word.cls : Word → Nat
  | .vec _ _ => 1
  | .syn _ _ => 2
  | _ => 0

def maxOf (l : List Nat) : Nat := l.foldl Max.max 0

/-- End of a hold of the current guard: no core issues a word before it (17 R470; notes/assumptions/33.md). -/
def guardFloor (s : State) : Nat := if s.pwr.guardHeld then s.pwr.guardEnd else 0

/-- First cycle in which an issue scheduled at `sched` may take place, waits and interlocks apart (R129); none takes place before the end of
a hold of the current guard (17 R470). -/
def dueAt (s : State) (c : Nat) (w : Word) (sched : Nat) : Nat :=
  let k := s.core c
  maxOf [frameBase s c + sched, k.lastAt, tget 0 k.classAt w.cls, guardFloor s]

/-- Cycle from which the registers and the row of a word are free; `go` is false for a word without effect, which reads its flag only
(R130, R154). -/
def freeAt (k : Core) (h : WordHdr) (w : Word) (go : Bool) : Nat :=
  let u := wordUse w
  maxOf ((fKey h.pflag.toNat :: (if go then u.1 ++ u.2.1 else [])).map (tget 0 k.ready))

/-! ### Issues -/

/-- A SYN word that waited at WAIT, QGET or CBAR is counted with its wait (R145). -/
def State.noteWait (s : State) (c : Nat) (w : Word) (wait : Nat) : State :=
  match w with
  | .syn o _ => if (o = 1 || o = 3 || o = 5) && decide (0 < wait) then s.event 0x0A42 c wait else s
  | _ => s

/-- The cycle of the issue is reached: its due cycle, then the end of a register interlock, which is counted, and of the row's interval
(R129, R150, R154). -/
def State.reachIssue (s : State) (c : Nat) (h : WordHdr) (w : Word) (sched : Nat) (go : Bool) : State :=
  let due := dueAt s c w sched
  let s1 := if go then (s.advanceTo due).noteWait c w (s.time - due) else s.advanceTo due
  let lock := freeAt (s.core c) h w go
  let s2 := if s1.time < lock then (s1.event 0x0A41 c (lock - s1.time)).advanceTo lock else s1
  let row := match rowOf w with | some r => if go then tget 0 (s.core c).rowAt r else 0 | none => 0
  (s2.advanceTo row).modCore c (fun k =>
    { k with doneAt := (s2.advanceTo row).time, fresh := k.fresh.filter (fun e => decide ((s2.advanceTo row).time < e.1)) })

/-- What an issue leaves: its cycle, the end of a hold of it, the cycles from which others may issue and its results may be read, its place among
the issues made, and one more value drawn where a store is not yet visible (R129, R139, R154, R155). -/
def State.noteIssue (s : State) (c : Nat) (w : Word) (sched : Nat) (go : Bool) : State :=
  let u := wordUse w
  let t := Max.max s.time (s.core c).lastAt
  let lat := if go then u.2.2.1 else 0
  let s1 := s.modCore c (fun k =>
    let done := Max.max k.doneAt (t + lat)
    { k with
      issues := k.issues + 1, lastAt := t, doneAt := done, classAt := tset 0 k.classAt w.cls (t + 1),
      rowAt := match rowOf w with | some r => if go then tset 0 k.rowAt r (t + u.2.2.2) else k.rowAt | none => k.rowAt,
      ready := if go then u.1.foldl (fun r x => tset 0 r x (t + lat)) k.ready else k.ready,
      made := (sched, k.issues + 1, done) :: k.made })
  if (s1.core c).fresh.isEmpty then s1 else s1.drawNext

/-- The wait of a ninth repeated word ends when one of the tracked words has made its last issue (R129). -/
def State.noteNinth (s : State) (c : Nat) (before : Option SWord) : State :=
  match before with
  | none => s
  | some x =>
    let due := frameBase s c + x.sched
    if (tracked 8 (s.core c).compute).2 ≠ some x && decide (due < s.time) then s.event 0x0A45 c (s.time - due) else s

/-- Take one issue off a core's compute stream; fetches whose need point it was retire (04 R108), and the buffer reads ahead. -/
def State.popIssue (s : State) (c i : Nat) (t : Nat) : State :=
  let ninth := (tracked 8 (s.core c).compute).2
  ((s.modCore c (fun k => { k with compute := afterIssue k.compute i, landed := k.landed.filter (fun l => decide (t < l.2)) })).noteNinth
    c ninth).readAhead c

/-- An opcode of the vector table (R150). -/
def opcListed (o : BitVec 7) : Bool :=
  let n := o.toNat
  decide (n ≤ 0x16) || (decide (0x20 ≤ n) && decide (n ≤ 0x23)) || (decide (0x28 ≤ n) && decide (n ≤ 0x2E))
    || (decide (0x30 ≤ n) && decide (n ≤ 0x36)) || n = 0x38 || n = 0x39 || (decide (0x40 ≤ n) && decide (n ≤ 0x46)) || n = 0x48
    || (decide (0x50 ≤ n) && decide (n ≤ 0x56)) || (decide (0x60 ≤ n) && decide (n ≤ 0x66))

/-- A compute word that no operation names: a reserved AOP, SOP or OPC (R157). -/
def Word.nameless : Word → Bool
  | .reserved => true
  | .vec o _ => !opcListed o
  | .syn o _ => decide (5 < o.toNat)
  | _ => false

/-- Issue the nameless words that stand next in a core's compute stream, each at its cycle, not before its need point is met and its flag may be
read: it only counts and marks its command (R130, R154, R157). -/
def State.skipNameless (s : State) (c : Nat) : Nat → State
  | 0 => s
  | fuel + 1 =>
    let k := s.core c
    match headIssue k with
    | none => s
    | some (i, x) =>
      if x.w.nameless && !needsFetch k x.sched then
        let due := dueAt s c x.w x.sched
        let now := Max.max due (freeAt k x.h x.w false)
        let s0 := if due < now then s.event 0x0A41 c (now - due) else s
        let s1 := if predOk k x.h && !x.dead then s0.reservedWord c x.h else s0
        let s2 := s1.modCore c (fun k =>
          { k with issues := k.issues + 1, lastAt := now, classAt := tset 0 k.classAt x.w.cls (now + 1),
                   made := (x.sched, k.issues + 1, now) :: k.made })
        State.skipNameless (s2.popIssue c i x.sched) c fuel
      else s

/-- Issues that nameless words of a core still have to make. -/
def namelessLeft (k : Core) : Nat :=
  (k.compute.map (fun x => if x.w.nameless then x.h.reps.toNat + 1 else 0)).foldl (· + ·) 0 + 1024 * (k.feeds.map (·.left)).foldl (· + ·) 0
def State.skipAll (s : State) (c : Nat) : State :=
  if (headIssue (s.core c)).any (fun x => x.2.w.nameless) then s.skipNameless c (namelessLeft (s.core c)) else s

/-- The word an issue is of: with a loaded stream its next issue must be this one; with none, the command delivers the word
(notes/assumptions/11.md). Its position in the stream, if it has one, and the word. It waits at its need point (04 R110). -/
def issueOf (k : Core) (h : WordHdr) (w : Word) (rep : Option Nat) : Option (Option Nat × SWord) :=
  if k.compute.isEmpty then
    let x : SWord := { h := h, w := w, rep := rep.getD 0, eff := h.offset.toNat }
    if needsFetch k x.sched then none else some (none, x)
  else
    match headIssue k with
    | none => none
    | some (i, x) => if x.h = h && x.w = w && rep.all (fun r => decide (r = x.rep)) && !needsFetch k x.sched then some (some i, x) else none

/-- One issue of a compute word; `ready` is false while the word is held, `res` tells a reserved encoding, which waits for nothing but its flag and
whose `body` only counts it (R157), and `idle` is what an issue counts whose predicate fails or whose slot's USE clashed (R130, 07 R205). -/
def State.issue (s : State) (c : Nat) (h : WordHdr) (w : Word) (rep : Option Nat) (ready res : Bool) (idle body : State → State) : State :=
  if !runsWords s c then s
  else
    let k := s.core c
    match issueOf k h w rep with
    | none => s
    | some (i, x) =>
      let go := predOk k h && !x.dead
      let acts := go && !res
      if ready || !acts then
        let s0 := s.reachIssue c h w x.sched acts
        let s1 := (if go then body s0 else idle s0).noteIssue c w x.sched acts
        match i with
        | some i => (s1.popIssue c i x.sched).skipAll c
        | none => s1
      else s

/-- First scheduled cycle of the word that issues next: its OFFSET, or its predecessor's when that is higher (R129). -/
def effOf (k : Core) (h : WordHdr) : Nat := match headIssue k with | some (_, x) => x.eff | none => h.offset.toNat

/-! ## The core store -/

/-- A byte range of the core store, wrapping at its end. -/
def storeAddr (c off : Nat) : Nat := coreBase c + off % 0x20000
/-- Bytes of a core's store as its units see them: until a VEC store is visible, each aligned 8 bytes read as before it or after it
(R155; 01 R39). `es` are the stores not yet visible, newest first; byte `i` is read in cycle `now i`. -/
def unsettled (draw c : Nat) (now : Nat → Nat) (off : Nat) : List (Nat × Nat × List Byte) → List Byte → List Byte
  | [], l => l
  | e :: es, l =>
    let l1 := l.zipIdx.map (fun b =>
      let o := (off + b.2) % 0x20000
      let at_ := (o + 0x20000 - e.2.1) % 0x20000
      if decide (now b.2 < e.1) && decide (at_ < e.2.2.length) && (Config.raceByte draw (storeAddr c o / 8 * 2 ^ 64 + e.1)).getLsbD 0
        then e.2.2.getD at_ 0 else b.1)
    unsettled draw c now off es l1

/-- Bytes of the core store as they stand. -/
def rawStore (s : State) (c off n : Nat) : List Byte :=
  if off % 0x20000 + n ≤ 0x20000 then s.rd (storeAddr c off) n
  else let k := 0x20000 - off % 0x20000; s.rd (storeAddr c off) k ++ s.rd (coreBase c) (n - k)
/-- A read of the core store by a unit of its core, of byte `i` in cycle `now i` (R155). -/
def rdStoreAt (s : State) (c : Nat) (now : Nat → Nat) (off n : Nat) : List Byte :=
  unsettled s.draw c now (off % 0x20000) (s.core c).fresh (rawStore s c off n)
def rdStore (s : State) (c off n : Nat) : List Byte := rdStoreAt s c (fun _ => s.time) off n
def State.wrStore (s : State) (c off : Nat) (l : List Byte) : State :=
  if off % 0x20000 + l.length ≤ 0x20000 then s.wr (storeAddr c off) l
  else let k := 0x20000 - off % 0x20000; (s.wr (storeAddr c off) (l.take k)).wr (coreBase c) (l.drop k)
/-- A store of a VEC word: visible to every unit of the core 6 cycles after its issue (R155). -/
def State.vecStore (s : State) (c off : Nat) (l : List Byte) : State :=
  (s.modCore c (fun k => { k with fresh := (s.time + 6, off % 0x20000, rawStore s c off l.length) :: k.fresh })).wrStore c off l

/-- The range overlaps a failed buffer of the core (04 R113). -/
def inFailed (k : Core) (c off n : Nat) : Bool :=
  k.failBuf.any (fun b => decide (b.1 < storeAddr c off + n) && decide (storeAddr c off < b.1 + b.2))

/-- A line inside the ring of the word's starting line (R134). -/
def ringLine (ring start line : Nat) : Nat :=
  let n := if ring = 0 then 2048 else 2 ^ ring
  start / n * n + line % n

/-- `n` lines from `line` on, read through the ring; byte `i` of them is read in cycle `now i`. -/
def rdRing (s : State) (c : Nat) (now : Nat → Nat) (ring start line : Nat) : Nat → List Byte
  | 0 => []
  | n + 1 => rdStoreAt s c now (64 * ringLine ring start line) 64 ++ rdRing s c (fun i => now (i + 64)) ring start (line + 1) n

def failedRing (s : State) (c ring start line n : Nat) : Bool :=
  (List.range n).any (fun i => inFailed (s.core c) c (64 * ringLine ring start (line + i)) 64)

/-! ## Arrays: width and arrangement (03 R77 to R82, R85) -/

def arrQuad : BitVec 2 := 0
def arrPair : BitVec 2 := 1
def arrBrim : BitVec 2 := 2
def arrSolo : BitVec 2 := 3

/-- Column mask of array `a` of core `c` (R81); full while no map is loaded. -/
def colMask (s : State) (c a : Nat) : BitVec 16 := (s.cluster (clusterOfCore c)).widths.getD (4 * (c % 16) + a) 0xFFFF

/-- Physical columns in use, logical column 0 first. -/
def physCols (s : State) (c a : Nat) : List Nat := (List.range 16).filter (fun n => (colMask s c a).toNat.testBit n)

/-- Width an array presents; fewer than 8 columns retire it (R82). -/
def widthOf (s : State) (c a : Nat) : Nat :=
  let w := (physCols s c a).length
  if w < 8 then 0 else w

/-- Arrays a word drives (R77, R131). -/
def drivenArrays (arrg asel : BitVec 2) : List Nat :=
  match arrg.toNat with
  | 1 => if asel.toNat % 2 = 0 then [0, 1] else [2, 3]
  | 3 => [asel.toNat]
  | _ => [0, 1, 2, 3]

/-- The ASEL under which an arrangement drives array `a`. -/
def aselOf (arrg : BitVec 2) (a : Nat) : BitVec 2 := if arrg = arrPair then BitVec.ofNat 2 (a / 2) else if arrg = arrSolo then BitVec.ofNat 2 a else 0

/-- Presented width of each driven array (R78). -/
def presented (s : State) (c : Nat) (arrg asel : BitVec 2) : Nat :=
  let ws := (drivenArrays arrg asel).map (widthOf s c)
  if arrg = arrBrim then ws.foldl (· + ·) 0 else ws.foldl Min.min 16

/-- Column at which array `a` begins in brim. -/
def brimBase (s : State) (c a : Nat) : Nat := ((List.range a).map (widthOf s c)).foldl (· + ·) 0

/-- Some array the word needs is retired (R82). PAIR on a whole pair is run whatever the other pair has lost: the rule's list of reserved
encodings does not name that case (DESIGN CHOICE, notes/assumptions/58.md). -/
def needsRetired (s : State) (c : Nat) (arrg asel : BitVec 2) : Bool :=
  (drivenArrays arrg asel).any (fun a => widthOf s c a = 0)

/-- SPLIT is allowed (R85). -/
def splitOk (s : State) (c : Nat) (arrg asel : BitVec 2) (b : Nat) : Bool :=
  b = 0 || match arrg.toNat with
    | 1 => false
    | 2 => b = brimBase s c 1 || b = brimBase s c 2 || b = brimBase s c 3
    | _ => decide (b < presented s c arrg asel)

/-- Logical columns of a side: `[lo, hi)` (R85). -/
def sideCols (w split : Nat) (side : Bool) : Nat × Nat :=
  if split = 0 then (0, w) else if side then (split, w) else (0, split)

/-- Logical columns of array `a` that the side drives: array-local `[lo, hi)`. -/
def localCols (s : State) (c a : Nat) (arrg asel : BitVec 2) (split : Nat) (side : Bool) : Nat × Nat :=
  let (lo, hi) := sideCols (presented s c arrg asel) split side
  if arrg = arrBrim then
    let b := brimBase s c a
    let w := widthOf s c a
    (Max.max lo b - b, Min.min hi (b + w) - b)
  else (lo, hi)

/-! ## Images (R132) -/

def encOfCode (e : BitVec 2) : Enc := match e.toNat with | 0 => encE3M2 | 1 => encE2M3 | _ => encE2M1

/-- Bits `[i, i + n)` of a little-endian byte run. -/
def bitsAt (l : List Byte) (i n : Nat) : Nat := leNat l / 2 ^ i % 2 ^ n

/-- Parity of a weight register's content (03 R84). -/
def parityOf (x : BitVec 6) : Bool := (List.range 6).foldl (fun p i => p != x.getLsbD i) false

/-- A column as it is written, each weight register with its parity bit (03 R65, R84). -/
def colOf (enc : BitVec 2) (scale : Byte) (codes : List (BitVec 6)) : WCol :=
  { enc := enc, scale := scale, codes := codes, par := codes.map parityOf }

/-- The column's parity bits agree with its weights (03 R84). -/
def WCol.sound (w : WCol) : Bool := w.par = w.codes.map parityOf

/-- A weight set image as 16 columns. -/
def weightSet (fp4 : Bool) (enc : BitVec 2) (l : List Byte) : List WCol :=
  (List.range 16).map (fun n =>
    if fp4 then
      colOf enc (l.getD (0x80 + n) 0) ((List.range 8).flatMap (fun k =>
          let b := byteAt l (16 * k + n)
          [BitVec.ofNat 6 (b % 16), BitVec.ofNat 6 (b / 16)]))
    else
      colOf enc (l.getD (0x60 + n) 0) ((List.range 8).map (fun k => BitVec.ofNat 6 (bitsAt ((l.drop (12 * k)).take 12) (6 * n) 6))))

/-- The value-code ordering of fine scales is that of their bytes; the column scale of a transposed set (03 R90). -/
def columnScale (rows : List Byte) : Byte :=
  if rows.any (fun x => decide (0x80 ≤ x.toNat)) then 0xFF
  else BitVec.ofNat 8 (rows.foldl (fun m x => Max.max m x.toNat) 0)

/-- One weight of a transposed load against the column scale (03 R90). -/
def reblock (e : Enc) (row col : Byte) (code : Nat) : Nat :=
  if row = 0 then 0
  else if row = col then code
  else roundElem e (fineNum col.toNat) none ((e.value code).mul (fineNum row.toNat))

/-- The row scales of a transposed source (05 R132). -/
def rowScales (fp4 : Bool) (l : List Byte) : List Byte :=
  (List.range (if fp4 then 16 else 8)).map (fun k => l.getD ((if fp4 then 0x80 else 0x60) + k) 0)

/-- A transposed source as 16 columns, and how many weights were re-rounded (03 R89, R90; 05 R132). -/
def transposedSet (fp4 : Bool) (enc : BitVec 2) (l : List Byte) : List WCol × Nat :=
  let scales := rowScales fp4 l
  let col := columnScale scales
  let e := encOfCode enc
  let cols := (List.range 16).map (fun n =>
    let row := if fp4 then (l.drop (8 * n)).take 8 else (l.drop (6 * n)).take 6
    colOf enc col (scales.zipIdx.map (fun sk =>
         let raw := if fp4 then bitsAt row (4 * sk.2) 4 else bitsAt row (6 * sk.2) 6
         BitVec.ofNat 6 (if col = 0xFF then raw else reblock e sk.1 col raw))))
  let changed := if col = 0xFF then 0 else 16 * (scales.filter (fun x => x ≠ 0 && x ≠ col)).length
  (cols, changed)

/-- A vector image: element codes and fine scale (R132). -/
def vectorOf (fp4 : Bool) (l : List Byte) : List (BitVec 6) × Byte :=
  if fp4 then ((List.range 16).map (fun k => BitVec.ofNat 6 (bitsAt (l.take 8) (4 * k) 4)), l.getD 8 0)
  else ((List.range 8).map (fun k => BitVec.ofNat 6 (bitsAt (l.take 6) (6 * k) 6)), l.getD 6 0)

/-! ## Cells and the accumulator (03 R62, R63, R70 to R72) -/

/-- An element in units of 1/16, exact (R62). -/
def elemInt (e : BitVec 2) (code : BitVec 6) : Int :=
  match (encOfCode e).value (if e = 2 then code.toNat % 16 else code.toNat) with
  | .fin n m ex => let v : Int := (m <<< (ex + 4).toNat : Nat); if n then -v else v
  | _ => 0

/-- A column's exact partial sum in units of 1/256 (R62). Where a NOLOAD word's encodings give another operation than the one the active set was
loaded for, the shorter list ends the sum (DESIGN CHOICE, notes/assumptions/58.md). -/
def psum (we ae : BitVec 2) : List (BitVec 6) → List (BitVec 6) → Int
  | w :: ws, a :: as => elemInt we w * elemInt ae a + psum we ae ws as
  | _, _ => 0

/-- What one column contributes for one vector (R63): poison, or a partial sum with its scale product. -/
inductive Contribution where
  | poison
  | zero
  | sum (p : Int) (scale : Num)
deriving DecidableEq, Repr

def contribution (w : WCol) (ae : BitVec 2) (a : List (BitVec 6) × Byte) : Contribution :=
  if !w.sound then .poison
  else match fineOf w.scale, fineOf a.2 with
  | .value sw, .value sa => if sw.isZero || sa.isZero then .zero else .sum (psum w.enc ae w.codes a.1) (sa.mul sw)
  | _, _ => .poison

/-- acc + psum × (sa × sw), rounded once, saturating (R70, R72); the flag says it saturated. -/
def accAdd (acc : F32) (p : Int) (sc : Num) : F32 × Bool :=
  let v := (f32 acc).add ((Num.fin (decide (p < 0)) p.natAbs (-8)).mul sc)
  match v with
  | .fin _ m e => (toF32Sat v, foverflows fmt32 m e false)
  | _ => (toF32Sat v, false)

def accKey (a row col : Nat) : Nat := (a * 128 + row) * 16 + col
def rowKey (a row : Nat) : Nat := a * 128 + row

/-- Add one vector's results into row `row` of array `a`, for local columns `[lo, hi)`; a parity error was found in columns `par` (R84). -/
def addVector (k : Core) (a row lo hi : Nat) (ae : BitVec 2) (par : BitVec 16) (x : List (BitVec 6) × Byte) : Core :=
  (List.range (hi - lo)).foldl (fun k i =>
    let n := lo + i
    match if par.getLsbD n then .poison else contribution (tget {} k.act (a * 16 + n)) ae x with
    | .zero => k
    | .poison => { k with rows := tmod {} k.rows (rowKey a row) (fun r => { r with poison := r.poison ||| BitVec.ofNat 16 (2 ^ n) }) }
    | .sum p sc =>
      let r := accAdd (tget 0 k.acc (accKey a row n)) p sc
      let k1 := { k with acc := tset 0 k.acc (accKey a row n) r.1 }
      if r.2 then { k1 with rows := tmod {} k1.rows (rowKey a row) (fun q => { q with sat := q.sat ||| BitVec.ofNat 16 (2 ^ n) }) }
      else k1) k

/-- Load a set behind array `a` and swap columns `[lo, hi)` (R65, R66, R86). -/
def loadSwap (k : Core) (a lo hi : Nat) (w : List WCol) : Core :=
  let k1 := w.zipIdx.foldl (fun k cw => { k with bg := tset {} k.bg (a * 16 + cw.2) cw.1 }) k
  (List.range (hi - lo)).foldl (fun k i =>
    let key := a * 16 + lo + i
    let x := tget {} k.act key
    { k with act := tset {} k.act key (tget {} k.bg key), bg := tset {} k.bg key x }) k1

/-- Columns whose cells the marked vector of a side passes: those of the side, and beyond the width that QUAD or PAIR presents the rest of a
wider array's (R19, R66). -/
def swapCols (s : State) (c a : Nat) (arrg asel : BitVec 2) (split : Nat) (side : Bool) : Nat × Nat :=
  let (lo, hi) := localCols s c a arrg asel split side
  (lo, if arrg ≠ arrBrim && hi = presented s c arrg asel then widthOf s c a else hi)

/-- The reserved fine-scale codes of some scales, each recorded (02 R46). -/
def State.noteReserved (s : State) (c : Nat) (l : List Byte) : State :=
  (l.filter (fun x => decide (0x80 ≤ x.toNat) && decide (x ≠ 0xFF))).foldl (fun s x => s.event 0x0A12 c x.toNat) s

/-! ## MAC words (R131, R133, R134; 03 R75) -/

/-- PMODE as executed: the reserved value runs as 0b00 (03 R75). -/
def pmodeOf (f : MacArgs) : Nat := if f.pmode = 3 then 0 else f.pmode.toNat

/-- The reserved encodings of a MAC word (R157). -/
def macReserved (s : State) (c : Nat) (f : MacArgs) : Bool :=
  f.aenc = 3 || f.wenc = 3 || decide (11 < f.ring.toNat)
    || (pmodeOf f ≠ 0 && (f.noload || f.aenc = 2 || f.wenc = 2))
    || (f.side && f.split = 0)
    || decide (127 < f.rbase.toNat + f.rcnt.toNat)
    || needsRetired s c f.arrg f.asel
    || !splitOk s c f.arrg f.asel f.split.toNat

/-- The passes of a precision mode: weight piece, activation piece, and whether the pass loads its weights (03 R75). -/
def passesOf (pm : Nat) : List (Nat × Nat × Bool) :=
  match pm with
  | 1 => [(1, 0, true), (0, 1, true), (0, 0, false)]
  | 2 => [(2, 0, true), (1, 1, true), (1, 0, false), (0, 2, true), (0, 1, false), (0, 0, false)]
  | _ => [(0, 0, true)]

def macFp4 (f : MacArgs) : Bool := f.aenc = 2 && f.wenc = 2
/-- Lines of one weight set, sets the word reads per piece, pieces (R132). -/
def setLines (f : MacArgs) : Nat := if macFp4 f then 3 else 2
def setCount (f : MacArgs) : Nat := if f.arrg = arrBrim then 4 else 1
/-- Vector runs per piece, and lines of one run (R132). -/
def runCount (f : MacArgs) : Nat := if f.arrg = arrBrim then 1 else (drivenArrays f.arrg f.asel).length
def runLines (f : MacArgs) : Nat := ((f.rcnt.toNat + 1) * (if macFp4 f then 16 else 8) + 63) / 64
def pieceCount (f : MacArgs) : Nat := pmodeOf f + 1

/-- First line of set `q` of piece `i` in repetition `rep` (R132, R134). -/
def setLine (f : MacArgs) (rep i q : Nat) : Nat :=
  f.wline.toNat + rep * (pieceCount f * setCount f * setLines f) + (i * setCount f + q) * setLines f

/-- Cycle in which byte `i` of a weight set image is read: row k in cycle L + k, the scales and a transposed source in cycle L = `ld` (03 R65, R89;
05 R132). -/
def imageCycle (f : MacArgs) (ld i : Nat) : Nat :=
  if f.xpose then ld else if macFp4 f then (if i < 0x80 then ld + i / 16 else ld) else if i < 0x60 then ld + i / 12 else ld

/-- The image of a weight set, whose load starts in cycle `ld` (R155). -/
def macImage (s : State) (c : Nat) (f : MacArgs) (rep i q ld : Nat) : List Byte :=
  rdRing s c (imageCycle f ld) f.ring.toNat f.wline.toNat (setLine f rep i q) (setLines f)
def setFailed (s : State) (c : Nat) (f : MacArgs) (rep i q : Nat) : Bool :=
  failedRing s c f.ring.toNat f.wline.toNat (setLine f rep i q) (setLines f)

/-- The weight columns of set `q` of piece `i` in repetition `rep`, and how many weights were re-rounded. -/
def macSet (s : State) (c : Nat) (f : MacArgs) (rep i q ld : Nat) : List WCol × Nat :=
  let l := macImage s c f rep i q ld
  let r := if f.xpose then transposedSet (macFp4 f) f.wenc l else (weightSet (macFp4 f) f.wenc l, 0)
  if setFailed s c f rep i q then (r.1.map (fun w => { w with scale := 0xFF }), 0) else r

/-- The fine scales read with a set: one a column, or one a row of a transposed source (02 R46). -/
def setScales (s : State) (c : Nat) (f : MacArgs) (rep i q ld : Nat) : List Byte :=
  if setFailed s c f rep i q then []
  else
    let l := macImage s c f rep i q ld
    if f.xpose then rowScales (macFp4 f) l else (weightSet (macFp4 f) f.wenc l).map (·.scale)

/-- Vector `j` of run `q` of activation piece `i` in repetition `rep`, which enters in cycle `at_` (R155). -/
def macVector (s : State) (c : Nat) (f : MacArgs) (rep i q j at_ : Nat) : List (BitVec 6) × Byte :=
  let st := f.aline.toNat
  let vl := if macFp4 f then 16 else 8
  let line := st + rep * (pieceCount f * runCount f * runLines f) + (i * runCount f + q) * runLines f + j * vl / 64
  let ring := f.ring.toNat
  let l := rdStoreAt s c (fun _ => at_) (64 * ringLine ring st line + j * vl % 64) vl
  let x := vectorOf (macFp4 f) l
  if inFailed (s.core c) c (64 * ringLine ring st line) 64 then (x.1, 0xFF) else x

/-- Logical columns of array `a` in which a parity error was found for vector `j`; an error names the array, the physical column and the
vector (03 R84). -/
def parityMask (s : State) (c a j : Nat) (parity : List (Nat × Nat × Nat)) : BitVec 16 :=
  BitVec.ofNat 16 (((physCols s c a).zipIdx.filter (fun p => parity.contains (a, p.1, j))).foldl (fun m p => m + 2 ^ p.2) 0)

/-- One pass over one array: the run of vectors into its region, the first in cycle `e`. -/
def macPass (s : State) (c : Nat) (f : MacArgs) (rep a q ap lo hi e : Nat) (parity : List (Nat × Nat × Nat)) (k : Core) : Core :=
  (List.range (f.rcnt.toNat + 1)).foldl (fun k j =>
    addVector k a (f.rbase.toNat + j) lo hi f.aenc (parityMask s c a j parity) (macVector s c f rep ap q j (e + j))) k

/-- Start new chains in the region's rows of array `a` (03 R71, 05 R133); a saturation that no drain has reported stays (03 R72). -/
def startChains (f : MacArgs) (a : Nat) (k : Core) : Core :=
  (List.range (f.rcnt.toNat + 1)).foldl (fun k j =>
    let row := f.rbase.toNat + j
    { k with acc := tclear k.acc (accKey a row 0) 16,
             rows := tmod {} k.rows (rowKey a row) (fun r =>
               { started := true, arrg := f.arrg, split := f.split, side := f.side, aenc := f.aenc, wenc := f.wenc,
                 pmode := BitVec.ofNat 2 (pmodeOf f), sat := r.sat }) }) k

/-- Note on every row of the region what the word did: elements, transposition, re-rounding, parity (03 R71, R84, R95), and when its last sum
enters it: the row's vector enters at `e`, its last column lies `n` columns in (03 R64). -/
def noteRows (s : State) (c : Nat) (f : MacArgs) (a lo hi : Nat) (reb : Bool) (parity : List (Nat × Nat × Nat)) (e n : Nat) (k : Core) : Core :=
  (List.range (f.rcnt.toNat + 1)).foldl (fun k j =>
    let cols := (List.range (hi - lo)).map (fun i => lo + i)
    let hit := cols.any (fun x => (parityMask s c a j parity).getLsbD x || !(tget {} k.act (a * 16 + x)).sound)
    { k with rows := tmod {} k.rows (rowKey a (f.rbase.toNat + j)) (fun r =>
        { r with elems := r.elems + (if macFp4 f then 16 else 8), xpose := r.xpose || (f.xpose && !f.noload), reblock := r.reblock || reb,
                 parity := r.parity || hit, sumAt := e + j + 8 + n }) }) k

/-! ### When the vectors enter (03 R64 to R68; R133) -/

/-- Entry cycle of the first vector and start cycle of the load of each pass, cycles by which the first load and the first vector are held, and the
first cycle in which the next load may start. `t` is the issue cycle, `xp` the transpose path's delay, `n` the vectors of a pass, `ld` and `ve` the first cycles for a load
and for a vector that the words before leave. -/
def passEntries (t xp n ld ve : Nat) (noload : Bool) (loads : List Bool) : List (Nat × Nat) × Nat × Nat × Nat :=
  let start := Max.max (t + xp) ld
  let first := if noload then Max.max t ve else Max.max (start + 1) ve
  let go := loads.tail.foldl (fun (acc : List (Nat × Nat) × Nat) l =>
    let prev := (acc.1.getLastD (first, start)).1
    let e := if l then Max.max (acc.2 + 17) (prev + n) else prev + n
    (acc.1 ++ [(e, acc.2 + 16)], if l then e else acc.2)) ([(first, start)], first)
  (go.1, if noload then 0 else start - (t + xp), if noload then first - t else first - (start + 1), if noload then ld else go.2 + 16)

/-- Columns by which the farthest column of a side lags its first (03 R64, R80, R85). -/
def lagOf (s : State) (c a lo hi : Nat) (side : Bool) : Nat :=
  let ps := ((physCols s c a).drop lo).take (hi - lo)
  ps.getLastD 0 - (if side then ps.headD 0 else 0)

/-- Arrays of which the word drives some column; all of a word without a split. -/
def sideArrays (s : State) (c : Nat) (f : MacArgs) : List (Nat × Nat) :=
  (drivenArrays f.arrg f.asel).zipIdx.filter (fun aq =>
    let (lo, hi) := localCols s c aq.1 f.arrg f.asel f.split.toNat f.side
    decide (lo < hi))

/-- Sides of array `a` through which the word's vectors pass: its own, or both where it sets no split (R85); keys of `vecAt`. -/
def sideKeys (f : MacArgs) (a : Nat) : List Nat := if f.split = 0 then [2 * a, 2 * a + 1] else [2 * a + b2n f.side]

/-- Cycles for which a word that starts new chains is held: until the drains issued before it have read its rows (03 R74). -/
def drainWait (s : State) (c : Nat) (f : MacArgs) (rep : Nat) : Nat :=
  if f.chain && rep = 0 then
    maxOf ((sideArrays s c f).flatMap (fun aq => (List.range (f.rcnt.toNat + 1)).map (fun j =>
      (tget {} (s.core c).rows (rowKey aq.1 (f.rbase.toNat + j))).readAt))) - s.time
  else 0

/-- The entry cycles of the word's passes, issued in cycle `t`: all its arrays take a vector in the same cycle. -/
def macEntries (s : State) (c : Nat) (f : MacArgs) (t : Nat) : List (Nat × Nat) × Nat × Nat × Nat :=
  let k := s.core c
  let arrs := (sideArrays s c f).map (·.1)
  let ld := maxOf (arrs.flatMap (fun a => [tget 0 k.loadAt (2 * a), tget 0 k.loadAt (2 * a + 1)]))
  let ve := maxOf (arrs.flatMap (fun a => (sideKeys f a).map (tget 0 k.vecAt)))
  passEntries t (if f.xpose then 4 else 0) (f.rcnt.toNat + 1) ld ve f.noload ((passesOf (pmodeOf f)).map (fun p => p.2.2))

/-- Start cycle of the load of weight piece `i`; entry cycle of the first pass that streams activation piece `i`. -/
def loadCycle (f : MacArgs) (en : List (Nat × Nat)) (i : Nat) : Nat :=
  ((((passesOf (pmodeOf f)).zip en).find? (fun p => p.1.1 = i && p.1.2.2)).map (·.2.2)).getD 0
def vectorCycle (f : MacArgs) (en : List (Nat × Nat)) (i : Nat) : Nat :=
  ((((passesOf (pmodeOf f)).zip en).find? (fun p => p.1.2.1 = i)).map (·.2.1)).getD 0

/-- The work of one MAC issue on array `a`, the `q`-th driven one. -/
def macArray (s : State) (c : Nat) (f : MacArgs) (rep : Nat) (parity : List (Nat × Nat × Nat))
    (en : List (Nat × Nat) × Nat × Nat × Nat) (k : Core) (aq : Nat × Nat) : Core :=
  let a := aq.1
  let (lo, hi) := localCols s c a f.arrg f.asel f.split.toNat f.side
  let sc := swapCols s c a f.arrg f.asel f.split.toNat f.side
  let setq := if f.arrg = arrBrim then aq.2 else 0
  let runq := if f.arrg = arrBrim then 0 else aq.2
  let k0 := if f.chain && rep = 0 then startChains f a k else k
  let k1 := ((passesOf (pmodeOf f)).zip en.1).foldl (fun k p =>
    let k' := if p.1.2.2 && !f.noload then loadSwap k a sc.1 sc.2 (macSet s c f rep p.1.1 setq p.2.2).1 else k
    macPass s c f rep a runq p.1.2.1 lo hi p.2.1 parity k') k0
  let reb := !f.noload && (List.range (pieceCount f)).any (fun i => (macSet s c f rep i setq (loadCycle f en.1 i)).2 ≠ 0)
  let last := (en.1.getLastD (s.time, s.time)).1
  let keys := sideKeys f a
  let k2 := noteRows s c f a lo hi reb parity last (lagOf s c a lo hi f.side) k1
  { k2 with loadAt := if f.noload then k2.loadAt else keys.foldl (fun t i => tset 0 t i en.2.2.2) k2.loadAt,
            vecAt := keys.foldl (fun t i => tset 0 t i (last + f.rcnt.toNat + 1)) k2.vecAt,
            doneAt := Max.max k2.doneAt (last + f.rcnt.toNat + 8 + lagOf s c a lo hi f.side) }

/-- Parity errors of a cluster: CFG_CLSTAT counts them, and at PARLIM with AUTO set a repair is asked for (07 R203, R219, R229). -/
def State.parityErrors (s : State) (g n : Nat) : State :=
  let old := (s.cluster g).parity.toNat
  let s1 := s.modCluster g (fun k => { k with parity := satAdd k.parity n })
  if s.cfg.auto && decide (0 < s.cfg.parlim) && decide (old < s.cfg.parlim) && decide (s.cfg.parlim ≤ old + n) then s1.askRepair g false else s1

/-- A hold of the feeders or of the accumulator of core `c`: counted with its cycles under array `a`, and the core's later issues are delayed by
it (03 R68, R74, R97; 05 R129). -/
def State.hold (s : State) (c a n : Nat) : State :=
  if n = 0 then s else (s.event 0x0A28 a n).modCore c (fun k => { k with lastAt := Max.max k.lastAt s.time + n })

/-- One MAC issue (R133, R134). An event of a word that drives several arrays names the first of them, and re-rounding names each set's
array; a word repeated is recorded at every issue, and a reserved fine scale once for each set or vector image the issue reads, however many
arrays and passes meet it (DESIGN CHOICE, notes/assumptions/58.md). The images are read at the issue, each byte as it stands in its cycle of
R133 (notes/assumptions/75.md). -/
def State.macIssue (s : State) (c : Nat) (h : WordHdr) (f : MacArgs) (rep : Nat) (parity : List (Nat × Nat × Nat)) : State :=
  let lead := 4 * c + (drivenArrays f.arrg f.asel).headD 0
  let s0 := if f.pmode = 3 then s.event 0x0A27 lead h.offset.toNat else s
  if macReserved s c f then s0.reservedWord c h
  else
    let wait := drainWait s c f rep
    let en := macEntries s c f (s.time + wait)
    let s1 := s0.modCore c (fun k => (sideArrays s c f).foldl (macArray s c f rep parity en) k)
    let sets := if f.noload then [] else (List.range (pieceCount f)).flatMap (fun i => (List.range (setCount f)).map (fun q => (i, q)))
    let s2 := sets.foldl (fun s' x =>
      let n := (macSet s c f rep x.1 x.2 (loadCycle f en.1 x.1)).2
      let s'' := s'.noteReserved c (setScales s c f rep x.1 x.2 (loadCycle f en.1 x.1))
      if n = 0 then s'' else s''.event 0x0A23 (4 * c + (drivenArrays f.arrg f.asel).getD x.2 0) n) s1
    let vecs := (List.range (pieceCount f)).flatMap (fun i => (List.range (runCount f)).flatMap (fun q =>
      (List.range (f.rcnt.toNat + 1)).map (fun j => (macVector s c f rep i q j (vectorCycle f en.1 i + j)).2)))
    let s3 := s2.noteReserved c vecs
    let par := parity.filter (fun p => (sideArrays s c f).any (fun aq => aq.1 = p.1) && decide (p.2.2 ≤ f.rcnt.toNat)
      && (let (lo, hi) := localCols s c p.1 f.arrg f.asel f.split.toNat f.side
          (((physCols s c p.1).drop lo).take (hi - lo)).contains p.2.1))
    let s4 := par.foldl (fun s p => (s.event 0x0A24 (4 * c + p.1) p.2.1).event 0x0023 (0x1000 + clusterOfCore c) 0) s3
    let s5 := (s4.repairAdd (par.map (fun p => .badColumn (4 * c + p.1) p.2.1))).parityErrors (clusterOfCore c) par.length
    ((s5.hold c lead wait).hold c lead en.2.1).hold c lead en.2.2.1

def execMac (c : Nat) (h : WordHdr) (f : MacArgs) (rep : Nat) (parity : List (Nat × Nat × Nat)) (s : State) :
    Host.Outcome State Fault Refusal :=
  ok (s.issue c h (.mac f) (some rep) true (macReserved s c f) id (fun s => s.macIssue c h f rep parity))

/-! ## Conversions (02 R50 to R57, 04 R102 to R105) -/

/-- One step of a generator (04 R105). -/
def xorshift (x : W64) : W64 :=
  let a := x ^^^ (x <<< 13)
  let b := a ^^^ (a >>> 7)
  b ^^^ (b <<< 17)

/-- The 32 lane numbers of one conversion cycle and the generators after it (04 R105). -/
def srCycle (g : Tbl W64) : List Nat × Tbl W64 :=
  let g' := (List.range 8).foldl (fun t j => tset 0 t j (xorshift (tget 0 g j))) g
  ((List.range 32).map (fun l => fieldNat (tget 0 g' (l / 4)).toNat (16 * (l % 4) + 15) (16 * (l % 4))), g')

/-- Random numbers of `n` conversion cycles. -/
def srCycles : Nat → Tbl W64 → List Nat × Tbl W64
  | 0, g => ([], g)
  | n + 1, g =>
    let r := srCycle g
    let q := srCycles n r.2
    (r.1 ++ q.1, q.2)

/-- Generators seeded at a load (04 R105). -/
def seedGens (seed : W64) (core : Nat) : Tbl W64 :=
  (List.range 8).foldl (fun t j =>
    let x := seed ^^^ (0x9E3779B97F4A7C15#64 * BitVec.ofNat 64 (16 * core + j + 1))
    tset 0 t j (if x = 0 then 1 else x)) []

/-- Bytes of a packed bit list of equal fields. -/
def packBits (w : Nat) (l : List (BitVec 6)) : Nat := l.reverse.foldl (fun n e => n * 2 ^ w + e.toNat % 2 ^ w) 0

/-- The vector images of one block, padded to 16 elements with +0 (R132, 02 R50). -/
def blockImage (fp4 : Bool) (b : BlockOut) : List Byte :=
  let es := b.elems ++ List.replicate (16 - b.elems.length) 0
  if fp4 then leBytes 8 (packBits 4 es) ++ [b.code] ++ List.replicate 7 0
  else
    leBytes 6 (packBits 6 (es.take 8)) ++ [b.code, 0] ++ leBytes 6 (packBits 6 (es.drop 8)) ++ [b.code, 0]

/-- What a conversion of one array's values gives: images by piece, blocks poisoned and saturated, and the input columns
of saturated blocks. -/
structure ConvOut where
  images : List (List Byte)
  pois   : Nat := 0
  sat    : Nat := 0
  cols   : List Nat := []
deriving DecidableEq, Repr

/-- The blocks of a matrix of `rows` × `w` values: positions (row, column) of each, in output order (04 R103, 05 R136). Along ROW the blocks of a
row lie together, row after row (DESIGN CHOICE where a row has several, notes/assumptions/58.md). -/
def blockPositions (col : Bool) (rows w : Nat) : List (List (Nat × Nat)) :=
  if col then
    (List.range w).flatMap (fun k => (List.range ((rows + 15) / 16)).map (fun b =>
      (List.range (Min.min 16 (rows - 16 * b))).map (fun i => (16 * b + i, k))))
  else
    (List.range rows).flatMap (fun j => (List.range ((w + 15) / 16)).map (fun b =>
      (List.range (Min.min 16 (w - 16 * b))).map (fun i => (j, 16 * b + i))))

/-- Convert one matrix given row after row; `rs` are the lane numbers of its values, empty for round to nearest. -/
def convertMatrix (e : BitVec 2) (np : Nat) (coarse : F32) (col : Bool) (rows w : Nat) (vals : List Num) (rs : List Nat) : ConvOut :=
  let enc := encOfCode e
  let vs := vals.toArray
  let ra := rs.toArray
  let at_ := fun (p : Nat × Nat) => p.1 * w + p.2
  let outs := (blockPositions col rows w).map (fun ps =>
    (ps, convertValues enc np coarse (if rs.isEmpty then [] else ps.map (fun p => ra.getD (at_ p) 0))
      (ps.map (fun p => vs.getD (at_ p) .nan))))
  let bad := outs.filter (fun o => o.1.any (fun p => (vs.getD (at_ p) .nan).notFinite))
  let satd := outs.filter (fun o => o.2.any (·.sat))
  { images := (List.range np).map (fun i => outs.flatMap (fun o => blockImage (e = 2) (o.2.getD i { code := 0xFF, elems := [] }))),
    pois := bad.length, sat := satd.length, cols := (satd.flatMap (fun o => o.1.map (·.2))).eraseDups }

def padLine (l : List Byte) : List Byte := l ++ List.replicate ((64 - l.length % 64) % 64) 0

/-! ## Drain words (R135, R136; 03 R73, R94 to R96) -/

/-- The drained arrays as the output has them: brim counts as one (R136). -/
def drainGroups (f : DrainArgs) : List (List Nat) :=
  if f.arrg = arrBrim then [drivenArrays f.arrg f.asel] else (drivenArrays f.arrg f.asel).map (fun a => [a])

/-- Columns of one row of an output array: those of the MAC words that last started chains there on the drained side, under their own
arrangement; every presented column of ARRG where none was started (R136). (Array, local column, position in the masks.) -/
def rowCols (s : State) (c : Nat) (f : DrainArgs) (g : List Nat) (row : Nat) : List (Nat × Nat × Nat) :=
  let k := s.core c
  let info := fun a => tget {} k.rows (rowKey a row)
  let of := fun (arrg : BitVec 2) (split a : Nat) =>
    let (lo, hi) := localCols s c a arrg (aselOf arrg a) split f.side
    let base := if arrg = arrBrim then brimBase s c a else 0
    (List.range (hi - lo)).map (fun i => (a, lo + i, base + lo + i))
  let st := g.filter (fun a => (info a).started)
  if st.isEmpty then g.flatMap (of f.arrg 0)
  else (st.filter (fun a => (info a).side = f.side)).flatMap (fun a => of (info a).arrg (info a).split.toNat a)

/-- No row of the output array was filled on the drained side, though some was filled (R136); a region never filled is side A. -/
def sideAbsent (s : State) (c : Nat) (f : DrainArgs) (g : List Nat) (row : Nat) : Bool :=
  let k := s.core c
  let st := g.filter (fun a => (tget {} k.rows (rowKey a row)).started)
  if st.isEmpty then f.side else st.all (fun a => (tget {} k.rows (rowKey a row)).side ≠ f.side)

/-- Rows of a repetition. -/
def drainRows (f : DrainArgs) (rep : Nat) : List Nat :=
  (List.range (f.rcnt.toNat + 1)).map (fun j => f.rbase.toNat + rep * (f.rcnt.toNat + 1) + j)

/-- Columns of an output array in a repetition: all that some of its rows has (notes/assumptions/58.md). -/
def groupCols (s : State) (c : Nat) (f : DrainArgs) (rep : Nat) (g : List Nat) : List (Nat × Nat × Nat) :=
  let own := (drainRows f rep).flatMap (rowCols s c f g)
  (g.flatMap (fun a => (List.range 16).flatMap (fun n => (own.filter (fun x => x.1 = a && x.2.1 = n)).take 1)))

/-- The reserved encodings of a drain word (R157). -/
def drainReserved (s : State) (c : Nat) (h : WordHdr) (f : DrainArgs) (rep : Nat) : Bool :=
  (f.dfmt = 3 && (f.benc = 3 || f.pieces = 3 || (f.pieces ≠ 0 && f.benc = 2)))
    || decide (4 < f.maxr.toNat)
    || decide (128 < f.rbase.toNat + (h.reps.toNat + 1) * (f.rcnt.toNat + 1))
    || needsRetired s c f.arrg f.asel
    || (drainGroups f).any (fun g => (drainRows f rep).any (sideAbsent s c f g))

/-- Bytes of one value in a drain format (03 R73). -/
def drainBytes (dfmt : BitVec 2) (v : Num) : List Byte :=
  match dfmt.toNat with
  | 0 => leBytes 4 (fencode fmt32 .saturate v)
  | 1 => leBytes 2 (fencode fmtBf16 .saturate v)
  | _ => leBytes 2 (fencode fmtFp16 .saturate v)

/-- A value lies beyond the finite range of the drain format. -/
def drainOver (dfmt : BitVec 2) (v : Num) : Bool :=
  match v with
  | .fin _ m e => foverflows (match dfmt.toNat with | 0 => fmt32 | 1 => fmtBf16 | _ => fmtFp16) m e false
  | .inf _ => true
  | .nan => false

def maskOf (l : List Nat) : Nat := l.eraseDups.foldl (fun m n => m + 2 ^ n) 0

/-- Bytes the output of a drain issue takes (R136): each array, and each piece of it, starts on a new line. -/
def outLength (f : DrainArgs) (cols : List Nat) : Nat :=
  let n := f.rcnt.toNat + 1
  let line := fun b => (b + 63) / 64 * 64
  if f.dfmt = 3 then
    (f.pieces.toNat + 1) * (cols.map (fun w => line (16 * (blockPositions f.axis n w).length))).foldl (· + ·) 0
  else (cols.map (fun w => line (n * w * (if f.dfmt = 0 then 4 else 2)))).foldl (· + ·) 0

/-- Note on the rows of each output array from which cycle on a drain through the conversion unit has read them: it takes 32 values a cycle, the first
in cycle `t`; `before` values lie before those of the arrays left (03 R74; 04 R102; 05 R153). -/
def readRows (t : Nat) (rows : List Nat) : Nat → List (List (Nat × Nat × Nat)) → Core → Core
  | _, [], k => k
  | before, g :: gs, k =>
    let k1 := (g.map (·.1)).eraseDups.foldl (fun k a => rows.zipIdx.foldl (fun k r =>
      { k with rows := tmod {} k.rows (rowKey a r.1) (fun x => { x with readAt := t + (before + (r.2 + 1) * g.length - 1) / 32 + 1 }) }) k) k
    readRows t rows (before + rows.length * g.length) gs k1

/-- One drain issue (R136); `pre` bytes were written by its earlier repetitions. A column's poison stays with its rows until a new chain starts
there. FMT is that of the chains of the first row of the first drained
array, ELEMS the highest count (DESIGN CHOICE, with the poison of a chain continued after a drain and rows filled by different words,
notes/assumptions/58.md). -/
def State.drainIssue (s : State) (c : Nat) (h : WordHdr) (f : DrainArgs) (rep pre : Nat) : State :=
  let k := s.core c
  let n := f.rcnt.toNat + 1
  let seq := k.drainCnt
  let s0 := s.modCore c (fun k => { k with drainCnt := k.drainCnt + 1 })
  if drainReserved s c h f rep then s0.reservedWord c h
  else
    let rows := drainRows f rep
    let groups := (drainGroups f).map (groupCols s c f rep)
    let arrs := (drainGroups f).flatten
    let info := fun a r => tget {} k.rows (rowKey a r)
    let mine := arrs.flatMap (fun a => (rows.map (info a)).filter (fun r => !r.started || r.side = f.side))
    let held := (rows.flatMap (fun r => (arrs.filter (fun a => (info a r).side = f.side)).map (fun a => (info a r).sumAt + 1))).foldl Max.max 0
    let ref := (mine.filter (·.started)).headD {}
    let apm := fun a => (rows.map (info a)).foldl (fun m r => m ||| r.poison) (0 : BitVec 16)
    let asm := fun a => (rows.map (info a)).foldl (fun m r => m ||| r.sat) (0 : BitVec 16)
    let cs := (tget 0 k.sreg f.csreg.toNat).toNat
    let ca : F32 := BitVec.ofNat 32 cs
    let cw : F32 := BitVec.ofNat 32 (cs / 2 ^ 32)
    let badc := !goodScale ca || !goodScale cw
    let cp := f32 (fmul ca cw)
    let val := fun (r : Nat) (x : Nat × Nat × Nat) =>
      if badc || (apm x.1).toNat.testBit x.2.1 then Num.nan
      else (f32 (tget 0 k.acc (accKey x.1 r x.2.1))).mul cp
    let vals := groups.map (fun g => rows.flatMap (fun r => g.map (val r)))
    let s1 := [ca, cw].foldl (fun s x => if goodScale x then s else s.event 0x0A13 c x.toNat) s0
    let s2 := if f.maxr.toNat < 4 then
        s1.modCore c (fun k => { k with maxr := tmod 0 k.maxr f.maxr.toNat (fun m => runMax m vals.flatten) })
      else s1
    let block := f.dfmt = 3
    let np := if block then f.pieces.toNat + 1 else 1
    let coarse : F32 := BitVec.ofNat 32 (tget 0 k.sreg f.cvreg.toNat).toNat
    let total := vals.flatten.length
    let sr := if block && f.sr then srCycles ((total + 31) / 32) k.gens else ([], k.gens)
    let convs := if block then
        (groups.zip vals).zipIdx.map (fun gv =>
          let before := ((vals.take gv.2).map List.length).foldl (· + ·) 0
          convertMatrix f.benc np coarse f.axis n gv.1.1.length gv.1.2 ((sr.1.drop before).take gv.1.2.length))
      else []
    let s3 := s2.modCore c (fun k => { k with gens := sr.2 })
    let s4 := if block then
        let np1 := (convs.map (·.pois)).foldl (· + ·) 0
        let ns1 := (convs.map (·.sat)).foldl (· + ·) 0
        let s5 := if np1 = 0 then s3 else s3.event 0x0A10 c np1
        let s6 := if ns1 = 0 then s5 else s5.event 0x0A11 c ns1
        if goodScale coarse then s6 else s6.event 0x0A13 c coarse.toNat
      else s3
    let out := if block then
        (List.range np).flatMap (fun i => convs.flatMap (fun o => padLine (o.images.getD i [])))
      else vals.flatMap (fun vs => padLine (vs.flatMap (drainBytes f.dfmt)))
    let satg := if block then
        ((groups.zip convs).flatMap (fun g => (g.1.zipIdx.filter (fun x => g.2.cols.contains x.2)).map (fun x => x.1)))
      else ((groups.zip vals).flatMap (fun g => (g.2.zipIdx.filter (fun v => drainOver f.dfmt v.1)).map (fun v => g.1.getD (v.2 % g.1.length) (0, 0, 0))))
    let cols := groups.flatten
    let pm := if badc then 2 ^ 64 - 1 else maskOf ((cols.filter (fun x => (apm x.1).toNat.testBit x.2.1)).map (·.2.2))
    let satCols := cols.filter (fun x => (asm x.1).toNat.testBit x.2.1 || satg.contains x)
    let sm := maskOf (satCols.map (·.2.2))
    let elems := (mine.map (·.elems)).foldl Max.max 0
    let fl := 128 * b2n f.side + 64 * b2n (mine.any (·.parity)) + 32 * b2n (mine.any (·.xpose))
      + 16 * b2n (mine.any (·.reblock)) + 8 * b2n (decide (32768 < elems)) + 4 * b2n (pm ≠ 0) + 2 * b2n (sm ≠ 0)
    let fmtB := ref.aenc.toNat * 64 + ref.wenc.toNat * 16 + (if ref.started then ref.arrg else f.arrg).toNat * 4 + ref.pmode.toNat
    let record := leBytes 4 seq ++ leBytes 2 (cols.map (·.2.2)).eraseDups.length ++ leBytes 2 n ++ leBytes 4 (Min.min elems 0xFFFFFFFF)
      ++ [BitVec.ofNat 8 fl, BitVec.ofNat 8 fmtB] ++ leBytes 2 h.slot.toNat ++ leBytes 8 pm ++ leBytes 8 sm
    let dst := 64 * f.dline.toNat + pre
    let mrec := 32 * f.mrec.toNat + 32 * rep
    let used := arrs.filter (fun a => cols.any (fun x => x.1 = a))
    let s7 := used.foldl (fun s a =>
      let ns := (satCols.filter (fun x => x.1 = a)).length
      let npc := (cols.filter (fun x => x.1 = a && (badc || (apm a).toNat.testBit x.2.1))).length
      let s' := if ns = 0 then s else s.event 0x0A20 (4 * c + a) ns
      let s'' := if 32768 < elems then s'.event 0x0A21 (4 * c + a) (Min.min elems 0xFFFFFFFF) else s'
      if npc = 0 then s'' else s''.event 0x0A22 (4 * c + a) npc) s4
    let keep := fun a => ~~~ BitVec.ofNat 16 (maskOf ((cols.filter (fun x => x.1 = a)).map (fun x => x.2.1)))
    let s8 := s7.modCore c (fun k => used.foldl (fun k a => rows.foldl (fun k r =>
      { k with rows := tmod {} k.rows (rowKey a r) (fun x => { x with sat := x.sat &&& keep a }) }) k) k)
    let s9 := (if pm = 0 then s8 else s8.markPoison c h.slot).hold c (4 * c + used.headD 0) (held - s.time)
    if block then s9.modCore c (fun k =>
      { readRows (Max.max s.time held) rows 0 groups k with conv := [(dst, out), (mrec, record)], convNo := k.issues + 1 })
    else (s9.wrStore c dst out).wrStore c mrec record

/-- Bytes the earlier repetitions of a drain word have written: as counted with the word in the stream, else those its regions take. -/
def drainedBytes (s : State) (c : Nat) (h : WordHdr) (f : DrainArgs) (rep : Nat) : Nat :=
  match issueOf (s.core c) h (.drain f) (some rep) with
  | some (some _, x) => x.out
  | _ => ((List.range rep).map (fun r => outLength f ((drainGroups f).map (fun g => (groupCols s c f r g).length)))).foldl (· + ·) 0

/-- Count the output of a repetition with its word, which stands first among the words of its header and body. -/
def State.countOut (s : State) (c : Nat) (h : WordHdr) (f : DrainArgs) (rep n : Nat) : State :=
  match issueOf (s.core c) h (.drain f) (some rep) with
  | some (some i, _) => s.modCore c (fun k => { k with compute := k.compute.modify i (fun x => { x with out := x.out + n }) })
  | _ => s

/-- A drain word waits for the conversion unit with DFMT 0b11 (R153). One whose predicate fails still counts as a drain issue, and keeps the place of
its output (03 R94; 05 R130, R136). -/
def execDrainWord (c : Nat) (h : WordHdr) (f : DrainArgs) (rep : Nat) (s : State) : Host.Outcome State Fault Refusal :=
  let n := outLength f ((drainGroups f).map (fun g => (groupCols s c f rep g).length))
  ok (s.issue c h (.drain f) (some rep) (f.dfmt ≠ 3 || (s.core c).conv.isEmpty) (drainReserved s c h f rep)
    (fun s' => (s'.modCore c (fun k => { k with drainCnt := k.drainCnt + 1 })).countOut c h f rep n)
    (fun s' => (s'.drainIssue c h f rep (drainedBytes s c h f rep)).countOut c h f rep n))

/-- A conversion completes and its output becomes visible (R153, R155). -/
def State.convDone (s : State) (c : Nat) : State :=
  ((s.core c).conv.foldl (fun s w => s.wrStore c w.1 w.2) s).modCore c (fun k => { k with conv := [] })
def execConversionDone (c : Nat) (s : State) : Host.Outcome State Fault Refusal := ok (s.live (fun s => s.convDone c))

end Sys2Proof.Machine
end

