-- ==== Sys2Proof/Machine/Moves.lean ====
section
/-! DEFINITION. The run-ahead engines: MOV words, fetches and drains in flight (04 R107 to R114, 05 R137 to R141). -/
namespace Sys2Proof.Machine

/-! ## The lines of a MOV word (R138, R140) -/

/-- A MOV word of the core's frame as a move, with its movement base as the frame has it (R138). -/
def Core.move (k : Core) (mop : BitVec 4) (h : WordHdr) (f : MovArgs) (idx : Nat) : Move :=
  { mop := mop, h := h, f := f, idx := idx, mb := tget 0 k.mb f.base.toNat }

/-- Remote address and local line of every line the word moves, in order. -/
def movLines (m : Move) : List (Nat × Nat) :=
  let mb := m.mb.toNat / 64 * 64
  let n := m.f.lines.toNat + 1
  let st := if m.h.rgap = 0 then n else m.h.rgap.toNat
  (List.range (m.h.reps.toNat + 1)).flatMap (fun i => (List.range n).map (fun j =>
    (mb + 64 * (m.f.roff.toNat + i * st + j), m.f.loff.toNat + i * n + j)))

/-- Device address of a local line; it wraps at the end of the core store or the shelf. -/
def localLine (c : Nat) (f : MovArgs) (line : Nat) : Nat :=
  if f.loc then shelfOf (clusterOfCore c) + 64 * (line % 65536) else coreBase c + 64 * (line % 2048)

/-- Partition whose table a core's accesses use (01 R38). -/
def partOfCore (s : State) (c : Nat) : Option Nat := partOfCluster s (clusterOfCore c)

/-- Physical line of an address, for the overlap check (R112). -/
def physLine (s : State) (p : Option Nat) (a : Nat) : Nat :=
  match resolve s p a false with
  | .at pa => pa / 64
  | _ => a / 64

/-- Lines a drain writes. -/
def drainLines (s : State) (c : Nat) (m : Move) : List Nat :=
  if m.mop = 8 then (movLines m).map (fun x => localLine c m.f x.2 / 64) else (movLines m).map (fun x => physLine s (partOfCore s c) x.1)

/-- Lines a fetch reads. -/
def fetchLines (s : State) (c : Nat) (m : Move) : List Nat := (movLines m).map (fun x => physLine s (partOfCore s c) x.1)

/-! ## Translations of a move (R120, R121) -/

/-- The unified pages a move touches. -/
def movePages (s : State) (m : Move) : List Nat :=
  ((movLines m).filterMap (fun x => if locate s x.1 = .uni then some (pageOf x.1) else none)).eraseDups

/-- The TLB entry of a partition's page. -/
def tlbEntry (s : State) (g p page : Nat) : Option TlbEntry := (s.cluster g).tlb.find? (fun t => t.part = p && t.page = page)

/-- The translations a move has, and those its TLB gives it for the rest of its pages. -/
def Move.translated (m : Move) (s : State) (c : Nat) : Move :=
  match partOfCore s c with
  | none => m
  | some p =>
    let have_ := fun g => m.trans.any (fun x => x.1 = g)
    { m with trans := m.trans ++ ((movePages s m).filter (fun g => !have_ g)).filterMap (fun g =>
        (tlbEntry s (clusterOfCore c) p g).map (fun t => (g, t.base))) }

/-- A write goes through a fresh translation where the page has come to lie elsewhere since (08 R244, R245). -/
def Move.freshened (m : Move) (s : State) (c : Nat) : Move :=
  match partOfCore s c with
  | none => m
  | some p => { m with trans := m.trans.filter (fun x =>
      match translate s p (uniBase + x.1 * pageSize) false with | .at b => decide (b = x.2) | .wait => false | .fail => true) }

/-- Some page of the move has a location, and the move no translation of it: it waits for the cluster's walker. -/
def unwalked (s : State) (c : Nat) (m : Move) : Bool :=
  match partOfCore s c with
  | none => false
  | some p => (movePages s m).any (fun g =>
      !m.trans.any (fun x => x.1 = g) && (match translate s p (uniBase + g * pageSize) false with | .at _ => true | _ => false))

/-- Address by which the move reaches line `a`: through its own translation if it has one. -/
def Move.reach (m : Move) (s : State) (a : Nat) : Nat :=
  if locate s a = .uni then
    match m.trans.find? (fun x => x.1 = pageOf a) with
    | some x => x.2 + a % pageSize
    | none => a
  else a

/-- A word of the drain engine; of the fetch engine (R107). -/
def isDrain : Word → Bool
  | .mov mop _ => mop ≠ 0
  | _ => false
def isFetch : Word → Bool
  | .mov mop _ => mop = 0
  | _ => false

/-- Link directions the data of the move crosses, those of the pages in motion apart (01 R24). -/
def moveLinks (s : State) (c : Nat) (m : Move) : List Nat :=
  match partOfCore s c with
  | none => []
  | some p =>
    let write := m.mop ≠ 0 && m.mop ≠ 8
    let places := ((movLines m).filterMap (fun x => match resolve s p x.1 write with | .at pa => some (placeOf pa) | _ => none)).eraseDups
    (places.flatMap (fun x => accessLinks s p (clusterOfCore c) x write)).eraseDups

/-- The move takes the credits it needs (01 R24). -/
def Move.sent (m : Move) (s : State) (c : Nat) : Move := { m with links := moveLinks s c m }

/-! ## Issue of a fetch (R108, R112) -/

/-- Oldest entry of the movement stream not yet retired. -/
def oldestIdx (k : Core) : Option Nat :=
  ((k.movement.map (·.idx)) ++ k.fetches.map (·.idx) ++ k.drains.map (·.idx) ++ k.landed.map (·.1)).foldl (fun m i =>
    match m with | none => some i | some j => some (Min.min i j)) none

/-- The staging buffer is free (R139). -/
def bufferFree (k : Core) (h : WordHdr) (f : MovArgs) : Bool :=
  f.free = 0x1FFF || issuedBefore k ((h.offset.toNat : Int) - 64 * f.free.toNat)

/-- No drain earlier in the movement stream and not complete writes a line the fetch reads. -/
def noOverlap (s : State) (c : Nat) (m : Move) : Bool :=
  let k := s.core c
  let src := fetchLines s c m
  let early := (k.movement.filter (fun x => decide (x.idx < m.idx) && !x.dead)).flatMap (fun x =>
    match x.w with
    | .mov mop g => if mop = 0 then [] else drainLines s c (k.move mop x.h g x.idx)
    | _ => [])
  let flying := (k.drains.filter (fun d => decide (d.idx < m.idx))).flatMap (fun d => drainLines s c d)
  src.all (fun a => !early.contains a && !flying.contains a)

/-- Incomplete drains whose lines the drain engine keeps: those in flight, and those of the movement stream before the fetch (R112). -/
def drainTable (k : Core) (idx : Nat) : Nat :=
  k.drains.length + (k.movement.filter (fun x => isDrain x.w && decide (x.idx < idx) && !x.dead)).length

/-- Window, free buffer, no earlier drain in the way (R108), and the credits of the links it crosses (01 R24); the drain-line table is the other
condition (R112). -/
def fetchReady (s : State) (c : Nat) (x : SWord) (f : MovArgs) : Bool :=
  let k := s.core c
  (oldestIdx k).all (fun o => decide (x.idx ≤ o + 64)) && bufferFree k x.h f && noOverlap s c (k.move 0 x.h f x.idx)
    && creditsFree s (moveLinks s c (k.move 0 x.h f x.idx))

/-- A page the move touches is in motion (08 R244), or its board port trains (08 R264). -/
def moveWaits (s : State) (c : Nat) (m : Move) : Bool :=
  let write := m.mop ≠ 0 && m.mop ≠ 8
  (movLines m).any (fun x => resolve s (partOfCore s c) x.1 write == .wait || resolve s (partOfCore s c) (m.reach s x.1) write == .wait)

/-- The fetch waits on a page that is being promoted, not on a link (08 R255; 10 R314). -/
def pageLate (s : State) (c : Nat) (m : Move) : Bool :=
  (movLines m).any (fun x => locate s x.1 == .uni && (partOfCore s c).any (fun p => translate s p x.1 false == .wait))

/-- When a drain that waits now began to wait on a page that leaves (08 R255). -/
def heldSince (s : State) (c : Nat) (m : Move) : Option Nat :=
  match m.heldAt with
  | some t => some t
  | none => if (movLines m).any (fun x => m.mop ≠ 8 && leavingPage s (partOfCore s c) x.1) then some s.time else none

/-- The MOV word a command names: the next one of its engine in the movement stream, or, with none there, the word the command delivers
(notes/assumptions/11.md). -/
def moveOf (k : Core) (mine : Word → Bool) (h : WordHdr) (w : Word) : Option (Bool × SWord) :=
  if k.movement.isEmpty then some (false, { h := h, w := w, idx := k.nextIdx })
  else
    match k.movement.find? (fun x => mine x.w) with
    | none => none
    | some x => if x.h = h && x.w = w then some (true, x) else none

/-- The word leaves the movement stream; a delivered one takes the next position in it. -/
def State.leaveMoves (s : State) (c : Nat) (loaded : Bool) (x : SWord) : State :=
  (s.modCore c (fun k => if loaded then { k with movement := k.movement.erase x } else { k with nextIdx := k.nextIdx + 1 })).readAhead c

/-- A full drain-line table holds the fetch from now on; the hold is counted when it ends (R112, R126). -/
def State.noteFull (s : State) (c : Nat) : State :=
  s.modCore c (fun k => { k with fullAt := match k.fullAt with | some t => some t | none => some s.time })
def State.endFull (s : State) (c : Nat) : State :=
  match (s.core c).fullAt with
  | none => s
  | some t => (if t < s.time then s.event 0x0A36 c (s.time - t) else s).modCore c (fun k => { k with fullAt := none })

/-- The fetch engine issues a fetch of the frame now running, not before cycle offset 0 (R108, R123); its predicate is ignored (R130). -/
def State.fetchIssue (s : State) (c : Nat) (h : WordHdr) (f : MovArgs) : State :=
  match moveOf (s.core c) isFetch h (.mov 0 f) with
  | none => s
  | some (loaded, x) =>
    if x.dead then s.leaveMoves c loaded x
    else if fetchReady s c x f then
      if 16 ≤ drainTable (s.core c) x.idx then s.noteFull c
      else
        let s1 := (s.advanceTo (Max.max (frameBase s c) (guardFloor s))).endFull c
        let m := (s.core c).move 0 h f x.idx
        let mv : Move := { m with late := pageLate s c m }
        (s1.modCore c (fun k => { k with fetches := k.fetches ++ [(mv.translated s c).sent s c] })).leaveMoves c loaded x
    else s

def execFetch (c : Nat) (h : WordHdr) (f : MovArgs) (s : State) : Host.Outcome State Fault Refusal :=
  ok (if runsWords s c then s.fetchIssue c h f else s)

/-! ## Issue of a drain (R111, R130) -/

/-- The last issue made of those scheduled before `off`: its number and the cycle in which it completes (R139); 0 where there is none. -/
def readyPoint (k : Core) (off : Nat) : Nat × Nat := ((k.made.find? (fun e => decide (e.1 < off))).map (·.2)).getD (0, 0)

/-- The compute stream has made every issue scheduled before the drain's OFFSET, and the last of them, its ready point, has completed: a
conversion has delivered, a SIGNAL, QPUT or QREL is acknowledged (R111, R139; 05 R143, R153). -/
def drainReady (k : Core) (x : SWord) : Bool :=
  let no := (readyPoint k x.h.offset.toNat).1
  issuedBefore k x.h.offset.toNat && (no = 0 || (!k.sent.any (fun e => e.1 = no) && (k.conv.isEmpty || decide (k.convNo ≠ no))))

/-- The drain engine issues a word of its own, no earlier than its offset and the completion of its ready point; its predicate is read
now. -/
def State.drainMove (s : State) (c : Nat) (mop : BitVec 4) (h : WordHdr) (f : MovArgs) : State :=
  match moveOf (s.core c) isDrain h (.mov mop f) with
  | none => s
  | some (loaded, x) =>
    if x.dead then s.leaveMoves c loaded x
    else if drainReady (s.core c) x && creditsFree s (moveLinks s c ((s.core c).move mop h f x.idx)) then
      let rdy := (readyPoint (s.core c) h.offset.toNat).2
      let s1 := s.advanceTo (Max.max (Max.max (frameBase s c + h.offset.toNat) rdy) (guardFloor s))
      (s1.modCore c (fun k => { k with drains := if predOk k h then k.drains ++ [((k.move mop h f x.idx).translated s c).sent s c] else k.drains })).leaveMoves c loaded x
    else s

def execFetchWithDrainFlag (c : Nat) (h : WordHdr) (f : MovArgs) (s : State) : Host.Outcome State Fault Refusal :=
  ok (if runsWords s c then s.drainMove c 8 h f else s)
def execDrain (c : Nat) (h : WordHdr) (f : MovArgs) (s : State) : Host.Outcome State Fault Refusal :=
  ok (if runsWords s c then s.drainMove c 1 h f else s)
def execAddw (c : Nat) (h : WordHdr) (f : MovArgs) (s : State) : Host.Outcome State Fault Refusal :=
  ok (if runsWords s c then s.drainMove c 2 h f else s)
def execMaxm (c : Nat) (h : WordHdr) (f : MovArgs) (s : State) : Host.Outcome State Fault Refusal :=
  ok (if runsWords s c then s.drainMove c 3 h f else s)

/-! ## Completion -/

/-- Failing lines counted while a move is carried out: bus errors, and host accesses after a loss. -/
structure MoveCount where
  bus  : Nat := 0
  lost : Nat := 0
deriving DecidableEq, Repr

def MoveCount.note (m : MoveCount) (r : Res) : MoveCount :=
  match r with
  | .at _ | .reg => m
  | .lost => { m with lost := m.lost + 1 }
  | _ => { m with bus := m.bus + 1 }

/-- The stream and SEQ of the command on a slot. -/
def slotStream (s : State) (c : Nat) (slot : BitVec 6) : Option (Nat × BitVec 16) :=
  match partOfCore s c with
  | none => none
  | some p => ((s.part p).slots.find? (fun u => u.slot = slot.toNat)).map (fun u => (u.stream, u.seq))

/-- What an access of a command adds besides its data: an unacknowledged host write (10 R313), and the board-tier access of a
pinned stream (08 R254). -/
def State.afterAccess (s : State) (c : Nat) (slot : BitVec 6) (r : Res) (write : Bool) : State :=
  match r, slotStream s c slot with
  | .at pa, some (n, seq) =>
    if hostBase ≤ pa then (if write then s.modStream n (fun x => x.addOut seq 1) else s)
    else if boardBase ≤ pa && pa < boardEnd && (s.stream n).pinned then s.event 0x020C ((partOfCore s c).getD 0xFFFF) n
    else s
  | _, _ => s

/-- Bytes of a local line as the core's engines see them (05 R155). -/
def localBytes (s : State) (c : Nat) (f : MovArgs) (line : Nat) : List Byte :=
  if f.loc then s.rd (localLine c f line) 64 else rdStore s c (64 * (line % 2048)) 64

/-- An accumulate-write or a maximum-merge at a line; what reaches no location is counted (08 R233). -/
def State.mergeLine (s : State) (p : Option Nat) (a a' : Nat) (r : Res × State) : Res × State :=
  match r with
  | (.bus, s1) => (Res.bus, if resolve s p a' true == Res.bus then s1.noLocation p a else s1)
  | r => r

/-- One line of a drain-engine word. A line that a later drain of the core has written reads for a fetch as before it (R112). A line of a fetch that
cannot be read leaves its place in the buffer as it was (DESIGN CHOICE, notes/assumptions/76.md). -/
def State.drainLine (s : State) (c : Nat) (m : Move) (x : Nat × Nat) : Res × State :=
  let p := partOfCore s c
  let la := localLine c m.f x.2
  let a := m.reach s x.1
  let dirty := fun (r : Res × State) => match r.1, p with
    | .at _, some q => (r.1, if locate s x.1 = .uni then r.2.markDirty q (pageOf x.1) else r.2)
    | _, _ => r
  match m.mop.toNat with
  | 2 => dirty (s.mergeLine p x.1 a (s.addwPiece p (p.getD 0xFFFF) a (localBytes s c m.f x.2)))
  | 3 =>
    let i := m.f.loff.toNat % 4
    let r := dirty (s.mergeLine p x.1 a (s.maxmPiece p a (tget 0 (s.core c).maxr i)))
    (r.1, r.2.modCore c (fun k => { k with maxr := tset 0 k.maxr i 0 }))
  | 8 =>
    (match (s.core c).kept.find? (fun e => e.1 = m.idx && decide (e.2.1 = a / 64)), resolve s p a false with
    | some e, .at _ => (.at a, s.wr la e.2.2)
    | _, _ =>
      match s.busRead p a 64 with
      | (.ok b, s1) => (resolve s p a false, s1.wr la b)
      | (.error e, s1) => (e, s1))
  | _ => dirty (s.busWrite p a (localBytes s c m.f x.2))

/-- Every line of a move, in order. -/
def State.moveAll (s : State) (c : Nat) (m : Move) : List (Nat × Nat) → MoveCount → State × MoveCount
  | [], k => (s, k)
  | x :: l, k =>
    let r := s.drainLine c m x
    State.moveAll (r.2.afterAccess c m.h.slot r.1 (m.mop ≠ 8)) c m l (k.note r.1)

/-- Marks of a move that failed: the command's status (R113, 10 R317). -/
def State.moveMarks (s : State) (c : Nat) (slot : BitVec 6) (k : MoveCount) : State :=
  let s1 := if k.bus = 0 then s else s.markBusErr c slot
  if k.lost = 0 then s1 else s1.markHostLost c slot

/-- `n` local lines from `loff` on as spans of device addresses. -/
def bufSpans (c loff n : Nat) (f : MovArgs) : List (Nat × Nat) :=
  let size := if f.loc then 65536 else 2048
  let st := loff % size
  if size ≤ n then [(localLine c f 0, 64 * size)]
  else if st + n ≤ size then [(localLine c f st, 64 * n)]
  else [(localLine c f st, 64 * (size - st)), (localLine c f 0, 64 * (st + n - size))]

/-- The destination buffer of a fetch (R113). -/
def fetchSpans (c : Nat) (h : WordHdr) (f : MovArgs) : List (Nat × Nat) :=
  bufSpans c f.loff.toNat ((h.reps.toNat + 1) * (f.lines.toNat + 1)) f

/-- Clear or set the failed mark of the buffers that overlap (R113). -/
def State.markBuffer (s : State) (c : Nat) (spans : List (Nat × Nat)) (bad : Bool) : State :=
  s.modCore c (fun k =>
    let keep := k.failBuf.filter (fun b => !spans.any (fun x => decide (b.1 < x.1 + x.2) && decide (x.1 < b.1 + b.2)))
    { k with failBuf := if bad then keep ++ spans else keep })

/-- The compute word that waits at its need point is released: the wait is counted, a late page enters the histogram, and the word issues from
now on (R110; 08 R255). -/
def State.endNeed (s : State) (c due : Nat) (late : Bool) : State :=
  if s.time ≤ due then s
  else
    let s1 := (s.event 0x0A30 c (s.time - due)).modCore c (fun k => { k with lastAt := Max.max k.lastAt s.time })
    match late, partOfCore s c with
    | true, some p => s1.latePage p (s.time - due)
    | _, _ => s1

/-- The issue that waits for fetch `m`: its due cycle. -/
def waitingIssue (s : State) (c : Nat) (m : Move) : Option (Nat × SWord) :=
  match headIssue (s.core c) with
  | some (_, x) => if m.h.offset.toNat ≤ x.sched then some (dueAt s c x.w x.sched, x) else none
  | none => none

/-- The oldest fetch of a core completes: its bytes land together, and a read of its buffer before then sees the old ones (DESIGN CHOICE,
notes/assumptions/76.md); `late` is how long after the due cycle of the compute word that waits for it its last byte lands
(R108, R110). While a page is in motion or not yet walked it cannot complete. -/
def State.fetchDone (s : State) (c late : Nat) : State :=
  match (s.core c).fetches with
  | [] => s
  | m0 :: rest =>
    let m := m0.translated s c
    if moveWaits s c m then
      s.modCore c (fun k => { k with fetches := { m with late := m.late || pageLate s c m, trans := [] } :: rest })
    else if unwalked s c m then s
    else
      let wait := waitingIssue s c m
      let s0 := match wait with | some (due, _) => if late = 0 then s else s.advanceTo (due + late) | none => s
      let r := s0.moveAll c { m with mop := 8 } (movLines m) {}
      let bad := r.2.bus + r.2.lost ≠ 0
      let s1 := r.1.markBuffer c (fetchSpans c m.h m.f) bad
      let s2 := if bad then (s1.event 0x0A34 c (64 * m.f.loff.toNat)).moveMarks c m.h.slot r.2 else s1
      let s3 := s2.modCore c (fun k =>
        { k with fetches := rest, kept := k.kept.filter (fun e => e.1 ≠ m.idx),
                 landed := if hasNeed k m.h.offset.toNat then k.landed ++ [(m.idx, m.h.offset.toNat)] else k.landed })
      let s4 := match wait with
        | some (due, x) =>
          let ever := (s3.core c).lateFetch || (m.late && decide (due < s3.time))
          let s' := s3.modCore c (fun k => { k with lateFetch := ever && needsFetch k x.sched })
          if needsFetch (s3.core c) x.sched then s' else s'.endNeed c due ever
        | none => s3
      s4.skipAll c

def execFetchComplete (c late : Nat) (s : State) : Host.Outcome State Fault Refusal := ok (s.live (fun s => s.fetchDone c late))

/-- Before a drain writes, keep what fetches earlier in the stream and not complete still have to read of its lines (R112). -/
def State.keepOld (s : State) (c : Nat) (m : Move) : State :=
  let k := s.core c
  let ls := drainLines s c m
  let early := (k.fetches.filter (fun x => decide (x.idx < m.idx))).map (fun x => (x.idx, fetchLines s c x))
    ++ (k.movement.filter (fun x => isFetch x.w && !x.dead && decide (x.idx < m.idx))).map (fun x =>
        (x.idx, match x.w with | .mov _ f => fetchLines s c (k.move 0 x.h f x.idx) | _ => []))
  let new := early.flatMap (fun e => (e.2.filter (fun a => ls.contains a && (locate s (64 * a) = .mem || locate s (64 * a) = .host)
    && !k.kept.any (fun o => o.1 = e.1 && o.2.1 = a))).eraseDups.map (fun a => (e.1, a, s.rd (64 * a) 64)))
  if new.isEmpty then s else s.modCore c (fun k => { k with kept := k.kept ++ new })

/-- The oldest drain of a core completes (R111, R113). A FETCH with the DRAIN flag that meets a bus error counts as a drain under code 0x0A35, and
its buffer is failed (DESIGN CHOICE, notes/assumptions/76.md). -/
def State.drainDone (s : State) (c : Nat) : State :=
  match (s.core c).drains with
  | [] => s
  | m0 :: rest =>
    let m := if m0.mop = 8 then m0.translated s c else (m0.translated s c).freshened s c
    if moveWaits s c m then
      s.modCore c (fun k => { k with drains := { m with heldAt := heldSince s c m, trans := [] } :: rest })
    else if unwalked s c m then s
    else
      let s0 := (s.writeWaited (partOfCore s c) m.heldAt).keepOld c m
      let ls := movLines m
      let r := s0.moveAll c m (if m.mop = 3 then ls.filter (fun x => (x.2 - m.f.loff.toNat) % (m.f.lines.toNat + 1) = 0) else ls) {}
      let bad := r.2.bus + r.2.lost
      let s1 := if bad = 0 then r.1 else (r.1.event 0x0A35 c bad).moveMarks c m.h.slot r.2
      let s2 := if m.mop = 8 then s1.markBuffer c (fetchSpans c m.h m.f) (bad ≠ 0) else s1
      s2.modCore c (fun k => { k with drains := rest })

def execDrainComplete (c : Nat) (s : State) : Host.Outcome State Fault Refusal := ok (s.live (fun s => s.drainDone c))

end Sys2Proof.Machine
end

