-- ==== Sys2Proof/Machine/Images.lean ====
section
/-! DEFINITION. Slot images and the start of a frame on a partition's cores (04 R118, R122; 05 R128, R129, R146; 07 R204, R205, R221). -/
namespace Sys2Proof.Machine

/-! ## Slot images (07 R204, R205) -/

/-- Device address of a program's slot image for a concurrency slot. -/
def slotImage (s : State) (g : Program) (slot : Nat) : Nat :=
  let i := ((List.range slot).filter (fun n => g.slots.toNat.testBit n)).length
  g.sect + s.rdN (g.itab + 8 * i) 8

/-- Address of frame record `n`, the first being 0, of a slot image. -/
def frameRec (s : State) : Nat → Nat → Nat
  | a, 0 => a
  | a, n + 1 => frameRec s (a + s.rdN a 4) n

/-- A core entry of a frame record. -/
structure CoreEntry where
  pci    : Nat
  use    : Nat
  reloc  : Nat
  nwords : Nat
  /-- Device address of the 256-byte header; the words follow it. -/
  addr   : Nat
deriving DecidableEq, Repr

def recClusters (s : State) (a : Nat) : Nat := s.rdN (a + 4) 2

/-- Bank-map entries of a frame record: cluster position and map. -/
def recBanks (s : State) (a : Nat) : List (Nat × List Byte) :=
  (List.range (recClusters s a)).map (fun i => (s.rdN (a + 16 + 72 * i) 2, s.rd (a + 24 + 72 * i) 64))

/-- Core entries of a frame record. -/
def recCores (s : State) (sect a : Nat) : List CoreEntry :=
  (List.range (s.rdN (a + 6) 2)).map (fun i =>
    let e := a + 16 + 72 * recClusters s a + 24 * i
    { pci := s.rdN e 2, use := s.rdN (e + 4) 4, reloc := s.rdN (e + 8) 4, nwords := s.rdN (e + 0xC) 4, addr := sect + s.rdN (e + 0x10) 8 })

/-- The program frame, 1 to d, that an occupied slot runs in the frame last started (06 R176). -/
def SlotUse.progFrame (u : SlotUse) : Option Nat :=
  let i := u.started - 1 - u.k
  if 1 ≤ i ∧ i ≤ u.depth then some i else none

/-- The section and frame record an occupied slot runs. -/
def slotFrame (s : State) (p : Nat) (u : SlotUse) : Option (Nat × Nat) :=
  match u.progFrame, (s.part p).programs.find? (fun g => g.prog = u.prog) with
  | some i, some g => some (g.sect, frameRec s (slotImage s g u.slot) (i - 1))
  | _, _ => none

/-- The slot has words on the cluster at this position in the frame last started (07 R224). -/
def wordsOn (s : State) (p : Nat) (u : SlotUse) (pos : Nat) : Bool :=
  match slotFrame s p u with
  | none => false
  | some (sect, a) => (recCores s sect a).any (fun e => e.pci / 16 = pos && decide (0 < e.nwords))

/-! ## Header values (05 R146, 07 R221 step 3) -/

/-- A marked value that lies in a replaced cluster's shelf or core stores moves to the same offset in its spare. -/
def relocate1 (v : Nat) (r : Nat × Nat) : Nat :=
  let a := shelfOf r.1
  let b := coreBase (16 * r.1)
  if a ≤ v ∧ v < a + 0x400000 then v - a + shelfOf r.2
  else if b ≤ v ∧ v < b + 0x200000 then v - b + coreBase (16 * r.2)
  else v

/-- Header value `i`, S registers first and movement bases from 16 on, as a frame loads it. -/
def headerValue (s : State) (relocs : List (Nat × Nat)) (e : CoreEntry) (i : Nat) : W64 :=
  let v := s.rdN (e.addr + 8 * i) 8
  BitVec.ofNat 64 (if e.reloc.testBit i then relocs.foldl relocate1 v else v)

/-! ## The slots' entries (07 R205) -/

/-- USE masks of the slots below overlap this entry's. -/
def clashes (below : List CoreEntry) (e : CoreEntry) : Bool := below.any (fun b => b.use &&& e.use ≠ 0)

/-- The entries of one core in rising slot order, each with its slot and whether its USE clashes with a lower one's. -/
def marked : List CoreEntry → List (Nat × CoreEntry) → List (Nat × CoreEntry × Bool)
  | _, [] => []
  | below, (u, e) :: l => (u, e, clashes below e) :: marked (below ++ [e]) l

/-! ## Starting a frame (04 R122, R123) -/

/-- A fetch that is abandoned leaves in its buffer what was there, what it would have brought, or a mixture of the two (04 R109, R114). -/
def State.abandonFetch (s : State) (c : Nat) (m : Move) : State :=
  ((movLines m).foldl (fun s x =>
    let la := localLine c m.f x.2
    match resolve s (partOfCore s c) x.1 false with
    | .at pa => s.wr la (mix8 s.draw la (s.rd la 64) (s.rd pa 64))
    | _ => s) s).drawNext

/-- The oldest fetch completes, or is abandoned where it cannot. -/
def State.landOrDrop (s : State) (c : Nat) : State :=
  let n := (s.core c).fetches.length
  let s1 := s.fetchDone c 0
  match (s1.core c).fetches with
  | m :: rest => if rest.length + 1 < n then s1 else (s1.abandonFetch c m).modCore c (fun k => { k with fetches := rest })
  | [] => s1

/-- Fetches of the frame before that had no need point and are still in flight end (04 R114). -/
def State.landFetches (s : State) (c : Nat) : State := (s.core c).fetches.foldl (fun s _ => s.landOrDrop c) s

/-- Start one core on the entries the occupied slots give it: registers as R205 selects them, an empty schedule buffer that reads ahead, and the
drains of a frame cut short that still wait (04 R114). -/
def State.startCore (s0 : State) (p c : Nat) (entries : List (Nat × CoreEntry)) : State :=
  let s := s0.landFetches c
  let es := marked [] entries
  let relocs := (s.part p).relocs
  let live := es.filter (fun x => !x.2.2)
  let value := fun (i : Nat) => live.findSome? (fun x => if x.2.1.use.testBit i then some (headerValue s relocs x.2.1 i) else none)
  let regs := fun (base : Nat) => (List.range 16).foldl (fun t i => match value (base + i) with | some v => tset 0 t i v | none => t) ([] : Tbl W64)
  let s1 := (s.modCore c (fun k =>
    { k with v := [], vgen := s.draw, m := [], f := 1, tok := [], sreg := regs 0, mb := regs 16, conv := [], drainCnt := 0, cbarAt := none,
             rows := k.rows.map (fun r => (r.1, { r.2 with started := false })),
             compute := [], movement := [], fetches := [], drains := k.drains.map (fun m => { m with idx := 0 }), landed := [],
             feeds := es.map (fun x => { addr := x.2.1.addr + 256, left := x.2.1.nwords, dead := x.2.2 }), lastEff := 0, nextIdx := 1,
             issues := 0, lastAt := (s.part p).lastTick + 1200, doneAt := (s.part p).lastTick + 1200, sent := k.sent.map (fun x => (0, x.2)), classAt := [], rowAt := [], ready := [], loadAt := [], vecAt := [],
             convNo := 0, kept := [], fullAt := none, made := [], lateFetch := false })).drawNext
  let clash := (es.filter (fun x => x.2.2)).map (·.1)
  ((s1.modPart p (fun q => { q with slots := q.slots.map (fun u => if clash.contains u.slot then { u with badOp := true } else u) })).readAhead c).skipAll c

/-- The bank map of a cluster: that of the lowest occupied slot that supplies one (R205); a reserved mode is counted (R117). -/
def State.loadBanks (s : State) (g pos : Nat) (maps : List (List (Nat × List Byte))) : State :=
  let m := (maps.findSome? (fun l => (l.find? (fun e => e.1 = pos)).map (·.2))).getD []
  let s1 := s.modCluster g (fun k => { k with banks := m, frameOn := true })
  (m.zipIdx.filter (fun b => decide (4 ≤ b.1.toNat / 32))).foldl (fun s b => s.event 0x0A37 g b.2) s1

/-- Insert a slot by its number. -/
def insertSlot (u : SlotUse) : List SlotUse → List SlotUse
  | [] => [u]
  | v :: l => if u.slot < v.slot then u :: v :: l else v :: insertSlot u l

/-- Start the frame on every core of the partition's clusters, with this slot table. -/
def State.startFrame (s : State) (p : Nat) (used : List SlotUse) : State :=
  let q := s.part p
  let slots := used.foldl (fun l u => insertSlot u l) ([] : List SlotUse)
  let recs := slots.filterMap (fun u => (slotFrame s p u).map (fun f => (u.slot, f)))
  let maps := recs.map (fun r => recBanks s r.2.2)
  let cores := recs.flatMap (fun r => (recCores s r.2.1 r.2.2).map (fun e => (r.1, e)))
  q.clusters.zipIdx.foldl (fun s gp =>
    (s.loadBanks gp.1 gp.2 maps).each (List.range 16) (fun s i =>
      s.startCore p (16 * gp.1 + i) (cores.filter (fun x => x.2.pci = 16 * gp.2 + i)))) s

end Sys2Proof.Machine
end

