-- ==== Sys2Proof/Machine/Lz4.lean ====
section
/-! DEFINITION. The LZ4 frame decoder of the ingest engines (14 R409), with the formats of LZ4 Frame 01, the LZ4 block and xxHash32 taken
from their public descriptions (PRESUMED, notes/assumptions/13.md). -/
namespace Sys2Proof.Machine

/-! ## xxHash32, seed 0 -/

def xxP1 : BitVec 32 := 0x9E3779B1
def xxP2 : BitVec 32 := 0x85EBCA77
def xxP3 : BitVec 32 := 0xC2B2AE3D
def xxP4 : BitVec 32 := 0x27D4EB2F
def xxP5 : BitVec 32 := 0x165667B1

def xxRound (a x : BitVec 32) : BitVec 32 := ((a + x * xxP2).rotateLeft 13) * xxP1

/-- Four accumulators over whole 16-byte stripes. -/
def xxStripes : Nat → List Byte → BitVec 32 × BitVec 32 × BitVec 32 × BitVec 32 → BitVec 32 × BitVec 32 × BitVec 32 × BitVec 32
  | 0, _, a => a
  | n + 1, l, (a, b, c, d) =>
    let w := fun k => BitVec.ofNat 32 (leNat ((l.drop k).take 4))
    xxStripes n (l.drop 16) (xxRound a (w 0), xxRound b (w 4), xxRound c (w 8), xxRound d (w 12))

/-- The bytes left after the stripes: words, then single bytes. -/
def xxTail : Nat → BitVec 32 → List Byte → BitVec 32
  | 0, h, _ => h
  | _, h, [] => h
  | n + 1, h, a :: b :: c :: d :: l => xxTail n (((h + BitVec.ofNat 32 (leNat [a, b, c, d]) * xxP3).rotateLeft 17) * xxP4) l
  | n + 1, h, a :: l => xxTail n (((h + a.zeroExtend 32 * xxP5).rotateLeft 11) * xxP1) l

def xxh32 (l : List Byte) : BitVec 32 :=
  let n := l.length
  let h0 := if n < 16 then xxP5 else
    let (a, b, c, d) := xxStripes (n / 16) l (xxP1 + xxP2, xxP2, 0, 0 - xxP1)
    a.rotateLeft 1 + b.rotateLeft 7 + c.rotateLeft 12 + d.rotateLeft 18
  let h1 := xxTail n (h0 + BitVec.ofNat 32 n) (l.drop (n / 16 * 16))
  let h2 := (h1 ^^^ (h1 >>> 15)) * xxP2
  let h3 := (h2 ^^^ (h2 >>> 13)) * xxP3
  h3 ^^^ (h3 >>> 16)

/-! ## Blocks -/

/-- Why a frame is refused: the reasons of R410. -/
inductive LzErr where
  | short | long | malformed | checksum
deriving DecidableEq, Repr

/-- A length continued in bytes of 255: the length and the rest. -/
def lzLen : Nat → Nat → List Byte → Option (Nat × List Byte)
  | 0, _, _ => none
  | _, _, [] => none
  | fuel + 1, n, b :: l => if b = 255 then lzLen fuel (n + 255) l else some (n + b.toNat, l)

def lzField (nib : Nat) (l : List Byte) : Option (Nat × List Byte) := if nib = 15 then lzLen l.length 15 l else some (nib, l)

/-- Copy `n` bytes from `off` back in the reversed output. -/
def lzCopy (off : Nat) : Nat → List Byte → List Byte
  | 0, out => out
  | n + 1, out => lzCopy off n (out.getD (off - 1) 0 :: out)

/-- Decode one compressed block onto the reversed output `out`, of which `hist` bytes a match may reach; at most `lim` bytes of output. -/
def lzBlock (lim : Nat) : Nat → Nat → List Byte → List Byte → Except LzErr (List Byte)
  | 0, _, _, _ => .error .malformed
  | _, _, [], _ => .error .malformed
  | fuel + 1, hist, t :: l, out =>
    match lzField (t.toNat / 16) l with
    | none => .error .malformed
    | some (nlit, l1) =>
      if lim < out.length + nlit then .error .long
      else if l1.length < nlit then .error .malformed
      else
        let out1 := (l1.take nlit).reverse ++ out
        match l1.drop nlit with
        | [] => .ok out1
        | [_] => .error .malformed
        | o0 :: o1 :: l2 =>
          let off := o0.toNat + 256 * o1.toNat
          match lzField (t.toNat % 16) l2 with
          | none => .error .malformed
          | some (m, l3) =>
            if lim < out1.length + (m + 4) then .error .long
            else if off = 0 ∨ hist + nlit < off then .error .malformed
            else lzBlock lim fuel (hist + nlit + m + 4) l3 (lzCopy off (m + 4) out1)

/-! ## The frame -/

/-- What the descriptor says. -/
structure LzDesc where
  indep : Bool
  bsum  : Bool
  csum  : Bool
  bmax  : Nat
deriving DecidableEq, Repr

/-- The blocks of a frame, to the end of the payload. What is found wrong that leaves the rest readable only counts at the end, since the first
reason of R410 that applies decides: `mal`, malformed or unsupported; `chk`, a checksum that does not match. -/
def lzBlocks (d : LzDesc) (claim : Nat) : Nat → List Byte → List Byte → Bool → Bool → Except LzErr (List Byte)
  | 0, _, _, _, _ => .error .malformed
  | fuel + 1, l, out, mal, chk =>
    if l.length < 4 then .error (if out.length < claim then .short else .malformed)
    else
      let w := leNat (l.take 4)
      let l1 := l.drop 4
      if w = 0 then
        let tail := if d.csum then 4 else 0
        if out.length < claim then .error .short
        else if mal || l1.length ≠ tail then .error .malformed
        else if chk || (d.csum && (xxh32 out.reverse).toNat ≠ leNat l1) then .error .checksum
        else .ok out.reverse
      else
        let n := w % 2 ^ 31
        let body := l1.take n
        let rest := l1.drop n
        let skip := if d.bsum then 4 else 0
        if l1.length < n + skip then .error (if out.length < claim then .short else .malformed)
        else
          let o := if 2 ^ 31 ≤ w then (if claim < out.length + n then .error .long else .ok (body.reverse ++ out))
            else lzBlock claim (n + 1) (if d.indep then 0 else out.length) body out
          match o with
          | .error e => .error e
          | .ok out1 =>
            lzBlocks d claim fuel (rest.drop skip) out1 (mal || decide (d.bmax < n) || decide (d.bmax < out1.length - out.length))
              (chk || (d.bsum && (xxh32 body).toNat ≠ leNat (rest.take 4)))

/-- Decode a payload that is one frame and holds exactly `claim` bytes (R409, R410). -/
def lzFrame (claim : Nat) (l : List Byte) : Except LzErr (List Byte) :=
  let flg := (l.getD 4 0).toNat
  let bd := (l.getD 5 0).toNat
  let hasSize := bitAt flg 3
  let hlen := if hasSize then 14 else 6
  if l.length < 7 then .error .short
  else if leNat (l.take 4) ≠ 0x184D2204 then .error .malformed
  else if l.length < hlen + 1 then .error .short
  else if fieldNat flg 7 6 ≠ 1 || bitAt flg 1 || bitAt flg 0 || bitAt bd 7 || fieldNat bd 3 0 ≠ 0 || fieldNat bd 6 4 < 4 then .error .malformed
  else
    lzBlocks { indep := bitAt flg 5, bsum := bitAt flg 4, csum := bitAt flg 2, bmax := 2 ^ (8 + 2 * fieldNat bd 6 4) } claim (l.length + 1)
      (l.drop (hlen + 1)) [] (hasSize && leNat ((l.drop 6).take 8) ≠ claim)
      ((xxh32 ((l.drop 4).take (hlen - 4))).toNat / 256 % 256 ≠ (l.getD hlen 0).toNat)

end Sys2Proof.Machine
end

