-- ==== Sys2Proof/Machine/Trans.lean ====
section
/-! DEFINITION. The operations the manual bounds in units in the last place (05 R151, 13 R380): a reference computed in
fixed point with far more bits than binary32 holds, kept as the value next to it toward zero, and what a unit may give around it (notes/assumptions/7.md). -/
namespace Sys2Proof.Machine

/-- Fixed-point scale 2^160 of the references. -/
def fxP : Nat := 160
def fxOne : Int := (2 : Int) ^ fxP
/-- ln 2, log2 e, π and 2/√π at scale 2^160. -/
def fxLn2 : Int := 1013035739299659071135698605846798551586536899366
def fxLog2e : Int := 2108501164428393954197770173035669514763056903505
def fxPi : Int := 4591442807048218921384805199743311128454155024418
def fxErf : Int := 1649128000240172121335468122222580532118151184855

def fxMul (a b : Int) : Int := a * b / fxOne

/-- A finite value at scale 2^160, rounded toward −∞ in magnitude. -/
def fxOf (neg : Bool) (m : Nat) (e : Int) : Int :=
  let v : Int := (shiftI m (e + fxP) : Nat)
  if neg then -v else v

/-- A positive fixed-point value × 2^n that its series approaches and does not reach. -/
def fxNear (neg : Bool) (v : Int) (n : Int) : Near := nearOf neg v.toNat (n - fxP) true

/-- Σ t^k / k! from term `k` on. -/
def expSeries : Nat → Nat → Int → Int → Int → Int
  | 0, _, _, _, acc => acc
  | fuel + 1, k, t, term, acc =>
    let term' := fxMul term t / (k : Int)
    expSeries fuel (k + 1) t term' (acc + term')

/-- 2^y of a fixed-point y; y within ±2000. -/
def exp2Fx (y : Int) : Near :=
  let n := y / fxOne
  if y % fxOne = 0 then nearOf false 1 n false
  else
    let t := fxMul (y - n * fxOne) fxLn2
    fxNear false (expSeries 45 1 t fxOne fxOne) n

/-- Magnitudes from 2^11 on lie beyond every finite result; below 2^-155, beside 1. -/
def expArg (x : F32) (top : Int) (scale : Int) : Near :=
  match f32 x with
  | .nan => .of qnan
  | .inf n => .of (if n then 0 else 0x7F800000#32)
  | .fin n m e =>
    if m = 0 then .of fone
    else if top < (bitLen m : Int) + e then (if n then { lo := 0, exact := false } else .of 0x7F800000#32)
    else exp2Fx (if scale = fxOne then fxOf n m e else fxMul (fxOf n m e) scale)

def refExp2 (x : F32) : Near := expArg x 11 fxOne
def refExp (x : F32) : Near := expArg x 10 fxLog2e

/-- Σ w^(2k+1) / (2k+1). -/
def atanhSeries : Nat → Nat → Int → Int → Int → Int
  | 0, _, _, _, acc => acc
  | fuel + 1, k, w2, p, acc =>
    let p' := fxMul p w2
    atanhSeries fuel (k + 2) w2 p' (acc + p' / (k : Int))

def refLog2 (x : F32) : Near :=
  match f32 x with
  | .nan => .of qnan
  | .inf n => .of (if n then qnan else 0x7F800000#32)
  | .fin n m e =>
    if m = 0 then .of 0xFF800000#32
    else if n then .of qnan
    else
      let l := bitLen m
      let ex : Int := (l : Int) - 1 + e
      let z : Int := (shiftI m (fxP - (l - 1)) : Nat)
      let w := (z - fxOne) * fxOne / (z + fxOne)
      if w = 0 then nearOf (decide (ex < 0)) ex.natAbs 0 false
      else
        let ln := 2 * atanhSeries 60 3 (fxMul w w) w w
        let v := ex * fxOne + fxMul ln fxLog2e
        fxNear (decide (v < 0)) v.natAbs 0

/-- e^y of a fixed-point y as a fixed-point value; y from 0 to 90. -/
def expFx (y : Int) : Int :=
  let b := fxMul y fxLog2e
  let n := b / fxOne
  let t := fxMul (b - n * fxOne) fxLn2
  expSeries 45 1 t fxOne fxOne * (2 : Int) ^ n.toNat

/-- Below 2^-12, tanh x lies less than a unit under x in magnitude; from 16 on, beside 1. -/
def refTanh (x : F32) : Near :=
  match f32 x with
  | .nan => .of qnan
  | .inf n => .of (if n then 0xBF800000#32 else fone)
  | .fin n m e =>
    if m = 0 then .of x
    else if 4 < (bitLen m : Int) + e then nearBelow (if n then 0xBF800000#32 else fone)
    else if (bitLen m : Int) + e < -12 then nearBelow x
    else
      let e2 := expFx (2 * fxOf false m e)
      fxNear n ((e2 - fxOne) * fxOne / (e2 + fxOne)) 0

/-- Σ (−1)^k x^(2k+1) / (k! (2k+1)); `p` is x^(2k+1)/k!. -/
def erfSeries : Nat → Nat → Int → Int → Int → Int
  | 0, _, _, _, acc => acc
  | fuel + 1, k, x2, p, acc =>
    let p' := -(fxMul p x2) / (k : Int)
    erfSeries fuel (k + 1) x2 p' (acc + p' / (2 * k + 1 : Int))

def refErf (x : F32) : Near :=
  match f32 x with
  | .nan => .of qnan
  | .inf n => .of (if n then 0xBF800000#32 else fone)
  | .fin n m e =>
    if m = 0 then .of x
    else if 2 < (bitLen m : Int) + e then nearBelow (if n then 0xBF800000#32 else fone)
    else if (bitLen m : Int) + e < -60 then nearOf n (m * fxErf.toNat) (e - 160) true
    else
      let v := fxOf false m e
      fxNear n (fxMul fxErf (erfSeries 120 1 (fxMul v v) v v)) 0

/-- 1/x. -/
def refRcp (x : F32) : Near :=
  match f32 x with
  | .nan => .of qnan
  | .inf n => .of (if n then 0x80000000#32 else 0)
  | .fin n m e =>
    if m = 0 then .of (if n then 0xFF800000#32 else 0x7F800000#32)
    else let k := 32 + 2 * bitLen m; nearOf n (2 ^ k / m) (-e - k) (decide (2 ^ k % m ≠ 0))

/-- 1/√x. -/
def refRsqrt (x : F32) : Near :=
  match f32 x with
  | .nan => .of qnan
  | .inf n => .of (if n then qnan else 0)
  | .fin n m e =>
    if m = 0 then .of (if n then 0xFF800000#32 else 0x7F800000#32)
    else if n then .of qnan
    else
      let e' := if e % 2 = 0 then e else e - 1
      let m' := if e % 2 = 0 then m else m * 2
      let q := isqrt (2 ^ 200 / m')
      nearOf false q (-(e' / 2) - 100) (decide (q * q * m' ≠ 2 ^ 200))

/-- cos series in fixed point: Σ (−1)^k t^(2k)/(2k)!. -/
def cosSeries : Nat → Nat → Int → Int → Int → Int
  | 0, _, _, _, acc => acc
  | fuel + 1, k, t2, p, acc =>
    let p' := -(fxMul p t2) / ((k * (k + 1) : Nat) : Int)
    cosSeries fuel (k + 2) t2 p' (acc + p')

/-- cos(π u) for 0 ≤ u ≤ 1 (13 R380). -/
def refCosPi (u : F32) : Near :=
  match f32 u with
  | .fin _ m e =>
    if m = 0 then .of fone
    else if u = fone then .of 0xBF800000#32
    else if u = 0x3F000000#32 then .of 0
    else if (bitLen m : Int) + e < -60 then nearBelow fone
    else
      let t := fxMul (fxOf false m e) fxPi
      let v := cosSeries 40 1 (fxMul t t) fxOne fxOne
      fxNear (decide (v < 0)) v.natAbs 0
  | _ => .of qnan

/-- Keep the leading 160 bits of a positive value, and whether that cut something off. -/
def trim160 (m : Nat) (e : Int) : Nat × Int × Bool :=
  let l := bitLen m
  if l ≤ 160 then (m, e, false) else (m >>> (l - 160), e + (l - 160 : Nat), decide (m % 2 ^ (l - 160) ≠ 0))

/-- x^n by squaring, leading bits only; the flag says that something was cut off. -/
def powAux : Nat → Nat → Nat × Int × Bool → Nat × Int × Bool → Nat × Int × Bool
  | 0, _, _, acc => acc
  | fuel + 1, n, b, acc =>
    if n = 0 then acc
    else
      let mul := fun (x y : Nat × Int × Bool) => let r := trim160 (x.1 * y.1) (x.2.1 + y.2.1); (r.1, r.2.1, r.2.2 || x.2.2 || y.2.2)
      powAux fuel (n / 2) (mul b b) (if n % 2 = 1 then mul acc b else acc)

/-- x^n for 0 ≤ x < 1; a power that underflows gives 0 (13 R380). -/
def refPow (x : F32) (n : Nat) : Near :=
  match f32 x with
  | .fin _ m e =>
    if n = 0 then .of fone
    else if m = 0 then .of 0
    else
      let r := powAux 70 n (m, e, false) (1, 0, false)
      let v := nearOf false r.1 r.2.1 r.2.2
      if v.lo = 0 then .of 0 else v
  | _ => .of qnan

/-- The p-th power and root of a positive value, p being 2 or 4 (13 R391). -/
def refPowP (p : Nat) (x : F32) : Near :=
  match f32 x with
  | .fin _ m e => nearOf false (m ^ p) (p * e) false
  | .inf _ => .of 0x7F800000#32
  | .nan => .of qnan
def refRootP (p : Nat) (x : F32) : Near :=
  match f32 x with
  | .nan => .of qnan
  | .inf n => .of (if n then qnan else 0x7F800000#32)
  | .fin n m e =>
    if m = 0 then .of 0
    else if n then .of qnan
    else
      let k := (e % (p : Int)).toNat
      let v := (m <<< k) <<< 320
      let q := if p = 2 then isqrt v else isqrt (isqrt v)
      nearOf false q ((e - k) / p - 320 / p) (decide (q ^ p ≠ v))

/-! What the units give: any value the bound allows. Operation numbers are those of R150; 0x70 and up are the engine's. -/
def fRcp (x : F32) : F32 := within 1 (Config.approx 0x0F x) (refRcp x)
def fRsqrt (x : F32) : F32 := within 1 (Config.approx 0x0E x) (refRsqrt x)
def fExp2 (x : F32) : F32 := within 2 (Config.approx 0x10 x) (refExp2 x)
def fLog2 (x : F32) : F32 := within 2 (Config.approx 0x11 x) (refLog2 x)
def fExp (x : F32) : F32 := within 2 (Config.approx 0x12 x) (refExp x)
def fTanh (x : F32) : F32 := within 2 (Config.approx 0x13 x) (refTanh x)
def fErf (x : F32) : F32 := within 2 (Config.approx 0x14 x) (refErf x)
def fCosPi (x : F32) : F32 := within 2 (Config.approx 0x70 x) (refCosPi x)
def fPow (x : F32) (n : Nat) : F32 := within 2 (Config.approx (0x100 + n) x) (refPow x n)

end Sys2Proof.Machine
end

