-- ==== Sys2Proof/Machine/Vector.lean ====
section
/-! DEFINITION. The vector unit of a core and of an update engine: registers, masks, memory elements and reductions (05 R147 to R156).
The 65 operations are in VecOps.lean. -/
namespace Sys2Proof.Machine

/-! ## Registers (R147) -/

/-- The registers of a unit. `gen` names the free content of a core's lanes that nothing has written since the frame start. -/
structure VRegs where
  vl  : Nat
  gen : Option Nat
  v   : Tbl F32
  m   : Tbl (BitVec 256)
  s   : Tbl W64
  f   : BitVec 8

def coreRegs (k : Core) : VRegs := { vl := 32, gen := some k.vgen, v := k.v, m := k.m, s := k.sreg, f := k.f }
def engRegs (u : Upd) : VRegs := { vl := 256, gen := none, v := u.v, m := u.m, s := u.sreg, f := 1 }

def State.putCoreRegs (s : State) (c : Nat) (r : VRegs) : State :=
  s.modCore c (fun k => { k with v := r.v, m := r.m, sreg := r.s, f := r.f })
def State.putEngRegs (s : State) (d : Nat) (r : VRegs) : State := s.modUpd d (fun u => { u with v := r.v, m := r.m, sreg := r.s })

/-- The entry of a key, if one is listed. -/
def tfind {α : Type} : Tbl α → Nat → Option α
  | [], _ => none
  | (j, a) :: t, k => if j = k then some a else tfind t k

def laneKey (reg i : Nat) : Nat := reg * 256 + i

/-- One lane of a V register. -/
def VRegs.lane (r : VRegs) (reg : BitVec 5) (i : Nat) : F32 :=
  match tfind r.v (laneKey reg.toNat i), r.gen with
  | some x, _ => x
  | none, some g => Config.freeLane g (laneKey reg.toNat i)
  | none, none => 0

/-- All ones of VL lanes. -/
def allLanes (vl : Nat) : BitVec 256 := BitVec.ofNat 256 (2 ^ vl - 1)

/-- A mask register; M0 reads as all ones. -/
def VRegs.mask (r : VRegs) (i : Nat) : BitVec 256 := if i = 0 then allLanes r.vl else tget 0 r.m i
/-- Write a mask register; M0 ignores writes. -/
def VRegs.setMask (r : VRegs) (i : Nat) (x : BitVec 256) : VRegs :=
  if i = 0 then r else { r with m := tset 0 r.m i (x &&& allLanes r.vl) }

def VRegs.sget (r : VRegs) (i : BitVec 5) : W64 := tget 0 r.s i.toNat
def VRegs.sset (r : VRegs) (i : BitVec 5) (x : W64) : VRegs := { r with s := tset 0 r.s i.toNat x }

/-- The lane is active (R148 MSK). -/
def VRegs.act (r : VRegs) (x : VArgs) (i : Nat) : Bool := (r.mask x.msk.toNat).getLsbD i

/-- Write a V register: active lanes take `f`, the others keep their values or are written +0 with MZ. -/
def VRegs.setLanes (r : VRegs) (x : VArgs) (f : Nat → F32) : VRegs :=
  let lo := laneKey x.vd.toNat 0
  let new := (List.range r.vl).map (fun i =>
    (lo + i, if r.act x i then f i else if x.mz then (0 : F32) else r.lane x.vd i))
  { r with v := r.v.filter (fun e => decide (e.1 < lo)) ++ new ++ r.v.filter (fun e => decide (lo + 256 ≤ e.1)) }

/-- Write a mask register lane by lane, in the same way. -/
def VRegs.setMaskLanes (r : VRegs) (x : VArgs) (f : Nat → Bool) : VRegs :=
  let old := r.mask x.vd.toNat
  r.setMask x.vd.toNat (BitVec.ofNat 256 ((List.range r.vl).foldl (fun n i =>
    n + (if (if r.act x i then f i else if x.mz then false else old.getLsbD i) then 2 ^ i else 0)) 0))

/-! ## Outcomes -/

/-- Where an operation runs and what it sees. -/
structure VCtx where
  s  : State
  u  : VUnit
  r  : VRegs
  pc : Nat := 0

/-- What an operation does. -/
inductive VRes where
  /-- It completes with these registers and this state. -/
  | next (r : VRegs) (s : State)
  /-- The engine goes on at this address. -/
  | jump (r : VRegs) (s : State) (pc : Nat)
  | halt
  /-- A reserved encoding, or an operation not legal in this unit (R157). -/
  | bad
  /-- An access failed (R152, R156). -/
  | err (e : Res) (s : State)

abbrev VOp := VCtx → VArgs → VRes

/-- A register field with its must-be-zero bits clear (R148). -/
def sField (f : BitVec 5) : Bool := decide (f.toNat < 16)
def mField (f : BitVec 5) : Bool := decide (f.toNat < 8)

def need (ok : Bool) (k : VRes) : VRes := if ok then k else .bad

def inCore (x : VCtx) : Bool := match x.u with | .core _ _ => true | .engine _ => false

/-- The operation completes with registers `r`. -/
def VCtx.put (x : VCtx) (r : VRegs) : VRes := .next r x.s

/-- Operand b: a lane of Vb, or IMM (R148 I). -/
def opB (x : VCtx) (a : VArgs) (i : Nat) : F32 := if a.i then a.imm else x.r.lane a.vb i

/-- IMM sign-extended to 64 bits. -/
def immS (a : VArgs) : W64 := a.imm.signExtend 64
/-- Scalar operand b. -/
def opS (x : VCtx) (a : VArgs) : W64 := if a.i then immS a else x.r.sget a.vb

/-- FP32 result in bits 31:0, bits 63:32 zero. -/
def lowF (v : F32) : W64 := v.zeroExtend 64
def fOf (v : W64) : F32 := v.truncate 32

/-! ## Reductions (R149, R151) -/

/-- Active lanes in order, inactive ones absent. -/
def activeVals (x : VCtx) (a : VArgs) : List (Option F32) :=
  (List.range x.r.vl).map (fun i => if x.r.act a i then some (x.r.lane a.va i) else none)

/-- One level of the pairwise tree. -/
def pairSums : List (Option F32) → List (Option F32)
  | p :: q :: l => (match p, q with
    | some y, some z => some (fadd y z)
    | some y, none => some y
    | none, z => z) :: pairSums l
  | l => l

/-- The tree of R151 over 2^k lanes; a NaN result is the quiet NaN, of a lone lane too. -/
def treeSum : Nat → List (Option F32) → F32
  | 0, l => toF32 (f32 ((l.headD none).getD 0))
  | k + 1, l => treeSum k (pairSums l)

/-- Levels of the tree: 5 in a core, 8 in an update engine. -/
def treeDepth (vl : Nat) : Nat := if vl = 32 then 5 else 8

def foldVals (f : F32 → F32 → F32) (z : F32) (l : List (Option F32)) : F32 :=
  (l.filterMap id).foldl f z

/-! ## Memory elements (R152) -/

def elemSize (t : Nat) : Nat := match t with | 0 | 5 => 4 | 1 | 2 => 2 | _ => 1

/-- A loaded element as FP32. -/
def elemLoad (t : Nat) (v : Nat) : F32 :=
  match t with
  | 0 => BitVec.ofNat 32 v
  | 1 => widen fmtBf16 v
  | 2 => widen fmtFp16 v
  | 3 => toF32 (Num.ofInt (BitVec.ofNat 8 v).toInt)
  | 4 => toF32 (Num.ofInt v)
  | _ => i2fBits (BitVec.ofNat 32 v)

/-- A stored element. -/
def elemStore (t : Nat) (x : F32) : Nat :=
  match t with
  | 0 => x.toNat
  | 1 => narrow fmtBf16 x
  | 2 => narrow fmtFp16 x
  | 3 => (BitVec.ofInt 8 (satInt (-128) 127 0 (f32 x))).toNat
  | 4 => (satInt 0 255 0 (f32 x)).toNat
  | _ => (f2iBits x).toNat

/-- Address of a memory operation: in a core bits 16:0, in an engine a device address. -/
def vAddr (x : VCtx) (base : W64) (off : W64) : Nat :=
  let v := (base + off).toNat
  if inCore x then v % 0x20000 else v

/-- Partition whose table translates an engine's accesses (13 R371). -/
def engPart (s : State) (d : Nat) : Option Nat := (s.updOf d).part

/-- Quiet NaN in every 32 bits, as read from a failed buffer (04 R113). -/
def nanBytes (n : Nat) : List Byte := (List.replicate 8 [0x00#8, 0x00, 0xC0, 0x7F]).flatten.take (if n < 4 then 4 else n)

/-- Read one element of `n` bytes; a core's read of a failed buffer is flagged. -/
def vRead (x : VCtx) (s : State) (a n : Nat) : Except Res (List Byte × Bool) × State :=
  match x.u with
  | .core c _ => (.ok (rdStore s c a n, inFailed (s.core c) c a n), s)
  | .engine d =>
    match s.busRead (engPart s d) a n with
    | (.ok b, s1) => (.ok (b, false), s1)
    | (.error e, s1) => (.error e, s1)

/-- Write one element. -/
def vWrite (x : VCtx) (s : State) (a : Nat) (l : List Byte) : Res × State :=
  match x.u with
  | .core c _ => (.at a, s.vecStore c a l)
  | .engine d =>
    match s.busWrite (engPart s d) a l with
    | (.at pa, s1) => (.at pa, if hostBase ≤ pa then s1.modHlk (fun h => { h with sent := h.sent + 1 }) else s1)
    | (.wait, s1) => (.wait, if leavingPage s1 (engPart s d) a
        then s1.modUpd d (fun u => { u with writeFrom := some (u.writeFrom.getD (s1.time, (engPart s d).getD 0)) }) else s1)
    | r => r

/-- Read the element of every active lane; gives lane values in rising lane order, or the failing access. -/
def readLanes (x : VCtx) (a : VArgs) (conv : Nat → Bool → List Byte → F32) (base sz : Nat) : Nat → State → List Nat → Except Res (Tbl F32) × State
  | 0, s, _ => (.ok [], s)
  | _, s, [] => (.ok [], s)
  | fuel + 1, s, i :: l =>
    if x.r.act a i then
      match vRead x s (base + i * sz) sz with
      | (.error e, s1) => (.error e, s1)
      | (.ok (b, bad), s1) =>
        match readLanes x a conv base sz fuel s1 l with
        | (.ok t, s2) => (.ok ((i, conv i bad b) :: t), s2)
        | r => r
    else readLanes x a conv base sz fuel s l

/-- Write the element of every active lane, stopping at the first that fails. -/
def writeLanes (x : VCtx) (a : VArgs) (val : Nat → List Byte) (base sz : Nat) : State → List Nat → Option Res × State
  | s, [] => (none, s)
  | s, i :: l =>
    if x.r.act a i then
      match vWrite x s (base + i * sz) (val i) with
      | (r, s1) => if r.done then writeLanes x a val base sz s1 l else (some r, s1)
    else writeLanes x a val base sz s l

/-- S[a] after a memory operation with POST (R152): it grows by the bytes moved. -/
def post (r : VRegs) (a : VArgs) (n : Nat) : VRegs :=
  if a.vb.toNat % 2 = 1 then r.sset a.va (r.sget a.va + BitVec.ofNat 64 n) else r

/-- Bytes the active lanes move. -/
def movedBytes (x : VCtx) (a : VArgs) (sz : Nat) : Nat := ((List.range x.r.vl).filter (fun i => x.r.act a i)).length * sz

/-! ## Issue -/

/-- A reserved encoding for a core, or an operation a core does not have (R157). -/
def vecBad (s : State) (c : Nat) (h : WordHdr) (x : VArgs) (op : VOp) : Bool :=
  match op { s := s, u := .core c h, r := coreRegs (s.core c) } x with
  | .next _ _ | .err _ _ => false
  | _ => true

/-- One instruction of core `c` (R129, R157). -/
def State.vecCore (s : State) (c : Nat) (h : WordHdr) (x : VArgs) (op : VOp) : State :=
  match op { s := s, u := .core c h, r := coreRegs (s.core c) } x with
  | .next r s1 => s1.putCoreRegs c r
  | .err _ s1 => s1.markBusErr c h.slot
  | _ => s.reservedWord c h

/-- A program stop: UPD_FAULT latches the PC (13 R388). -/
def State.progStop (s : State) (d : Nat) (st : Status) : State :=
  (s.writeDone d).modUpd d (fun u =>
    let u1 := if u.fltVal then u else { u with fltVal := true, fltPc := u.pc.truncate 48 }
    { u1 with ended := some st })

/-- One instruction of an update engine (R156, R157). -/
def State.vecEngine (s : State) (d : Nat) (x : VArgs) (op : VOp) : State :=
  let u := s.updOf d
  let pc := u.pc
  let count := fun (s : State) (p : W64) => (s.writeDone d).modUpd d (fun u => { u with pc := p, issued := u.issued + 1 })
  match op { s := s, u := .engine d, r := engRegs u, pc := pc.toNat } x with
  | .next r s1 => count (s1.putEngRegs d r) (pc + 8)
  | .jump r s1 p => count (s1.putEngRegs d r) (BitVec.ofNat 64 p)
  | .halt => (count s pc).modUpd d (fun u => { u with ended := some .ok })
  | .bad => (s.event 0x0610 (dieCode d) (pc.toNat % 2 ^ 32)).progStop d .badOpcode
  | .err .wait s1 => s.modUpd d (fun u => { u with writeFrom := (s1.updOf d).writeFrom })
  | .err .lost s1 => s1.progStop d .hostLost
  | .err _ s1 => s1.progStop d .busError

/-- A row of the vector instruction set: a VEC word of a core, or an instruction of an engine whose program has not ended. -/
def State.vec (s : State) (u : VUnit) (opc : BitVec 7) (x : VArgs) (ready : Bool) (op : VOp) : State :=
  match u with
  | .core c h => s.issue c h (.vec opc x) none ready (vecBad s c h x op) id (fun s => s.vecCore c h x op)
  | .engine d => if s.alive && decide (d < 4) && (s.updOf d).ended.isNone then
      let f := fun (s : State) => s.vecEngine d x op
      (if (s.updOf d).part.isSome then s.onBehalf (s.updOf d).curStream.toNat (some d) f else f s).modHlk (fun h => { h with sent := s.hlk.sent })
    else s

end Sys2Proof.Machine
end

