-- ==== Sys2Proof/Machine/VecOps.lean ====
section
/-! DEFINITION. The operations of the vector instruction set, each with its row (05 R150, R152, R153). -/
namespace Sys2Proof.Machine

/-- a = b of two FP32 patterns, false when either is NaN. -/
def feqb (a b : F32) : Bool := !(f32 a).isNan && !(f32 b).isNan && (f32 a).eqv (f32 b)

/-- Target of a branch (R156). -/
def target (x : VCtx) (a : VArgs) : Nat := (BitVec.ofNat 64 x.pc + (immS a <<< 3)).toNat

/-! ## LDQ and STQ (R152) -/

/-- Active lanes of group `g`. -/
def groupLanes (x : VCtx) (a : VArgs) (g : Nat) : List Nat := (List.range 64).filterMap (fun i => if x.r.act a (64 * g + i) then some (64 * g + i) else none)

/-- The FP16 scales of the groups that have an active lane. -/
def readGroups (x : VCtx) (a : VArgs) (base : Nat) : State → List Nat → Except Res (Tbl F32) × State
  | s, [] => (.ok [], s)
  | s, g :: l =>
    if (groupLanes x a g).isEmpty then readGroups x a base s l
    else
      match vRead x s (base + 2 * g) 2 with
      | (.error e, s1) => (.error e, s1)
      | (.ok (b, _), s1) =>
        match readGroups x a base s1 l with
        | (.ok t, s2) => (.ok ((g, widen fmtFp16 (leNat b)) :: t), s2)
        | r => r

/-- A group's scale: its largest magnitude over 127 or 255, to nearest even in FP16; NaN gives 0x7E00. -/
def quantScale (t : Nat) (l : List F32) : Nat :=
  if l.any (fun v => (f32 v).isNan) then 0x7E00
  else divNum fmtFp16 .saturate (maxMag (l.map f32)) (Num.ofInt (if t = 3 then 127 else 255))

/-- An element against its group's scale, to nearest even and saturated. -/
def quantElem (t scale : Nat) (v : F32) : Byte :=
  let lo : Int := if t = 3 then -128 else 0
  let hi : Int := if t = 3 then 127 else 255
  match f32 v, fdecode fmtFp16 scale with
  | _, .nan => 0
  | .nan, _ => 0
  | .inf n, _ => BitVec.ofInt 8 (if n then lo else hi)
  | .fin n m e, .fin _ ms es =>
    if m = 0 then 0
    else if ms = 0 then BitVec.ofInt 8 (if n then lo else hi)
    else
      let q := Min.min e es
      let a := m * 2 ^ (e - q).toNat
      let b := ms * 2 ^ (es - q).toNat
      let f := a / b
      let r := a % b
      let k : Int := if 2 * r < b then f else if b < 2 * r then f + 1 else if f % 2 = 0 then f else f + 1
      BitVec.ofInt 8 (Max.max lo (Min.min hi (if n then -k else k)))
  | _, _ => 0

def writeGroups (x : VCtx) (a : VArgs) (base : Nat) (q : Nat → Nat) : State → List Nat → Option Res × State
  | s, [] => (none, s)
  | s, g :: l =>
    if (groupLanes x a g).isEmpty then writeGroups x a base q s l
    else
      match vWrite x s (base + 2 * g) (leBytes 2 (q g)) with
      | (r, s1) => if r.done then writeGroups x a base q s1 l else (some r, s1)

/-- The running maximum of the FP32 values stored as the new master (13 R387). -/
def noteMaster (x : VCtx) (a : VArgs) (t ad : Nat) (s : State) : State :=
  match x.u with
  | .core _ _ => s
  | .engine d =>
    match (s.updOf d).win with
    | none => s
    | some (lo, n) =>
      let vs := (List.range x.r.vl).filterMap (fun i =>
        if x.r.act a i ∧ t = 0 ∧ lo ≤ ad + 4 * i ∧ ad + 4 * i < lo + n then some (f32 (x.r.lane a.vd i)) else none)
      s.modUpd d (fun u => { u with amax := runMax u.amax vs })

/-! ## CVTB (R153) -/

def cvtbEnc (a : VArgs) : BitVec 2 := BitVec.ofNat 2 (fieldNat a.vb.toNat 4 3)
def cvtbPieces (a : VArgs) : Nat := fieldNat a.vc.toNat 1 0
def cvtbMaxr (a : VArgs) : Nat := fieldNat a.vc.toNat 4 2
def cvtbLen (a : VArgs) : Nat := fieldNat a.imm.toNat 25 13
def cvtbRows (a : VArgs) : Nat := fieldNat a.imm.toNat 12 0 + 1
def cvtbType (a : VArgs) : Nat := fieldNat a.imm.toNat 27 26

/-- The fields of a CVTB are legal (R153, R157); a row length or a row count out of its range is taken as a reserved encoding (DESIGN CHOICE,
notes/assumptions/77.md). -/
def cvtbOk (a : VArgs) : Bool :=
  sField a.va && sField a.vd && cvtbEnc a ≠ 3 && cvtbPieces a ≠ 3 && !(cvtbPieces a ≠ 0 && cvtbEnc a = 2) && decide (cvtbMaxr a ≤ 4)
    && cvtbType a ≠ 3 && cvtbLen a ≠ 0 && cvtbLen a % 16 = 0 && (!bitAt a.vb.toNat 2 || cvtbRows a % 16 = 0)

/-- Start the conversion: its output appears at CONVERSION_DONE. -/
def State.startConversion (s : State) (c : Nat) (a : VArgs) (r : VRegs) : State :=
  let k := s.core c
  let t := cvtbType a
  let sz := elemSize t
  let n := cvtbRows a * cvtbLen a
  let src := (r.sget a.va).toNat
  let coarse : F32 := fOf (r.sget (BitVec.ofNat 5 (fieldNat a.imm.toNat 31 28)))
  let vals := (List.range n).map (fun i =>
    let o := src + i * sz
    if inFailed k c o sz then Num.nan else f32 (elemLoad t (leNat (rdStore s c o sz))))
  let sr := if bitAt a.vb.toNat 1 then srCycles ((n + 31) / 32) k.gens else ([], k.gens)
  let np := cvtbPieces a + 1
  let o := convertMatrix (cvtbEnc a) np coarse (bitAt a.vb.toNat 2) (cvtbRows a) (cvtbLen a) vals sr.1
  let out := (List.range np).flatMap (fun i => padLine (o.images.getD i []))
  let s1 := s.modCore c (fun k =>
    { k with gens := sr.2, conv := [((r.sget a.vd).toNat, out)], convNo := k.issues + 1,
             maxr := if cvtbMaxr a < 4 then tmod 0 k.maxr (cvtbMaxr a) (fun m => runMax m vals) else k.maxr })
  let s2 := if o.pois = 0 then s1 else s1.event 0x0A10 c o.pois
  let s3 := if o.sat = 0 then s2 else s2.event 0x0A11 c o.sat
  if goodScale coarse then s3 else s3.event 0x0A13 c coarse.toNat

/-! ## The operations -/

def opVecNop : VOp := fun x a => need (!a.i) (x.put x.r)

def opAdd : VOp := fun x a => x.put (x.r.setLanes a (fun i => fadd (x.r.lane a.va i) (opB x a i)))

def opSub : VOp := fun x a => x.put (x.r.setLanes a (fun i => fsub (x.r.lane a.va i) (opB x a i)))

def opMul : VOp := fun x a => x.put (x.r.setLanes a (fun i => fmul (x.r.lane a.va i) (opB x a i)))

def opFma : VOp := fun x a => x.put (x.r.setLanes a (fun i => ffma (x.r.lane a.va i) (opB x a i) (x.r.lane a.vc i)))

def opFnma : VOp := fun x a => x.put (x.r.setLanes a (fun i => ffnma (x.r.lane a.va i) (opB x a i) (x.r.lane a.vc i)))

def opMin : VOp := fun x a => x.put (x.r.setLanes a (fun i => fmin (x.r.lane a.va i) (opB x a i)))

def opMax : VOp := fun x a => x.put (x.r.setLanes a (fun i => fmax (x.r.lane a.va i) (opB x a i)))

def opClamp : VOp := fun x a => x.put (x.r.setLanes a (fun i => fmin (fmax (x.r.lane a.va i) (opB x a i)) (x.r.lane a.vc i)))

def opAbs : VOp := fun x a => need (!a.i) <| x.put (x.r.setLanes a (fun i => fabs (x.r.lane a.va i)))

def opNeg : VOp := fun x a => need (!a.i) <| x.put (x.r.setLanes a (fun i => fneg (x.r.lane a.va i)))

def opSign : VOp := fun x a => need (!a.i) <| x.put (x.r.setLanes a (fun i => fsign (x.r.lane a.va i)))

def opDiv : VOp := fun x a => x.put (x.r.setLanes a (fun i => fdiv (x.r.lane a.va i) (opB x a i)))

def opSqrt : VOp := fun x a => need (!a.i) <| x.put (x.r.setLanes a (fun i => fsqrt (x.r.lane a.va i)))

def opRsqrt : VOp := fun x a => need (!a.i) <| x.put (x.r.setLanes a (fun i => fRsqrt (x.r.lane a.va i)))

def opRcp : VOp := fun x a => need (!a.i) <| x.put (x.r.setLanes a (fun i => fRcp (x.r.lane a.va i)))

def opExp2 : VOp := fun x a => need (!a.i) <| x.put (x.r.setLanes a (fun i => fExp2 (x.r.lane a.va i)))

def opLog2 : VOp := fun x a => need (!a.i) <| x.put (x.r.setLanes a (fun i => fLog2 (x.r.lane a.va i)))

def opExp : VOp := fun x a => need (!a.i) <| x.put (x.r.setLanes a (fun i => fExp (x.r.lane a.va i)))

def opTanh : VOp := fun x a => need (!a.i) <| x.put (x.r.setLanes a (fun i => fTanh (x.r.lane a.va i)))

def opErf : VOp := fun x a => need (!a.i) <| x.put (x.r.setLanes a (fun i => fErf (x.r.lane a.va i)))

def opSel : VOp := fun x a =>
  need (mField a.vc) <| x.put (x.r.setLanes a (fun i => if (x.r.mask a.vc.toNat).getLsbD i then (x.r.lane a.va i) else (opB x a i)))

def opMov : VOp := fun x a => x.put (x.r.setLanes a (fun i => if a.i then a.imm else (x.r.lane a.va i)))

def opCeq : VOp := fun x a =>
  need (mField a.vd) <| x.put (x.r.setMaskLanes a (fun i => feqb (x.r.lane a.va i) (opB x a i)))

def opCne : VOp := fun x a =>
  need (mField a.vd) <| x.put (x.r.setMaskLanes a (fun i => !feqb (x.r.lane a.va i) (opB x a i)))

def opClt : VOp := fun x a =>
  need (mField a.vd) <| x.put (x.r.setMaskLanes a (fun i => fltb (x.r.lane a.va i) (opB x a i)))

def opCle : VOp := fun x a =>
  need (mField a.vd) <| x.put (x.r.setMaskLanes a (fun i => fleb (x.r.lane a.va i) (opB x a i)))

def opMand : VOp := fun x a =>
  need (!a.i && mField a.vd && mField a.va && mField a.vb) <| x.put (x.r.setMaskLanes a (fun i => ((x.r.mask a.va.toNat).getLsbD i) && ((x.r.mask a.vb.toNat).getLsbD i)))

def opMor : VOp := fun x a =>
  need (!a.i && mField a.vd && mField a.va && mField a.vb) <| x.put (x.r.setMaskLanes a (fun i => ((x.r.mask a.va.toNat).getLsbD i) || ((x.r.mask a.vb.toNat).getLsbD i)))

def opMxor : VOp := fun x a =>
  need (!a.i && mField a.vd && mField a.va && mField a.vb) <| x.put (x.r.setMaskLanes a (fun i => ((x.r.mask a.va.toNat).getLsbD i) != ((x.r.mask a.vb.toNat).getLsbD i)))

def opMnot : VOp := fun x a =>
  need (!a.i && mField a.vd && mField a.va) <| x.put (x.r.setMaskLanes a (fun i => !((x.r.mask a.va.toNat).getLsbD i)))

def opMfirst : VOp := fun x a =>
  need (!a.i && mField a.vd) <| x.put (x.r.setMaskLanes a (fun i => decide (i < a.imm.toNat)))

def opMcnt : VOp := fun x a =>
  need (!a.i && sField a.vd && mField a.va) <|
    x.put (x.r.sset a.vd (BitVec.ofNat 64 ((List.range x.r.vl).filter (fun i => (x.r.mask a.va.toNat).getLsbD i)).length))

/-- F0 always reads 1, so a write to it has no effect (R130). -/
def opMflag : VOp := fun x a =>
  need (inCore x && !a.i && mField a.vd && mField a.va) <|
    let any := x.r.mask a.va.toNat ≠ 0
    let bit : BitVec 8 := BitVec.ofNat 8 (2 ^ a.vd.toNat)
    x.put { x.r with f := (if any then x.r.f ||| bit else x.r.f &&& ~~~bit) ||| 1 }

def opRsum : VOp := fun x a =>
  need (!a.i && sField a.vd) <| x.put (x.r.sset a.vd (lowF (treeSum (treeDepth x.r.vl) (activeVals x a))))

def opRsumsq : VOp := fun x a =>
  need (!a.i && sField a.vd) <| x.put (x.r.sset a.vd (lowF (treeSum (treeDepth x.r.vl) ((activeVals x a).map (fun o => o.map (fun v => fmul v v))))))

def opRmax : VOp := fun x a =>
  need (!a.i && sField a.vd) <| x.put (x.r.sset a.vd (lowF (foldVals fmax 0xFF800000 (activeVals x a))))

def opRmin : VOp := fun x a =>
  need (!a.i && sField a.vd) <| x.put (x.r.sset a.vd (lowF (foldVals fmin 0x7F800000 (activeVals x a))))

def opRamax : VOp := fun x a =>
  need (!a.i && sField a.vd) <| x.put (x.r.sset a.vd (lowF (foldVals fmax 0 ((activeVals x a).map (fun o => o.map fabs)))))

def opBcast : VOp := fun x a =>
  need (!a.i && sField a.va) <| x.put (x.r.setLanes a (fun _ => fOf (x.r.sget a.va)))

def opIota : VOp := fun x a => need (!a.i) <| x.put (x.r.setLanes a (fun i => toF32 (Num.ofInt i)))

def opF2i : VOp := fun x a => need (!a.i) <| x.put (x.r.setLanes a (fun i => f2iBits (x.r.lane a.va i)))

def opI2f : VOp := fun x a => need (!a.i) <| x.put (x.r.setLanes a (fun i => i2fBits (x.r.lane a.va i)))

def opLd : VOp := fun x a =>
  let t := a.vc.toNat % 8
  let sz := elemSize t
  let ad := vAddr x (x.r.sget a.va) (immS a)
  need (!a.i && sField a.va && decide (t < 6)) <|
    if ad % sz ≠ 0 then .err .bus x.s
    else
      match readLanes x a (fun _ bad b => if bad then qnan else elemLoad t (leNat b)) ad sz 256 x.s (List.range x.r.vl) with
      | (.error e, s1) => .err e s1
      | (.ok l, s1) => .next (post (x.r.setLanes a (fun i => tget 0 l i)) a (movedBytes x a sz)) s1

/-- An engine's FP32 stores into the new master are what its running maximum sees (13 R387). -/
def opSt : VOp := fun x a =>
  let t := a.vc.toNat % 8
  let sz := elemSize t
  let ad := vAddr x (x.r.sget a.va) (immS a)
  need (!a.i && sField a.va && decide (t < 6)) <|
    if ad % sz ≠ 0 then .err .bus x.s
    else
      match writeLanes x a (fun i => leBytes sz (elemStore t (x.r.lane a.vd i))) ad sz x.s (List.range x.r.vl) with
      | (some e, s1) => .err e s1
      | (none, s1) => .next (post x.r a (movedBytes x a sz)) (noteMaster x a t ad s1)

/-- With no lane active it still reads its element, and POST adds 4 (DESIGN CHOICE, notes/assumptions/77.md). -/
def opLdb : VOp := fun x a =>
  let ad := vAddr x (x.r.sget a.va) (immS a)
  need (!a.i && sField a.va) <|
    if ad % 4 ≠ 0 then .err .bus x.s
    else
      match vRead x x.s ad 4 with
      | (.error e, s1) => .err e s1
      | (.ok (b, bad), s1) => .next (post (x.r.setLanes a (fun _ => if bad then qnan else BitVec.ofNat 32 (leNat b))) a 4) s1

def opLdq : VOp := fun x a =>
  let t := a.vc.toNat % 8
  let ad := vAddr x (x.r.sget a.va) (immS a)
  let sc := (x.r.sget a.vb).toNat
  need (!inCore x && !a.i && sField a.va && sField a.vb && (t = 3 || t = 4)) <|
    if sc % 2 ≠ 0 then .err .bus x.s
    else
      match readGroups x a sc x.s [0, 1, 2, 3] with
      | (.error e, s1) => .err e s1
      | (.ok g, s1) =>
        match readLanes x a (fun i _ b => fmul (elemLoad t (leNat b)) (tget 0 g (i / 64))) ad 1 256 s1 (List.range x.r.vl) with
        | (.error e, s2) => .err e s2
        | (.ok l, s2) => .next (x.r.setLanes a (fun i => tget 0 l i)) s2

def opStq : VOp := fun x a =>
  let t := a.vc.toNat % 8
  let ad := vAddr x (x.r.sget a.va) (immS a)
  let sc := (x.r.sget a.vb).toNat
  need (!inCore x && !a.i && sField a.va && sField a.vb && (t = 3 || t = 4)) <|
    if sc % 2 ≠ 0 then .err .bus x.s
    else
      let q := fun (g : Nat) => quantScale t ((groupLanes x a g).map (fun i => x.r.lane a.vd i))
      match writeGroups x a sc q x.s [0, 1, 2, 3] with
      | (some e, s1) => .err e s1
      | (none, s1) =>
        match writeLanes x a (fun i => [quantElem t (q (i / 64)) (x.r.lane a.vd i)]) ad 1 s1 (List.range x.r.vl) with
        | (some e, s2) => .err e s2
        | (none, s2) => .next x.r s2

def opSld : VOp := fun x a =>
  let ad := vAddr x (x.r.sget a.va) (immS a)
  need (!a.i && sField a.va && sField a.vd) <|
    if ad % 8 ≠ 0 then .err .bus x.s
    else
      match vRead x x.s ad 8 with
      | (.error e, s1) => .err e s1
      | (.ok (b, bad), s1) => .next ((post x.r a 8).sset a.vd (BitVec.ofNat 64 (leNat (if bad then nanBytes 8 else b)))) s1

def opSst : VOp := fun x a =>
  let ad := vAddr x (x.r.sget a.va) (immS a)
  need (!a.i && sField a.va && sField a.vd) <|
    if ad % 8 ≠ 0 then .err .bus x.s
    else
      match vWrite x x.s ad (leBytes 8 (x.r.sget a.vd).toNat) with
      | (r, s1) => if r.done then .next (post x.r a 8) s1 else .err r s1

def opCvtb : VOp := fun x a =>
  match x.u with
  | .engine _ => .bad
  | .core c _ => need (!a.i && cvtbOk a) (.next x.r (x.s.startConversion c a x.r))

def opSli : VOp := fun x a =>
  need (!a.i && sField a.vd) <| x.put (x.r.sset a.vd
    (if a.vc.toNat % 2 = 0 then a.imm.zeroExtend 64 else (a.imm ++ fOf (x.r.sget a.vd) : BitVec 64)))

def opSadd : VOp := fun x a =>
  need (sField a.vd && sField a.va && (a.i || sField a.vb)) <| x.put (x.r.sset a.vd (x.r.sget a.va + opS x a))

def opSsub : VOp := fun x a =>
  need (sField a.vd && sField a.va && (a.i || sField a.vb)) <| x.put (x.r.sset a.vd (x.r.sget a.va - opS x a))

def opSmul : VOp := fun x a =>
  need (sField a.vd && sField a.va && (a.i || sField a.vb)) <| x.put (x.r.sset a.vd (x.r.sget a.va * opS x a))

def opSfadd : VOp := fun x a =>
  need (sField a.vd && sField a.va && (a.i || sField a.vb)) <| x.put (x.r.sset a.vd (lowF (fadd (fOf (x.r.sget a.va)) (fOf (opS x a)))))

def opSfmul : VOp := fun x a =>
  need (sField a.vd && sField a.va && (a.i || sField a.vb)) <| x.put (x.r.sset a.vd (lowF (fmul (fOf (x.r.sget a.va)) (fOf (opS x a)))))

def opSfdiv : VOp := fun x a =>
  need (sField a.vd && sField a.va && (a.i || sField a.vb)) <| x.put (x.r.sset a.vd (lowF (fdiv (fOf (x.r.sget a.va)) (fOf (opS x a)))))

def opBr : VOp := fun x a => need (!inCore x && !a.i) (.jump x.r x.s (target x a))

def opBz : VOp := fun x a =>
  need (!inCore x && !a.i && sField a.va) (if x.r.sget a.va = 0 then .jump x.r x.s (target x a) else x.put x.r)

def opBnz : VOp := fun x a =>
  need (!inCore x && !a.i && sField a.va) (if x.r.sget a.va ≠ 0 then .jump x.r x.s (target x a) else x.put x.r)

def opBlt : VOp := fun x a =>
  need (!inCore x && !a.i && sField a.va && sField a.vb) (if (x.r.sget a.va).slt (x.r.sget a.vb) then .jump x.r x.s (target x a) else x.put x.r)

def opCall : VOp := fun x a =>
  need (!inCore x && !a.i) (.jump (x.r.sset 15 (BitVec.ofNat 64 (x.pc + 8))) x.s (target x a))

def opRet : VOp := fun x a => need (!inCore x && !a.i) (.jump x.r x.s (x.r.sget 15).toNat)

def opProgramHalt : VOp := fun x a => need (!inCore x && !a.i) .halt

/-- The operation of an opcode (R150); every opcode not listed is reserved. -/
def vop (opc : Nat) : VOp :=
  match opc with
  | 0x00 => opVecNop
  | 0x01 => opAdd
  | 0x02 => opSub
  | 0x03 => opMul
  | 0x04 => opFma
  | 0x05 => opFnma
  | 0x06 => opMin
  | 0x07 => opMax
  | 0x08 => opClamp
  | 0x09 => opAbs
  | 0x0A => opNeg
  | 0x0B => opSign
  | 0x0C => opDiv
  | 0x0D => opSqrt
  | 0x0E => opRsqrt
  | 0x0F => opRcp
  | 0x10 => opExp2
  | 0x11 => opLog2
  | 0x12 => opExp
  | 0x13 => opTanh
  | 0x14 => opErf
  | 0x15 => opSel
  | 0x16 => opMov
  | 0x20 => opCeq
  | 0x21 => opCne
  | 0x22 => opClt
  | 0x23 => opCle
  | 0x28 => opMand
  | 0x29 => opMor
  | 0x2A => opMxor
  | 0x2B => opMnot
  | 0x2C => opMfirst
  | 0x2D => opMcnt
  | 0x2E => opMflag
  | 0x30 => opRsum
  | 0x31 => opRsumsq
  | 0x32 => opRmax
  | 0x33 => opRmin
  | 0x34 => opRamax
  | 0x35 => opBcast
  | 0x36 => opIota
  | 0x38 => opF2i
  | 0x39 => opI2f
  | 0x40 => opLd
  | 0x41 => opSt
  | 0x42 => opLdb
  | 0x43 => opLdq
  | 0x44 => opStq
  | 0x45 => opSld
  | 0x46 => opSst
  | 0x48 => opCvtb
  | 0x50 => opSli
  | 0x51 => opSadd
  | 0x52 => opSsub
  | 0x53 => opSmul
  | 0x54 => opSfadd
  | 0x55 => opSfmul
  | 0x56 => opSfdiv
  | 0x60 => opBr
  | 0x61 => opBz
  | 0x62 => opBnz
  | 0x63 => opBlt
  | 0x64 => opCall
  | 0x65 => opRet
  | 0x66 => opProgramHalt
  | _ => fun _ _ => .bad

/-! ## The rows -/

def execVecNop (u : VUnit) (x : VArgs) (s : State) : Host.Outcome State Fault Refusal := ok (s.vec u 0x00 x true opVecNop)
def execAdd (u : VUnit) (x : VArgs) (s : State) : Host.Outcome State Fault Refusal := ok (s.vec u 0x01 x true opAdd)
def execSub (u : VUnit) (x : VArgs) (s : State) : Host.Outcome State Fault Refusal := ok (s.vec u 0x02 x true opSub)
def execMul (u : VUnit) (x : VArgs) (s : State) : Host.Outcome State Fault Refusal := ok (s.vec u 0x03 x true opMul)
def execFma (u : VUnit) (x : VArgs) (s : State) : Host.Outcome State Fault Refusal := ok (s.vec u 0x04 x true opFma)
def execFnma (u : VUnit) (x : VArgs) (s : State) : Host.Outcome State Fault Refusal := ok (s.vec u 0x05 x true opFnma)
def execMin (u : VUnit) (x : VArgs) (s : State) : Host.Outcome State Fault Refusal := ok (s.vec u 0x06 x true opMin)
def execMax (u : VUnit) (x : VArgs) (s : State) : Host.Outcome State Fault Refusal := ok (s.vec u 0x07 x true opMax)
def execClamp (u : VUnit) (x : VArgs) (s : State) : Host.Outcome State Fault Refusal := ok (s.vec u 0x08 x true opClamp)
def execAbs (u : VUnit) (x : VArgs) (s : State) : Host.Outcome State Fault Refusal := ok (s.vec u 0x09 x true opAbs)
def execNeg (u : VUnit) (x : VArgs) (s : State) : Host.Outcome State Fault Refusal := ok (s.vec u 0x0A x true opNeg)
def execSign (u : VUnit) (x : VArgs) (s : State) : Host.Outcome State Fault Refusal := ok (s.vec u 0x0B x true opSign)
def execDiv (u : VUnit) (x : VArgs) (s : State) : Host.Outcome State Fault Refusal := ok (s.vec u 0x0C x true opDiv)
def execSqrt (u : VUnit) (x : VArgs) (s : State) : Host.Outcome State Fault Refusal := ok (s.vec u 0x0D x true opSqrt)
def execRsqrt (u : VUnit) (x : VArgs) (s : State) : Host.Outcome State Fault Refusal := ok (s.vec u 0x0E x true opRsqrt)
def execRcp (u : VUnit) (x : VArgs) (s : State) : Host.Outcome State Fault Refusal := ok (s.vec u 0x0F x true opRcp)
def execExp2 (u : VUnit) (x : VArgs) (s : State) : Host.Outcome State Fault Refusal := ok (s.vec u 0x10 x true opExp2)
def execLog2 (u : VUnit) (x : VArgs) (s : State) : Host.Outcome State Fault Refusal := ok (s.vec u 0x11 x true opLog2)
def execExp (u : VUnit) (x : VArgs) (s : State) : Host.Outcome State Fault Refusal := ok (s.vec u 0x12 x true opExp)
def execTanh (u : VUnit) (x : VArgs) (s : State) : Host.Outcome State Fault Refusal := ok (s.vec u 0x13 x true opTanh)
def execErf (u : VUnit) (x : VArgs) (s : State) : Host.Outcome State Fault Refusal := ok (s.vec u 0x14 x true opErf)
def execSel (u : VUnit) (x : VArgs) (s : State) : Host.Outcome State Fault Refusal := ok (s.vec u 0x15 x true opSel)
def execMov (u : VUnit) (x : VArgs) (s : State) : Host.Outcome State Fault Refusal := ok (s.vec u 0x16 x true opMov)
def execCeq (u : VUnit) (x : VArgs) (s : State) : Host.Outcome State Fault Refusal := ok (s.vec u 0x20 x true opCeq)
def execCne (u : VUnit) (x : VArgs) (s : State) : Host.Outcome State Fault Refusal := ok (s.vec u 0x21 x true opCne)
def execClt (u : VUnit) (x : VArgs) (s : State) : Host.Outcome State Fault Refusal := ok (s.vec u 0x22 x true opClt)
def execCle (u : VUnit) (x : VArgs) (s : State) : Host.Outcome State Fault Refusal := ok (s.vec u 0x23 x true opCle)
def execMand (u : VUnit) (x : VArgs) (s : State) : Host.Outcome State Fault Refusal := ok (s.vec u 0x28 x true opMand)
def execMor (u : VUnit) (x : VArgs) (s : State) : Host.Outcome State Fault Refusal := ok (s.vec u 0x29 x true opMor)
def execMxor (u : VUnit) (x : VArgs) (s : State) : Host.Outcome State Fault Refusal := ok (s.vec u 0x2A x true opMxor)
def execMnot (u : VUnit) (x : VArgs) (s : State) : Host.Outcome State Fault Refusal := ok (s.vec u 0x2B x true opMnot)
def execMfirst (u : VUnit) (x : VArgs) (s : State) : Host.Outcome State Fault Refusal := ok (s.vec u 0x2C x true opMfirst)
def execMcnt (u : VUnit) (x : VArgs) (s : State) : Host.Outcome State Fault Refusal := ok (s.vec u 0x2D x true opMcnt)
def execMflag (u : VUnit) (x : VArgs) (s : State) : Host.Outcome State Fault Refusal := ok (s.vec u 0x2E x true opMflag)
def execRsum (u : VUnit) (x : VArgs) (s : State) : Host.Outcome State Fault Refusal := ok (s.vec u 0x30 x true opRsum)
def execRsumsq (u : VUnit) (x : VArgs) (s : State) : Host.Outcome State Fault Refusal := ok (s.vec u 0x31 x true opRsumsq)
def execRmax (u : VUnit) (x : VArgs) (s : State) : Host.Outcome State Fault Refusal := ok (s.vec u 0x32 x true opRmax)
def execRmin (u : VUnit) (x : VArgs) (s : State) : Host.Outcome State Fault Refusal := ok (s.vec u 0x33 x true opRmin)
def execRamax (u : VUnit) (x : VArgs) (s : State) : Host.Outcome State Fault Refusal := ok (s.vec u 0x34 x true opRamax)
def execBcast (u : VUnit) (x : VArgs) (s : State) : Host.Outcome State Fault Refusal := ok (s.vec u 0x35 x true opBcast)
def execIota (u : VUnit) (x : VArgs) (s : State) : Host.Outcome State Fault Refusal := ok (s.vec u 0x36 x true opIota)
def execF2i (u : VUnit) (x : VArgs) (s : State) : Host.Outcome State Fault Refusal := ok (s.vec u 0x38 x true opF2i)
def execI2f (u : VUnit) (x : VArgs) (s : State) : Host.Outcome State Fault Refusal := ok (s.vec u 0x39 x true opI2f)
def execLd (u : VUnit) (x : VArgs) (s : State) : Host.Outcome State Fault Refusal := ok (s.vec u 0x40 x true opLd)
def execSt (u : VUnit) (x : VArgs) (s : State) : Host.Outcome State Fault Refusal := ok (s.vec u 0x41 x true opSt)
def execLdb (u : VUnit) (x : VArgs) (s : State) : Host.Outcome State Fault Refusal := ok (s.vec u 0x42 x true opLdb)
def execLdq (u : VUnit) (x : VArgs) (s : State) : Host.Outcome State Fault Refusal := ok (s.vec u 0x43 x true opLdq)
def execStq (u : VUnit) (x : VArgs) (s : State) : Host.Outcome State Fault Refusal := ok (s.vec u 0x44 x true opStq)
def execSld (u : VUnit) (x : VArgs) (s : State) : Host.Outcome State Fault Refusal := ok (s.vec u 0x45 x true opSld)
def execSst (u : VUnit) (x : VArgs) (s : State) : Host.Outcome State Fault Refusal := ok (s.vec u 0x46 x true opSst)
def execCvtb (u : VUnit) (x : VArgs) (s : State) : Host.Outcome State Fault Refusal := ok (s.vec u 0x48 x (match u with | .core c _ => (s.core c).conv.isEmpty | .engine _ => true) opCvtb)
def execSli (u : VUnit) (x : VArgs) (s : State) : Host.Outcome State Fault Refusal := ok (s.vec u 0x50 x true opSli)
def execSadd (u : VUnit) (x : VArgs) (s : State) : Host.Outcome State Fault Refusal := ok (s.vec u 0x51 x true opSadd)
def execSsub (u : VUnit) (x : VArgs) (s : State) : Host.Outcome State Fault Refusal := ok (s.vec u 0x52 x true opSsub)
def execSmul (u : VUnit) (x : VArgs) (s : State) : Host.Outcome State Fault Refusal := ok (s.vec u 0x53 x true opSmul)
def execSfadd (u : VUnit) (x : VArgs) (s : State) : Host.Outcome State Fault Refusal := ok (s.vec u 0x54 x true opSfadd)
def execSfmul (u : VUnit) (x : VArgs) (s : State) : Host.Outcome State Fault Refusal := ok (s.vec u 0x55 x true opSfmul)
def execSfdiv (u : VUnit) (x : VArgs) (s : State) : Host.Outcome State Fault Refusal := ok (s.vec u 0x56 x true opSfdiv)
def execBr (u : VUnit) (x : VArgs) (s : State) : Host.Outcome State Fault Refusal := ok (s.vec u 0x60 x true opBr)
def execBz (u : VUnit) (x : VArgs) (s : State) : Host.Outcome State Fault Refusal := ok (s.vec u 0x61 x true opBz)
def execBnz (u : VUnit) (x : VArgs) (s : State) : Host.Outcome State Fault Refusal := ok (s.vec u 0x62 x true opBnz)
def execBlt (u : VUnit) (x : VArgs) (s : State) : Host.Outcome State Fault Refusal := ok (s.vec u 0x63 x true opBlt)
def execCall (u : VUnit) (x : VArgs) (s : State) : Host.Outcome State Fault Refusal := ok (s.vec u 0x64 x true opCall)
def execRet (u : VUnit) (x : VArgs) (s : State) : Host.Outcome State Fault Refusal := ok (s.vec u 0x65 x true opRet)
def execProgramHalt (u : VUnit) (x : VArgs) (s : State) : Host.Outcome State Fault Refusal := ok (s.vec u 0x66 x true opProgramHalt)

end Sys2Proof.Machine
end

