-- ==== Sys2Proof/Machine/UpdMath.lean ====
section
/-! DEFINITION. What an update engine computes: sums, scalars of the step, fixed rules, preconditioner, and the images of a working
version (13 R377 to R393). -/
namespace Sys2Proof.Machine

/-! ## Lists of numbers in memory -/

/-- The values of a run of `k`-byte little-endian numbers. -/
def numsOf (k : Nat) (l : List Byte) : List Nat := (List.range (l.length / k)).map (fun i => bytesN l (k * i) k)
def f32sOf (l : List Byte) : List F32 := (numsOf 4 l).map (BitVec.ofNat 32)
def f32Bytes (l : List F32) : List Byte := l.flatMap (fun x => leBytes 4 x.toNat)

/-- Groups of `k` consecutive elements. -/
def chunks {α : Type} (k : Nat) (l : List α) : List (List α) := (List.range (ceilDiv l.length k)).map (fun i => (l.drop (k * i)).take k)

/-! ## Sums whose order the manual leaves open (R377; 02 R58) -/

/-- What the order of a sum may depend on: the shard's place and step, and which of an UPDATE's sums it is. Running an UPDATE again therefore
sums in the same order (R379, R398). -/
def sumKey (h : Shard) (u : Nat) : Nat := (h.step * 2 ^ 48 + h.addr) * 1024 + u

/-- A list in the order that `f` picks. -/
def reorder {α : Type} (f : Nat → Nat) : Nat → Nat → List α → List α
  | 0, _, l => l
  | k + 1, i, l =>
    let j := f i % l.length
    match l[j]? with
    | none => l
    | some x => x :: reorder f k (i + 1) (l.eraseIdx j)

def inSomeOrder {α : Type} (draw k : Nat) (l : List α) : List α := reorder (Config.sumOrder draw k) l.length 0 l

/-- FP32 sum of a list, in the engine's order. -/
def sumFree (draw k : Nat) (l : List F32) : F32 := (inSomeOrder draw k l).foldl fadd 0

/-- FP32 inner product, in the engine's order. -/
def dotFree (draw k : Nat) (a b : List F32) : F32 := (inSomeOrder draw k (a.zip b)).foldl (fun s p => ffma p.1 p.2 s) 0

/-! ## Gradients (R377) -/

/-- A stored gradient element is non-finite: class B ±65,504 or NaN; class A NaN, infinite, or of the largest finite magnitude. -/
def nonFinite (classB : Bool) (x : Nat) : Bool :=
  if classB then x % 2 ^ 15 = 0x7BFF || decide (0x7C00 < x % 2 ^ 15) else decide (0x7F7FFFFF ≤ x % 2 ^ 31)

/-- A stored gradient element as FP32, not unscaled. -/
def gradVal (classB : Bool) (x : Nat) : F32 := if classB then widen fmtFp16 x else BitVec.ofNat 32 x

/-- Bytes of a gradient element. -/
def ShMap.gBytes (m : ShMap) : Nat := if m.gclass = 0 then 4 else 2

/-- Unscaled elements (R377). -/
def unscale (m : ShMap) (lscale : F32) (l : List Nat) : List F32 :=
  if m.gclass = 0 then l.map (BitVec.ofNat 32) else l.map (fun x => fdiv (widen fmtFp16 x) lscale)

/-- Row `r` and column `c` of a row-major list. -/
def rowAt {α : Type} (cols r : Nat) (l : List α) : List α := (l.drop (cols * r)).take cols
def colAt {α : Type} (rows cols c : Nat) (l : List α) : List α := (List.range rows).filterMap (fun r => l[cols * r + c]?)

/-! ## Scalars of the step (R380, R381) -/

def natF (n : Nat) : F32 := toF32 (Num.ofInt n)
def fhalf : F32 := 0x3F000000#32

/-- The learning rate of step `s`. -/
def stepLr (q : Params) (s : Nat) : F32 :=
  let u := fmin fone (fdiv (natF (s - q.warmup)) (natF (q.total - q.warmup)))
  if s < q.warmup then fdiv (fmul q.lr (natF (s + 1))) (natF q.warmup)
  else
    match q.sched with
    | 0 => q.lr
    | 1 => fadd q.lrmin (fmul (fmul fhalf (fsub q.lr q.lrmin)) (fadd fone (fCosPi u)))
    | 2 => fsub q.lr (fmul (fsub q.lr q.lrmin) u)
    | _ => fmax q.lrmin (fmul q.lr (fsqrt (fdiv (natF (Max.max 1 q.warmup)) (natF (s + 1)))))

/-- The loss scale after the step (R381). -/
def nextScale (q : Params) (m : ShMap) (lscale : F32) (s : Nat) (skip : Bool) : F32 :=
  if m.gclass = 0 then 0
  else if skip then fmax (fmul lscale fhalf) q.lsmin
  else if q.lsgrow ≠ 0 ∧ (s + 1) % q.lsgrow = 0 then fmin (fmul 0x40000000#32 lscale) q.lsmax
  else lscale

def scalarsOf (q : Params) (m : ShMap) (lscale : F32) (s : Nat) (basis : F32) (nonfin : Nat) : Scalars :=
  let norm := fsqrt basis
  let c := if q.clip && fltb q.clipnorm norm then fdiv q.clipnorm norm else fone
  { norm := norm, clip := c, gs := if m.gclass = 0 then c else fdiv c lscale, lr := stepLr q s, bc1 := fsub fone (fPow q.beta1 (s + 1)),
    bc2 := fsub fone (fPow q.beta2 (s + 1)), lsnext := nextScale q m lscale s (decide (0 < nonfin)), skip := decide (0 < nonfin) }

/-! ## Moments (R343, R384; 05 R152) -/

/-- The values of a moment region: type 3 INT8, type 4 UINT8; `l` its elements, `sc` its group scales. -/
def momRead (t : Nat) (l : List Byte) (sc : List Nat) : List F32 :=
  l.zipIdx.map (fun e => fmul (elemLoad t e.1.toNat) (widen fmtFp16 (sc.getD (e.2 / 64) 0)))

/-- The elements and the scales of a stored moment region. -/
def momWrite (t : Nat) (l : List F32) : List Byte × List Byte :=
  let gs := (chunks 64 l).map (fun g => (g, quantScale t g))
  (gs.flatMap (fun g => g.1.map (quantElem t g.2)), gs.flatMap (fun g => leBytes 2 g.2))

/-! ## Fixed rules (R384) -/

/-- The new master and moments of a shard. -/
structure RuleOut where
  w  : List F32
  m1 : List F32 := []
  m2 : List F32 := []
deriving DecidableEq, Repr

/-- w − lr × (d + WD × w). -/
def decayed (q : Params) (lr w d : F32) : F32 := fsub w (fmul lr (fadd d (fmul q.wd w)))

/-- b × m + (1 − b) × g. -/
def blend (b m g : F32) : F32 := fadd (fmul b m) (fmul (fsub fone b) g)

def ruleMom (q : Params) (k : Scalars) (g w m : List F32) : RuleOut :=
  let l := (g.zip (w.zip m)).map (fun e =>
    let m' := fadd (fmul q.beta1 e.2.2) e.1
    let d := if q.nesterov then fadd e.1 (fmul q.beta1 m') else m'
    (decayed q k.lr e.2.1 d, m'))
  { w := l.map (·.1), m1 := l.map (·.2) }

/-- `r` holds √v. -/
def ruleAdam (q : Params) (k : Scalars) (g w m r : List F32) : RuleOut :=
  let l := (g.zip (w.zip (m.zip r))).map (fun e =>
    let g := e.1
    let m' := blend q.beta1 e.2.2.1 g
    let v' := blend q.beta2 (fmul e.2.2.2 e.2.2.2) (fmul g g)
    let mh := if q.biasc then fdiv m' k.bc1 else m'
    let vh := if q.biasc then fdiv v' k.bc2 else v'
    (decayed q k.lr e.2.1 (fdiv mh (fadd (fsqrt vh) q.eps)), m', fsqrt v'))
  { w := l.map (·.1), m1 := l.map (·.2.1), m2 := l.map (·.2.2) }

def ruleSign (q : Params) (k : Scalars) (g w m : List F32) : RuleOut :=
  let l := (g.zip (w.zip m)).map (fun e =>
    (decayed q k.lr e.2.1 (fsign (blend q.beta1 e.2.2 e.1)), blend q.beta2 e.2.2 e.1))
  { w := l.map (·.1), m1 := l.map (·.2) }

/-- New row and column values from the sums of pass 1 (R377, R384). -/
def facNew (q : Params) (clip : F32) (n : Nat) (old sums : List F32) : List F32 :=
  (old.zip sums).map (fun e => blend q.beta2 e.1 (fadd (fdiv (fmul e.2 (fmul clip clip)) (natF n)) q.eps2))

/-- FR-FAC with its new rows `R` and columns `C`; `m` is empty without a first moment. -/
def ruleFac (draw : Nat) (q : Params) (k : Scalars) (sh : ShMap) (g w m R C : List F32) : RuleOut :=
  let mean := fdiv (sumFree draw 0 R) (natF sh.rows)
  let l := (g.zip w).zipIdx.map (fun e =>
    let r := R.getD (e.2 / sh.cols) 0
    let c := C.getD (e.2 % sh.cols) 0
    let v := fdiv (fmul r c) mean
    let vh := if q.biasc then fdiv v k.bc2 else v
    let u0 := fdiv e.1.1 (fsqrt vh)
    let u := if sh.m1 = 1 then blend q.beta1 (m.getD e.2 0) u0 else u0
    (decayed q k.lr e.1.2 u, u))
  { w := l.map (·.1), m1 := if sh.m1 = 1 then l.map (·.2) else [], m2 := R ++ C }

/-! ## Preconditioner (R389 to R391) -/

/-- A matrix as rows. -/
abbrev Mat := List (List F32)

def transposed (n : Nat) (a : Mat) : Mat := (List.range n).map (fun j => a.map (fun r => r.getD j 0))

/-- Product of a with b, b having `n` columns. -/
def matMul (draw n : Nat) (a b : Mat) : Mat :=
  let bt := transposed n b
  a.map (fun r => bt.zipIdx.map (fun c => dotFree draw c.2 r c.1))

def matMap2 (f : F32 → F32 → F32) (a b : Mat) : Mat := (a.zip b).map (fun p => (p.1.zip p.2).map (fun e => f e.1 e.2))
def identity (n : Nat) : Mat := (List.range n).map (fun i => (List.range n).map (fun j => if i = j then fone else 0))
def scaleMat (x : F32) (a : Mat) : Mat := a.map (fun r => r.map (fmul x))

/-- One block applied to G: a row block from the left, a column block from the right. -/
def applyBlock (draw : Nat) (sh : ShMap) (b : PBlock) (root : Mat) (g : Mat) : Mat :=
  if b.axis = 0 then
    g.take b.first ++ matMul draw sh.cols root ((g.drop b.first).take b.size) ++ g.drop (b.first + b.size)
  else
    g.map (fun r => r.take b.first ++ ((matMul draw b.size [(r.drop b.first).take b.size] root).headD []) ++ r.drop (b.first + b.size))

/-- The block's new statistic (R390). -/
def newStat (draw : Nat) (q : Params) (sh : ShMap) (b : PBlock) (stat g : Mat) : Mat :=
  let part := if b.axis = 0 then (g.drop b.first).take b.size else g.map (fun r => (r.drop b.first).take b.size)
  let prod := if b.axis = 0 then matMul draw b.size part (transposed sh.cols part) else matMul draw b.size (transposed b.size part) part
  matMap2 fadd (scaleMat q.pbeta stat) (scaleMat (fsub fone q.pbeta) prod)

/-- Values the power functions of R391 may give: two units around the reference (R380). -/
def rootOf (p : Nat) (x : F32) : F32 := within 2 (Config.approx (0x71 + p) x) (refRootP p x)
def powOf (p : Nat) (x : F32) : F32 := within 2 (Config.approx (0x81 + p) x) (refPowP p x)

def maxAbs (a : Mat) : F32 := runMax 0 (a.flatten.map f32)
def hasNan (a : Mat) : Bool := a.flatten.any (fun x => (f32 x).isNan)

/-- Newton steps of R391: X once M is within PTOL of I, or `none` after PITER steps or at a NaN; and the iterations made. -/
def newton (draw n p : Nat) (ptol : F32) : Nat → Nat → Mat → Mat → Option Mat × Nat
  | 0, k, _, _ => (none, k)
  | fuel + 1, k, x, m =>
    let t := (matMap2 fsub (scaleMat (natF (p + 1)) (identity n)) m).map (fun r => r.map (fun e => fdiv e (natF p)))
    let x' := matMul (draw + 4 * k) n x t
    let t2 := matMul (draw + 4 * k + 1) n t t
    let tp := if p = 2 then t2 else matMul (draw + 4 * k + 2) n t2 t2
    let m' := matMul (draw + 4 * k + 3) n tp m
    if hasNan x' || hasNan m' then (none, k + 1)
    else if fleb (maxAbs (matMap2 fsub m' (identity n))) ptol then (some x', k + 1)
    else newton draw n p ptol fuel (k + 1) x' m'

/-- A new root of a block with this statistic, if the iteration converges, and the iterations made. -/
def refreshRoot (draw : Nat) (q : Params) (n : Nat) (stat : Mat) : Option Mat × Nat :=
  let a := matMap2 fadd stat (scaleMat q.peps (identity n))
  let frob := fsqrt (sumFree draw 0 (a.flatten.map (fun x => fmul x x)))
  let c0 := rootOf q.proot (fdiv (fmul 0x40000000#32 frob) (natF (q.proot + 1)))
  newton (draw + 1) n q.proot q.ptol q.piter 0 ((identity n).map (fun r => r.map (fun e => fdiv e c0)))
    (a.map (fun r => r.map (fun e => fdiv e (powOf q.proot c0))))

/-! ## Working images (R392, R393; 05 R132) -/

/-- State of generator `j` after `n` steps. -/
def genAfter : Nat → W64 → W64
  | 0, x => x
  | n + 1, x => genAfter n (xorshift x)

/-- The random number of an element's lane (R392). -/
def convRandom (shard s : Nat) (sh : ShMap) (e : Nat) : Nat :=
  let pos := Config.convLane sh.rows sh.cols e % (256 * Max.max 1 (ceilDiv sh.n 256))
  let lane := pos % 256
  let j := lane / 4
  let seed := (BitVec.ofNat 64 (shard * 2 ^ 32) ^^^ BitVec.ofNat 64 (s + 1)) ^^^ (0x9E3779B97F4A7C15#64 * BitVec.ofNat 64 (j + 1))
  fieldNat (genAfter (pos / 256 + 1) (if seed = 0 then 1 else seed)).toNat (16 * (lane % 4) + 15) (16 * (lane % 4))

/-- A 16 × 16 square of the matrix: per column the pieces of its block, and blocks poisoned and saturated. -/
structure Square where
  cols : List (List BlockOut)
  pois : Nat
  sat  : Nat
deriving DecidableEq, Repr

def convSquare (enc : Enc) (np : Nat) (coarse : F32) (sq16 : Bool) (rnd : Option (Nat → Nat)) (sh : ShMap) (w : List F32) (cg rb : Nat) : Square :=
  let pos := fun j => (List.range 16).map (fun i => (16 * rb + i, 16 * cg + j))
  let val := fun (x : Nat × Nat) => if x.1 < sh.rows ∧ x.2 < sh.cols then f32 (w.getD (sh.cols * x.1 + x.2) 0) else Num.fin false 0 0
  let rs := fun (l : List (Nat × Nat)) => match rnd with | none => [] | some f => l.map (fun x => f (sh.cols * x.1 + x.2))
  let judge := fun (l : List (Nat × Nat)) (o : List BlockOut) => (b2n (l.any (fun x => (val x).notFinite)), b2n (o.any (·.sat)))
  if sq16 then
    let l := (List.range 16).flatMap pos
    let o := convertValues enc np coarse (rs l) (l.map val)
    let e := judge l o
    { cols := (List.range 16).map (fun j => o.map (fun b => { b with elems := (b.elems.drop (16 * j)).take 16 })), pois := e.1, sat := e.2 }
  else
    let cs := (List.range 16).map (fun j => (pos j, convertValues enc np coarse (rs (pos j)) ((pos j).map val)))
    { cols := cs.map (·.2), pois := (cs.map (fun c => (judge c.1 c.2).1)).sum, sat := (cs.map (fun c => (judge c.1 c.2).2)).sum }

/-- Piece `k` of column `j` of a square. -/
def Square.col (q : Square) (k j : Nat) : BlockOut := (q.cols.getD j []).getD k { code := 0, elems := [] }

def padTo (n : Nat) (l : List Byte) : List Byte := l ++ List.replicate (n - l.length) 0

/-- Elements of row `i`, columns `[c0, c0 + n)`, of a square. -/
def Square.row (q : Square) (k i c0 n : Nat) : List (BitVec 6) := (List.range n).map (fun j => (q.col k (c0 + j)).elems.getD i 0)

/-- One weight set: rows `r0` on of a square. -/
def setImage (fp4 : Bool) (q : Square) (k r0 : Nat) : List Byte :=
  let scales := (List.range 16).map (fun j => (q.col k j).code)
  if fp4 then
    padTo 192 ((List.range 8).flatMap (fun i =>
      (List.range 16).map (fun j => BitVec.ofNat 8 (((q.col k j).elems.getD (r0 + 2 * i) 0).toNat % 16
        + 16 * (((q.col k j).elems.getD (r0 + 2 * i + 1) 0).toNat % 16)))) ++ scales)
  else padTo 128 ((List.range 8).flatMap (fun i => leBytes 12 (packBits 6 (q.row k (r0 + i) 0 16))) ++ scales)

/-- One transposed source: columns `c0` on of a square. -/
def xposeImage (fp4 : Bool) (q : Square) (k c0 : Nat) : List Byte :=
  if fp4 then
    padTo 192 ((List.range 16).flatMap (fun i => leBytes 8 (packBits 4 (q.row k i 0 16))) ++ (List.range 16).map (fun j => (q.col k j).code))
  else
    padTo 128 ((List.range 16).flatMap (fun i => leBytes 6 (packBits 6 (q.row k i c0 8))) ++ (List.range 8).map (fun j => (q.col k (c0 + j)).code))

/-- What conversion gives: image bytes in canonical order, the coarse scale, and blocks poisoned and saturated. -/
structure WorkOut where
  bytes : List Byte
  coarse : F32
  pois : Nat
  sat : Nat
deriving DecidableEq, Repr

def workImages (q : Params) (sh : ShMap) (shard s : Nat) (amax : F32) (w : List F32) : WorkOut :=
  let code := BitVec.ofNat 2 (fieldNat sh.wfmt 1 0)
  let enc := encOfCode code
  let fp4 := decide (fieldNat sh.wfmt 1 0 = 2)
  let np := sh.pieces
  let coarse := chooseCoarse enc amax
  let rbs := ceilDiv sh.rows 16
  let cgs := ceilDiv sh.cols 16
  let rnd := if q.sr then some (convRandom shard s sh) else none
  let sqs := (List.range cgs).flatMap (fun cg => (List.range rbs).map (fun rb => convSquare enc np coarse q.sq16 rnd sh w cg rb))
  let sq := fun cg rb => sqs.getD (cg * rbs + rb) { cols := [], pois := 0, sat := 0 }
  let rstep := if fp4 then 16 else 8
  let piece := fun k =>
    (List.range cgs).flatMap (fun cg => (List.range (ceilDiv sh.rows rstep)).flatMap (fun g => setImage fp4 (sq cg (g * rstep / 16)) k (g * rstep % 16)))
      ++ (if sh.dual then
        (List.range rbs).flatMap (fun rb => (List.range (ceilDiv sh.cols rstep)).flatMap (fun g => xposeImage fp4 (sq (g * rstep / 16) rb) k (g * rstep % 16)))
        else [])
  { bytes := (List.range np).flatMap piece, coarse := coarse, pois := (sqs.map (·.pois)).sum, sat := (sqs.map (·.sat)).sum }

/-! ## Time (R400) -/

/-- Cycles of a phase: the largest of compute, bytes read and bytes written over their bandwidth. -/
def phaseCycles (compute rd wr : Nat) : Nat := Max.max compute (Max.max rd wr)

end Sys2Proof.Machine
end

