-- ==== Sys2Proof/Machine/Work.lean ====
section
/-! DEFINITION. The work of an engine as a sequence of accesses (12 to 14). -/
namespace Sys2Proof.Machine

/-! ## Work of an engine: a sequence of accesses that waits, fails or goes on -/

/-- Why a piece of an engine's work does not go on. -/
inductive UStop where
  /-- A page in motion, a held state set: the engine waits and starts the phase later; `leaving`: what waits is a write, on a page that is
  EVICTING or RELOCATING (08 R255). -/
  | wait (leaving : Bool)
  /-- A failed access or a program stop, with its status. -/
  | fail (st : Status)
deriving DecidableEq, Repr

abbrev UM := ExceptT UStop (StateM State)

def uStop (leaving : Bool) : Res → UStop
  | .wait => .wait leaving
  | .lost => .fail .hostLost
  | _ => .fail .busError

def uDo (f : State → State) : UM Unit := fun s => (.ok (), f s)
def uGet : UM State := fun s => (.ok s, s)
def uFail {α : Type} (e : UStop) : UM α := fun s => (.error e, s)

/-- Read and write a span through the translation of partition `p` (R371). -/
def uRd (p : Option Nat) (a n : Nat) : UM (List Byte) := fun s =>
  match s.readAny p a n with
  | (.ok b, s1) => (.ok b, s1)
  | (.error e, s1) => (.error (uStop false e), s1)

/-- The first line of a write to `[a, a + n)` that waits, waits on an EVICTING or RELOCATING page. -/
def leavingSpan (s : State) (p : Option Nat) (a n : Nat) : Bool :=
  ((linesOf a n).find? (fun x => resolve s p x.1 true == .wait)).any (fun x => leavingPage s p x.1)

/-- A span written to host memory is that many requests of at most a line (10 R313). -/
def State.sentHost (s : State) (a n : Nat) : State :=
  if hostBase ≤ a ∧ !s.hlk.needhs then s.modHlk (fun h => { h with sent := h.sent + (linesOf a n).length }) else s

def uWr (p : Option Nat) (a : Nat) (l : List Byte) : UM Unit := fun s =>
  match (s.sentHost a l.length).writeAny p a l with
  | (none, s1) => (.ok (), s1)
  | (some e, s1) => (.error (uStop (leavingSpan s1 p a l.length) e), s1)

def uZero (p : Option Nat) (a n : Nat) : UM Unit := uWr p a (List.replicate n 0)
def uCopy (p : Option Nat) (src dst n : Nat) : UM Unit := do let b ← uRd p src n; uWr p dst b

/-- Run each step in order. -/
def uEach {α : Type} : List α → (α → UM Unit) → UM Unit
  | [], _ => pure ()
  | x :: l, f => do f x; uEach l f

def uMap {α β : Type} : List α → (α → UM β) → UM (List β)
  | [], _ => pure []
  | x :: l, f => do let b ← f x; let bs ← uMap l f; pure (b :: bs)

end Sys2Proof.Machine
end

