-- ==== Sys2Proof/Machine/Ingest.lean ====
section
/-! DEFINITION. The ingest engines (14). -/
namespace Sys2Proof.Machine

/-! ## The command's fields (09 R297) -/

def IngJob.src (j : IngJob) : Nat := bytesN j.bytes 8 8
def IngJob.batch (j : IngJob) : Nat := bytesN j.bytes 0x10 8
def IngJob.manifest (j : IngJob) : Nat := bytesN j.bytes 0x18 8
def IngJob.mask (j : IngJob) : Nat := bytesN j.bytes 0x20 8
def IngJob.slotSz (j : IngJob) : Nat := bytesN j.bytes 0x28 4
def IngJob.nSlots (j : IngJob) : Nat := bytesN j.bytes 0x2C 2
def IngJob.mode (j : IngJob) : Nat := byteAt j.bytes 0x2F % 4
def IngJob.pool (j : IngJob) : Nat := bytesN j.bytes 0x30 8
def IngJob.roiAt (j : IngJob) : Nat := bytesN j.bytes 0x38 8
def IngJob.slotOf (j : IngJob) (i : Nat) : IngSlot := tget {} j.slots i
def IngJob.setSlot (j : IngJob) (i : Nat) (f : IngSlot → IngSlot) : IngJob := { j with slots := tmod {} j.slots i f }

/-- Slots awaiting a pool record, lowest first (R411). -/
def IngJob.awaiting (j : IngJob) : List Nat := (List.range (Min.min j.slot j.nSlots)).filter (fun i => (j.slotOf i).await)

/-- Every slot has settled (R405). -/
def IngJob.settled (j : IngJob) : Bool := decide (j.nSlots ≤ j.slot) && j.awaiting.isEmpty

/-! ## Queues (R406, R407) -/

/-- HEAD and the known TAIL leave a record. -/
def queueHas (s : State) (q tail : Nat) : Bool := s.rdN (q + 8) 4 ≠ tail

/-- Address and length of the record at HEAD. -/
def uEntry (p : Option Nat) (q : Nat) : UM (Nat × Nat) := do
  let h ← uRd none q 64
  let e ← uRd p (bytesN h 0x10 8 + 16 * (bytesN h 8 4 % 2 ^ byteAt h 4)) 16
  pure (bytesN e 0 8, bytesN e 8 4)

/-- HEAD passes the record. -/
def State.consume (s : State) (q : Nat) : State := s.wrN (q + 8) 4 (s.rdN (q + 8) 4 + 1)

/-! ## Records (R408, R410) -/

/-- A record's header. -/
structure RecHdr where
  dtype : Nat
  ndim  : Nat
  comp  : Nat
  flags : Nat
  sample : Nat
  dims  : List Nat
  plen  : Nat
deriving DecidableEq, Repr

def recOf (l : List Byte) : RecHdr :=
  { dtype := byteAt l 4, ndim := byteAt l 5, comp := byteAt l 6, flags := byteAt l 7, sample := bytesN l 8 8,
    dims := (List.range 4).map (fun i => bytesN l (0x10 + 4 * i) 4), plen := bytesN l 0x20 4 }

def RecHdr.used (r : RecHdr) : List Nat := r.dims.take r.ndim
def RecHdr.image (r : RecHdr) : Bool := bitAt r.flags 0

/-- Element type of a DTYPE in the codes of the vector unit (05 R152), and its size. -/
def RecHdr.etype (r : RecHdr) : Nat := match r.dtype with | 0 => 4 | 1 => 3 | 2 => 2 | 3 => 1 | _ => 0
def RecHdr.claimed (r : RecHdr) : Nat := elemSize r.etype * r.used.foldl (· * ·) 1

/-- The header tests of R410, reasons 2 to 5 and the raw ones 6 and 7. -/
def recReason (l : List Byte) (len slotSz : Nat) : Option Nat :=
  let r := recOf l
  let tests : List (Bool × Nat) :=
    [(!magicIs l [0x51, 0x46, 0x53, 0x52], 2),
     (decide (4 < r.dtype) || r.ndim = 0 || decide (4 < r.ndim) || decide (1 < r.comp) || decide (1 < r.flags) || !isZero ((l.drop 0x24).take 28)
        || r.used.contains 0 || (r.dims.drop r.ndim).any (fun d => d ≠ 0) || (r.image && decide (r.ndim < 2)), 3),
     (decide (len < 0x40 + r.plen), 4), (decide (slotSz < r.claimed), 5),
     (r.comp = 0 && decide (r.plen < r.claimed), 6), (r.comp = 0 && decide (r.claimed < r.plen), 7)]
  (tests.find? (·.1)).map (·.2)

/-- What a record gives: its header, and its decoded payload. -/
structure RecOut where
  hdr  : RecHdr
  data : List Byte
deriving DecidableEq, Repr

def lzReason : LzErr → Nat
  | .short => 6 | .long => 7 | .malformed => 8 | .checksum => 9

/-- A failed read of a record rejects it with reason 1; a page in motion is waited for. -/
def uTry {α : Type} (m : UM α) : UM (Option α) := fun s =>
  match m s with
  | (.ok a, s1) => (.ok (some a), s1)
  | (.error (.wait l), s1) => (.error (.wait l), s1)
  | (.error (.fail _), s1) => (.ok none, s1)

/-! ## Region of interest (R413, R414) -/

/-- The tiles of an image and its slot's bitmap. -/
structure RoiMap where
  height : Nat
  width  : Nat
  stride : Nat
  bits   : List Byte
deriving DecidableEq, Repr

def roiMap (j : IngJob) (slot : Nat) (r : RecHdr) : RoiMap :=
  let stride := bytesN j.roi 4 4
  { height := r.used.getD (r.ndim - 2) 1, width := r.used.getD (r.ndim - 1) 1, stride := stride,
    bits := (j.roi.drop (0x40 + slot * stride)).take stride }

/-- Tiles of a row of tiles, and tile positions of the image. -/
def RoiMap.across (m : RoiMap) : Nat := ceilDiv m.width 32
def RoiMap.tiles (m : RoiMap) : Nat := ceilDiv m.height 32 * m.across

/-- Tile `t` is selected; one whose bit lies beyond the bitmap is not. -/
def RoiMap.selected (m : RoiMap) (t : Nat) : Bool := decide (t < 8 * m.stride) && bitAt (byteAt m.bits (t / 8)) (t % 8)

/-- ROI applies to this record. -/
def steered (j : IngJob) (r : RecHdr) : Bool := j.roiAt ≠ 0 && r.image

/-- The runs of a raw payload that the engine reads, offset and length: under MODE ZERO only those of selected tiles. -/
def readRuns (j : IngJob) (slot : Nat) (r : RecHdr) : List (Nat × Nat) :=
  if steered j r && j.mode = 1 && r.comp = 0 then
    let m := roiMap j slot r
    let sz := elemSize r.etype
    (List.range (r.claimed / sz / m.width)).flatMap (fun y =>
      ((List.range m.across).filter (fun tx => m.selected (y % m.height / 32 * m.across + tx))).map (fun tx =>
        (sz * (y * m.width + 32 * tx), sz * Min.min 32 (m.width - 32 * tx))))
  else [(0, r.plen)]

/-- Read runs of a payload at `a`; what is not read is taken as zeros, which its tile then holds. -/
def uRuns (p : Option Nat) (a : Nat) : Nat → List (Nat × Nat) → UM (List Byte)
  | _, [] => pure []
  | at_, x :: l => do
    let b ← uRd p (a + x.1) x.2
    let bs ← uRuns p a (x.1 + x.2) l
    pure (List.replicate (x.1 - at_) 0 ++ b ++ bs)

/-- Check the record at the head of a queue for slot `i`: SAMPLE as far as it could be read, and the record or the reason it is
rejected. -/
def uRecord (p : Option Nat) (q : Nat) (j : IngJob) (i : Nat) : UM (Nat × Except Nat RecOut) := do
  match ← uTry (uEntry p q) with
  | none => pure (0, .error 1)
  | some (a, len) =>
    match ← uTry (uRd p a 64) with
    | none => pure (0, .error 1)
    | some l =>
      let r := recOf l
      match recReason l len j.slotSz with
      | some e => pure (r.sample, .error e)
      | none =>
        match ← uTry (uRuns p (a + 64) 0 (readRuns j i r)) with
        | none => pure (r.sample, .error 1)
        | some b =>
          if r.comp = 0 then pure (r.sample, .ok { hdr := r, data := b ++ List.replicate (r.claimed - b.length) 0 })
          else
            match lzFrame r.claimed b with
            | .ok d => pure (r.sample, .ok { hdr := r, data := d })
            | .error e => pure (r.sample, .error (lzReason e))

/-- What steering does to one slot. -/
structure RoiOut where
  data : List Byte
  full : Nat := 0
  less : Nat := 0
  reduced : Bool := false
  short : Bool := false
deriving DecidableEq, Repr

/-- Element `i` of a payload as FP32. -/
def elemAt (t : Nat) (d : Array Byte) (i : Nat) : F32 :=
  elemLoad t (leNat ((List.range (elemSize t)).map (fun k => d.getD (elemSize t * i + k) 0)))

/-- FP32 sum of a list that is not empty, from its first value on. -/
def fsum : List F32 → F32
  | [] => 0
  | x :: l => l.foldl fadd x

/-- Mean of the values present in the 2 × 2 block at (y, x) of a plane, added in an order the manual leaves open (R414;
notes/assumptions/73.md). -/
def blockMean (key t : Nat) (d : Array Byte) (base H W y x : Nat) : F32 :=
  let ps := [(y, x), (y, x + 1), (y + 1, x), (y + 1, x + 1)].filter (fun e => decide (e.1 < H) && decide (e.2 < W))
  fdiv (fsum (inSomeOrder key (base + y * W + x) (ps.map (fun e => elemAt t d (base + e.1 * W + e.2))))) (toF32 (Num.ofInt ps.length))

/-- The payload with its tiles handled as MODE says, and what the manifest reports: in MODE FULL what the bitmap selects
(R416; DEDUCED, notes/assumptions/73.md). -/
def steer (j : IngJob) (slot : Nat) (o : RecOut) : RoiOut :=
  if !steered j o.hdr then { data := o.data }
  else
    let m := roiMap j slot o.hdr
    let H := m.height
    let W := m.width
    let full := ((List.range m.tiles).filter m.selected).length
    let less := m.tiles - full
    let key := j.start * 2 ^ 64 + j.batch + slot * j.slotSz
    let t := o.hdr.etype
    let sz := elemSize t
    let d := o.data.toArray
    let val := fun (i : Nat) =>
      let y := i % (H * W) / W
      let x := i % W
      if m.selected (y / 32 * m.across + x / 32) then (List.range sz).map (fun k => d.getD (sz * i + k) 0)
      else if j.mode = 1 then List.replicate sz 0
      else leBytes sz (elemStore t (blockMean key t d (i / (H * W) * (H * W)) H W (y / 2 * 2) (x / 2 * 2)))
    { data := if j.mode = 2 ∨ less = 0 then o.data else (List.range (o.data.length / sz)).flatMap val,
      full := full, less := less, reduced := j.mode ≠ 2 && less ≠ 0, short := decide (8 * m.stride < m.tiles) }

/-! ## Filling (R410, R411) -/

/-- The job as far as it has come stands in the engine, also where a later access of the same record fails. -/
def uKeep (e : Nat) (j : IngJob) : UM IngJob := do
  uDo (fun s => s.modIng e (fun g => { g with run := some j }))
  pure j

/-- Fill slot `i` with a record that has passed. -/
def uFill (e : Nat) (p : Option Nat) (j : IngJob) (i : Nat) (kind : Nat) (r : RecOut) : UM IngJob := do
  let o := steer j i r
  uWr p (j.batch + i * j.slotSz) (o.data ++ List.replicate (j.slotSz - o.data.length) 0)
  uDo (fun s =>
    let s1 := if o.short then s.event 0x0706 e i else s
    s1.modIng e (fun g => { g with accepted := satAdd g.accepted 1 }))
  uKeep e (j.setSlot i (fun x =>
    { x with kind := kind + (if o.reduced then 16 else 0), await := false, used := BitVec.ofNat 64 r.hdr.sample, bytes := o.data.length,
             dtype := r.hdr.dtype, full := o.full, less := o.less }))

/-- Count a rejected record. -/
def uReject (e reason : Nat) (j : IngJob) : UM IngJob := do
  uDo (fun s => (s.event 0x0700 e reason).modIng e (fun g => { g with rejects := satAdd g.rejects 1 }))
  uKeep e { j with rejects := j.rejects + 1 }

/-- Take pool records for slot `i` until one passes or the pool is empty: whether the slot was filled. -/
def uPool (e : Nat) (p : Option Nat) : Nat → IngJob → Nat → UM (IngJob × Bool)
  | 0, j, _ => pure (j, false)
  | fuel + 1, j, i => do
    let s ← uGet
    let tail := if queueHas s j.pool j.poolTail then j.poolTail else s.rdN (j.pool + 0xC) 4
    let j := { j with poolTail := tail }
    if j.pool = 0 || !queueHas s j.pool tail then pure (j, false)
    else
      let (_, r) ← uRecord p j.pool j i
      let j ← uKeep e (j.setSlot i (fun x => { x with tries := Min.min (x.tries + 1) 0xFF }))
      match r with
      | .ok o => do
        let j ← uFill e p j i 1 o
        uDo (fun s => (s.consume j.pool).event 0x0701 e (j.slotOf i).tries)
        pure (j, true)
      | .error reason => do
        let j ← uReject e reason j
        uDo (fun s => s.consume j.pool)
        uPool e p fuel j i

/-- The next source record goes into the next slot. -/
def uSource (e : Nat) (p : Option Nat) (j : IngJob) : UM IngJob := do
  let i := j.slot
  let (sample, r) ← uRecord p j.src j i
  let j := ({ j with slot := i + 1 }).setSlot i (fun x => { x with orig := BitVec.ofNat 64 sample })
  match r with
  | .ok o => do
    let j ← uFill e p j i 0 o
    uDo (fun s => s.consume j.src)
    pure j
  | .error reason => do
    let j ← uReject e reason (j.setSlot i (fun x => { x with reason := reason }))
    uDo (fun s => s.consume j.src)
    let (j, done) ← uPool e p 65537 j i
    if done then pure j
    else do
      uWr p (j.batch + i * j.slotSz) (List.replicate j.slotSz 0)
      uDo (fun s => s.event 0x0704 e i)
      uKeep e (j.setSlot i (fun x => { x with await := true, kind := 2 }))

/-! ## Mask, manifest and the end (R405, R412, R415, R416, R418, R419) -/

def IngJob.count (j : IngJob) (k : Nat) : Nat := ((List.range j.nSlots).filter (fun i => (j.slotOf i).kind % 4 = k)).length

def IngJob.maskWeights (j : IngJob) : List Byte :=
  (List.range j.nSlots).flatMap (fun i => leBytes 4 (if (j.slotOf i).kind % 4 < 2 then fone.toNat else 0))
def IngJob.maskKinds (j : IngJob) : List Byte := (List.range j.nSlots).map (fun i => BitVec.ofNat 8 (j.slotOf i).kind)

def IngJob.manifestEntry (j : IngJob) (i : Nat) : List Byte :=
  let x := j.slotOf i
  leBytes 8 x.orig.toNat ++ leBytes 8 x.used.toNat ++ leBytes 4 x.bytes
    ++ [BitVec.ofNat 8 x.kind, BitVec.ofNat 8 x.reason, BitVec.ofNat 8 x.tries, BitVec.ofNat 8 x.dtype] ++ leBytes 4 x.full ++ leBytes 4 x.less

def IngJob.manifestHead (j : IngJob) : List Byte :=
  [0x51, 0x46, 0x42, 0x4D] ++ leBytes 2 j.nSlots ++ [0, 0] ++ leBytes 8 j.start ++ leBytes 8 j.aframe.toNat ++ List.replicate 40 0

def IngJob.result (j : IngJob) : W64 :=
  BitVec.ofNat 64 (j.count 0 * 2 ^ 51 + j.count 1 * 2 ^ 38 + (j.count 2 + j.count 3) * 2 ^ 25 + Min.min j.rejects (2 ^ 25 - 1))

/-- `a`, and `b` also where `a` fails, which then decides. -/
def uBoth (a b : UM Unit) : UM Unit := fun s =>
  match a s with
  | (.ok (), s1) => b s1
  | (.error (.wait l), s1) => (.error (.wait l), s1)
  | (.error e, s1) =>
    match b s1 with
    | (.error (.wait l), s2) => (.error (.wait l), s2)
    | (_, s2) => (.error e, s2)

/-- Mask first, then the manifest, its head last; each is written as far as its own writes succeed (R405, R418). -/
def uReport (p : Option Nat) (j : IngJob) : UM Unit :=
  uBoth (do uWr p j.mask j.maskWeights; uWr p (j.mask + ceil64 (4 * j.nSlots)) j.maskKinds)
    (do uWr p (j.manifest + 64) ((List.range j.nSlots).flatMap j.manifestEntry); uWr p j.manifest j.manifestHead)

/-- Two INGESTs share a queue (R404). -/
def sharesQueue (a b : IngJob) : Bool :=
  a.src = b.src || (a.pool ≠ 0 && a.pool = b.pool) || (b.pool ≠ 0 && a.src = b.pool) || (a.pool ≠ 0 && b.src = a.pool)

/-- An INGEST admitted before it, on any engine, shares one of its queues (R404). -/
def ingHeld (s : State) (j : IngJob) : Bool :=
  [0, 1, 2, 3].any (fun i => (s.ingOf i).run.any (sharesQueue j) || (s.ingOf i).late.any (sharesQueue j) || (s.ingOf i).queue.any (fun k => sharesQueue j k && decide (k.adm < j.adm)))

/-- INGESTs admitted after `j` whose tick has passed and that share a queue with `j`, which ends now, have waited for it (R404). -/
def State.noteIngHeld (s : State) (j : IngJob) : State :=
  s.each [0, 1, 2, 3] (fun s i => s.modIng i (fun g =>
    { g with queue := g.queue.map (fun k => if sharesQueue k j && decide (j.adm < k.adm) && decide (k.tick < s.time) then { k with held := true } else k) }))

/-- The counts of ING_EPAD when a job ends. -/
def State.ingCount (s : State) (e : Nat) (j : IngJob) : State :=
  s.modIng e (fun g => { g with padded := satAdd g.padded (j.count 2), missing := satAdd g.missing (j.count 3) })

/-- The job leaves its engine with this status. -/
def State.ingLeave (s : State) (e : Nat) (j : IngJob) (st : Status) : State :=
  let s1 := (s.ingCount e j).modIng e (fun g => { g with run := none, abortReq := false })
  ((s1.endCmd j.stream j.seq st 0 j.result).claimSent j.stream j.seq).noteIngHeld j

/-- Slots that no record has filled at an early end are missing (R418), with ORIG 0 as R416 has it. -/
def IngJob.cutShort (j : IngJob) : IngJob :=
  { j with slots := j.slots.map (fun x => (x.1, if x.2.await || x.2.kind % 4 = 3 then { x.2 with await := false, kind := 3, orig := 0 } else x.2)) }

/-- The write with which the running INGEST waited on a page in motion has ended (08 R255, R268). -/
def State.ingWrote (s : State) (e : Nat) : State :=
  match (s.ingOf e).run with
  | some j =>
    (match j.writeFrom with
     | some t => (s.event 0x0207 j.part (s.time - t)).modIng e (fun g => { g with run := some { j with writeFrom := none } })
     | none => s)
  | none => s

/-- An access of the running INGEST waits on a page in motion; `leaving` as in `UStop.wait`. -/
def State.ingWaits (s : State) (e : Nat) (leaving : Bool) : State :=
  if leaving then
    s.modIng e (fun g => { g with run := g.run.map (fun j => { j with writeFrom := some (j.writeFrom.getD s.time) }) })
  else s.ingWrote e

/-- Mask and manifest of an INGEST whose command completes at once; where a write waits on a page in motion, its engine writes them later. -/
def State.reportNow (s : State) (e : Nat) (j : IngJob) : State :=
  match uReport (some j.part) j { s with bus := some (j.stream, none) } with
  | (.error (.wait _), _) => s.modIng e (fun g => { g with late := g.late ++ [{ j with finish := true }] })
  | (_, s1) => ({ s1 with bus := s.bus }).claimSent j.stream j.seq

/-- The oldest report that the engine still owes. -/
def State.lateReport (s : State) (e : Nat) : State :=
  match (s.ingOf e).late with
  | [] => s
  | j :: l =>
    match uReport (some j.part) j { s with bus := some (j.stream, none) } with
    | (.error (.wait lv), _) =>
      if lv then s.modIng e (fun g => { g with late := { j with writeFrom := some (j.writeFrom.getD s.time) } :: l }) else s
    | (_, s1) =>
      let s2 := ({ s1 with bus := s.bus }).claimSent j.stream j.seq
      ((match j.writeFrom with | some t => s2.event 0x0207 j.part (s2.time - t) | none => s2).modIng e (fun g => { g with late := l })).noteIngHeld j

/-- The reports that the engine still owes, as far as they go now. -/
def State.lateReports (s : State) (e : Nat) : State := s.each (List.range (s.ingOf e).late.length) (fun s _ => s.lateReport e)

/-- An INGEST ends early with its command (R418): mask and manifest are written as far as their own writes succeed. -/
def State.ingEarly (s : State) (e : Nat) (j : IngJob) (st : Status) : State :=
  let j1 := j.cutShort
  (((s.ingWrote e).reportNow e j1).ingLeave e j1 st).event 0x0707 e st.code

/-- Every slot has settled, the deadline has come, or the INGEST ends early: the batch is reported (R405, R418); while a write waits on a page in
motion the engine stays at that. -/
def State.ingFinish (s0 : State) (e : Nat) (j : IngJob) : State :=
  let s := s0.modIng e (fun g => { g with run := some { j with finish := true } })
  match uReport (some j.part) j (s.ingWrote e) with
  | (.error (.wait l), _) => s.ingWaits e l
  | (r, s1) =>
    match j.ends, r with
    | some st, _ => (s1.ingLeave e j st).event 0x0707 e st.code
    | none, .error (.fail st) => (s1.ingLeave e j st).event 0x0707 e st.code
    | none, _ => s1.ingLeave e j .ok

/-- The running INGEST ends early with `st`; the first cause decides (R418). -/
def State.ingStop (s : State) (e : Nat) (j : IngJob) (st : Status) : State :=
  s.ingFinish e { j.cutShort with ends := some (j.ends.getD st) }

/-! ## INGEST (R404, R405) -/

/-- An INGEST joins the queue of its engine at its admission. -/
def State.enqueueIng (s : State) (n : Nat) (c : Cmd) : State :=
  let p := (s.stream n).part.toNat
  let e := byteAt c.bytes 0x2E
  (s.modIng e (fun g => { g with
    queue := g.queue ++ [{ stream := n, seq := c.seq, part := p, aframe := (s.part p).frame + 1, bytes := c.bytes, tick := c.tick, adm := c.adm }] }))

/-- The command at the head of its engine's queue starts; it reads the ROI area whole (R413). -/
def State.ingStart (s : State) (n : Nat) (c : Cmd) : State :=
  let e := byteAt c.bytes 0x2E
  let g := s.ingOf e
  match g.run, g.queue with
  | none, j :: rest =>
    if !(j.stream = n && j.seq = c.seq) then s
    else if ingHeld s j || !g.late.isEmpty then s
    else
      let s0 := s.advanceTo j.tick
      let roi := if j.roiAt = 0 then (Except.ok [], s0) else
        s0.readAny none j.roiAt (64 + j.nSlots * s0.rdN (j.roiAt + 4) 4)
      let j1 := { j with start := s0.time, srcTail := s0.rdN (j.src + 0xC) 4, poolTail := if j.pool = 0 then 0 else s0.rdN (j.pool + 0xC) 4 }
      let go := fun (s : State) (j : IngJob) =>
        let s1 := (s.startCmd n c.seq).modIng e (fun g => { g with run := some j, queue := rest, abortReq := false })
        if j.held then s1.event 0x0705 e ((s0.time - j.tick) / 1200) else s1
      match roi with
      | (.error .wait, _) => s
      | (.error _, s1) => (go s1 j1).ingStop e j1 .busError
      | (.ok b, s1) => go s1 { j1 with roi := b }
  | _, _ => s

def execIngest (stream : Nat) (s : State) : Host.Outcome State Fault Refusal :=
  ok (s.live (fun s => match nextOf s stream 0xC with | some c => (s.lateReports (byteAt c.bytes 0x2E)).onBehalf stream none (fun s => s.ingStart stream c) | none => s))

/-! ## INGEST_RECORD, INGEST_TAIL_POLL (R407, R410, R411) -/

/-- The batch deadline, if the next tick of the partition is its T′ (R405). -/
def deadlineOf (s : State) (j : IngJob) : Option Nat :=
  let t := (s.part j.part).next
  if j.start + 6000 ≤ t then some (t - 6000) else none

/-- The deadline has passed. -/
def pastDeadline (s : State) (j : IngJob) : Bool := (deadlineOf s j).any (fun t => decide (t ≤ s.time))

/-- One record: first the lowest awaiting slot from the pool, then the next source record. -/
def uNext (e : Nat) (p : Option Nat) (j : IngJob) : UM IngJob := do
  let j ← (match j.awaiting with
    | i :: _ => do let r ← uPool e p 65537 j i; pure r.1
    | [] => pure j : UM IngJob)
  let s ← uGet
  let tail := if queueHas s j.src j.srcTail then j.srcTail else s.rdN (j.src + 0xC) 4
  let j := { j with srcTail := tail }
  if j.slot < j.nSlots ∧ queueHas s j.src tail then uSource e p j
  else
    let pool := !j.awaiting.isEmpty && j.pool ≠ 0 && queueHas s j.pool j.poolTail
    pure { j with waiting := !j.settled && !pool, polledAt := s.time }

/-- What ends the running INGEST at the next record boundary (R418): ABORT, or a write of it that a loss of the host has failed. -/
def ingCause (s : State) (e : Nat) (j : IngJob) : Option Status :=
  if (s.ingOf e).abortReq then some .stopped
  else if (s.stream j.stream).cmds.any (fun c => c.seq = j.seq && c.lost) then some .hostLost
  else none

def State.ingRecord (s : State) (e : Nat) : State :=
  match (s.ingOf e).run with
  | none => s
  | some j =>
    match ingCause s e j with
    | some st => s.ingStop e j st
    | none =>
      if j.finish then s.ingFinish e j
      else if j.waiting || pastDeadline s j then s
      else
        match uNext e (some j.part) { j with writeFrom := none } (s.ingWrote e) with
        | (.error (.wait l), _) => s.ingWaits e l
        | (.error (.fail st), s1) => s1.ingStop e ((s1.ingOf e).run.getD j) st
        | (.ok j1, s1) =>
          let s2 := (s1.modIng e (fun g => { g with run := some j1 })).claimSent j.stream j.seq
          if j1.settled then s2.ingFinish e j1 else s2

/-- What engine `e` does for the stream of its command (08 R254). -/
def State.ingBehalf (s : State) (e : Nat) (f : State → State) : State :=
  match (s.ingOf e).run with
  | some j => s.onBehalf j.stream none f
  | none => s

def execIngestRecord (e : Nat) (s : State) : Host.Outcome State Fault Refusal :=
  ok (s.live (fun s => if e < 4 then (s.lateReports e).ingBehalf e (fun s => s.ingRecord e) else s))

/-- 1 µs later TAIL is read again (R407). -/
def State.tailPoll (s : State) (e : Nat) : State :=
  match (s.ingOf e).run with
  | none => s
  | some j =>
    if !j.waiting || j.finish || pastDeadline s j then s
    else
      let s1 := s.advanceTo (j.polledAt + 1200)
      let j1 := { j with polledAt := s1.time, srcTail := s1.rdN (j.src + 0xC) 4, poolTail := if j.pool = 0 then 0 else s1.rdN (j.pool + 0xC) 4 }
      let more := (decide (j.slot < j.nSlots) && queueHas s1 j.src j1.srcTail)
        || (!j.awaiting.isEmpty && j.pool ≠ 0 && queueHas s1 j.pool j1.poolTail)
      s1.modIng e (fun g => { g with run := some { j1 with waiting := !more } })

/-- What an idle or running engine reads next: its queue's first command starts, or the next record is taken (08 R265). -/
def State.ingNext (s : State) (e : Nat) : State :=
  match (s.ingOf e).run, (s.ingOf e).queue with
  | some _, _ => s.ingBehalf e (fun s => s.ingRecord e)
  | none, j :: _ =>
    (match nextOf s j.stream 0xC with
    | some c => s.onBehalf j.stream none (fun s => s.ingStart j.stream c)
    | none => s)
  | none, [] => s

def execIngestTailPoll (e : Nat) (s : State) : Host.Outcome State Fault Refusal :=
  ok (s.live (fun s => if e < 4 then s.ingBehalf e (fun s => s.tailPoll e) else s))

/-! ## BATCH_DEADLINE, INGEST_ABORT (R405, R411, R412, R418) -/

/-- Awaiting slots are padded, slots without a source record are missing. -/
def State.deadlineNow (s : State) (e : Nat) (j : IngJob) : State :=
  let pad := j.awaiting
  let j1 := pad.foldl (fun j i => j.setSlot i (fun x => { x with await := false, kind := 2 })) j
  let s1 := pad.foldl (fun s i => s.event 0x0702 e i) s
  let miss := j1.count 3
  State.ingFinish (if miss = 0 then s1 else s1.event 0x0703 e miss) e j1

/-- The batch deadline of the INGEST running at engine `e`, if its tick is the next one. -/
def State.batchDeadline (s : State) (e : Nat) : State :=
  match (s.ingOf e).run with
  | none => s
  | some j =>
    match ingCause s e j with
    | some st => s.ingStop e j st
    | none => if j.finish then s.ingFinish e j
    else match deadlineOf s j with | some t => (s.advanceTo t).deadlineNow e j | none => s

def execBatchDeadline (e : Nat) (s : State) : Host.Outcome State Fault Refusal :=
  ok (s.live (fun s => if e < 4 then s.ingBehalf e (fun s => s.batchDeadline e) else s))

/-- The deadlines of partition `p` that precede its coming tick. -/
def State.batchDeadlines (s : State) (p : Nat) : State :=
  [0, 1, 2, 3].foldl (fun s e => if (s.ingOf e).run.any (fun j => j.part = p) then s.ingBehalf e (fun s => s.batchDeadline e) else s) s

def State.ingAbort (s : State) (e : Nat) : State :=
  match (s.ingOf e).run with
  | some j => (s.modIng e (fun g => { g with abortReq := true })).ingStop e j .stopped
  | none => s

def execIngestAbort (e : Nat) (s : State) : Host.Outcome State Fault Refusal :=
  ok (s.live (fun s => if e < 4 then s.ingBehalf e (fun s => s.ingAbort e) else s))

end Sys2Proof.Machine
end

