-- ==== Sys2Proof/Machine/Syn.lean ====
section
/-! DEFINITION. SYN words: tokens, inter-stage queues and barriers (05 R142 to R145, 06 R182 to R184). -/
namespace Sys2Proof.Machine

/-- Every drain of the core whose OFFSET is at most `t` has completed (R143). -/
def drainsDone (k : Core) (t : Nat) : Bool :=
  k.movement.all (fun x => !isDrain x.w || x.dead || decide (t < x.h.offset.toNat)) && k.drains.all (fun m => decide (t < m.h.offset.toNat))

/-- Global core of a partition core index (R142). -/
def coreOfIndex (s : State) (p i : Nat) : Option Nat := ((s.part p).clusters[i / 16]?).map (fun g => 16 * g + i % 16)

/-- The issue now under way sends `x`. -/
def State.send (s : State) (c : Nat) (x : Sent) : State := s.modCore c (fun k => { k with sent := k.sent ++ [(k.issues + 1, x)] })

/-- The core that sent `x` and has no acknowledgement of it yet. -/
def senderOf (s : State) (x : Sent) : Option Nat := (s.cores.find? (fun e => e.2.sent.any (fun y => y.2 = x))).map (·.1)

def State.acked (s : State) (c : Nat) (x : Sent) : State := s.modCore c (fun k => { k with sent := k.sent.eraseP (fun y => y.2 = x) })

/-! ## Tokens (R143) -/

def State.signalTo (s : State) (c : Nat) (h : WordHdr) (f : SynArgs) : State :=
  match (partOfCore s c).bind (fun p => coreOfIndex s p f.tgt.toNat) with
  | some t => s.send c (.token t f.ctr f.val)
  | none => s.reservedWord c h

/-- A SIGNAL waits for the drains up to its OFFSET, as R129 gives it; a reserved TGT waits for nothing. -/
def execSynSignal (c : Nat) (h : WordHdr) (f : SynArgs) (s : State) : Host.Outcome State Fault Refusal :=
  ok (s.issue c h (.syn 0 f) none (drainsDone (s.core c) (effOf (s.core c) h)) ((partOfCore s c).bind (fun p => coreOfIndex s p f.tgt.toNat)).isNone
    id (fun s => s.signalTo c h f))

def execSynWait (c : Nat) (h : WordHdr) (f : SynArgs) (s : State) : Host.Outcome State Fault Refusal :=
  ok (s.issue c h (.syn 1 f) none (decide (f.val ≤ tget 0 (s.core c).tok f.ctr.toNat)) false id id)

/-- An increment reaches its target core: the counter saturates, and the sender is acknowledged. -/
def State.tokenArrives (s : State) (c : Nat) (ctr : BitVec 4) (val : BitVec 16) : State :=
  match senderOf s (.token c ctr val) with
  | none => s
  | some src =>
    let s1 := s.acked src (.token c ctr val)
    let t := (tget 0 (s1.core c).tok ctr.toNat).toNat + val.toNat
    let s2 := s1.modCore c (fun k => { k with tok := tset 0 k.tok ctr.toNat (BitVec.ofNat 16 (Min.min t 0xFFFF)) })
    if 0xFFFF < t then s2.event 0x0A44 c ctr.toNat else s2

def execTokenIncrementArrival (c : Nat) (ctr : BitVec 4) (val : BitVec 16) (s : State) : Host.Outcome State Fault Refusal :=
  ok (s.live (fun s => s.tokenArrives c ctr val))

/-! ## Inter-stage queues (R144, 06 R182) -/

def queueOf (s : State) (p qid : Nat) : Queue := tget {} (s.part p).queues qid
def State.modQueue (s : State) (p qid : Nat) (f : Queue → Queue) : State :=
  s.modPart p (fun q => { q with queues := tmod {} q.queues qid f })

/-- A queue operation: VAL of 0 and a core outside the role are reserved encodings. The bit-stream names a queue's ends by partition core
index (07 R199). -/
def queueRole (s : State) (c : Nat) (f : SynArgs) (producer : Bool) : Option Nat :=
  match partOfCore s c with
  | none => none
  | some p =>
    let q := queueOf s p f.qid.toNat
    if f.val ≠ 0 && q.c ≠ 0 && coreOfIndex s p (if producer then q.prod else q.cons) == some c then some p else none

def State.queueWord (s : State) (c : Nat) (h : WordHdr) (f : SynArgs) (producer : Bool) (g : State → Nat → State) : State :=
  match queueRole s c f producer with
  | some p => g s p
  | none => s.reservedWord c h

/-- The queue of the core's role meets `test`. -/
def queueReady (s : State) (c : Nat) (f : SynArgs) (producer : Bool) (test : Queue → Bool) : Bool :=
  (queueRole s c f producer).any (fun p => test (queueOf s p f.qid.toNat))

/-- A QPUT takes its credits (R144). -/
def State.takeCredits (s : State) (p : Nat) (f : SynArgs) : State :=
  s.modQueue p f.qid.toNat (fun q => { q with credits := q.credits - f.val.toNat, annFly := q.annFly + f.val.toNat })

/-- Mark the core's next issue, a QPUT, as holding its credits. -/
def State.markGot (s : State) (c : Nat) (b : Bool) : State :=
  match headIssue (s.core c) with
  | some (i, _) => s.modCore c (fun k => { k with compute := k.compute.modify i (fun x => { x with got := b }) })
  | none => s

def hasCredits (k : Core) : Bool := (headIssue k).any (fun x => x.2.got)

/-- A QPUT waits for credits and takes them, then waits for the drains up to its OFFSET and announces its entries (R144). Its issue comes
with the announcement; credits that arrive while it waits it takes as they arrive (`creditWait`). -/
def execQput (c : Nat) (h : WordHdr) (f : SynArgs) (s : State) : Host.Outcome State Fault Refusal :=
  let got := hasCredits (s.core c)
  let ready := drainsDone (s.core c) (effOf (s.core c) h) && (got || queueReady s c f true (fun q => decide (f.val.toNat ≤ q.credits)))
  ok (s.issue c h (.syn 2 f) none ready (queueRole s c f true).isNone id (fun s => s.queueWord c h f true (fun s p =>
    ((if got then s.markGot c false else s.takeCredits p f)).send c (.announce p f.qid.toNat f.val))))

/-- Credits have come back to queue `qid`: a QPUT of its producer that stands next, is due and lacked them takes them now, and its wait is counted
(R145). -/
def State.creditWait (s : State) (p qid : Nat) : State :=
  match coreOfIndex s p (queueOf s p qid).prod with
  | none => s
  | some c =>
    match headIssue (s.core c) with
    | some (_, x) =>
      match x.w with
      | .syn 2 f =>
        let due := dueAt s c x.w x.sched
        if f.qid.toNat = qid && !x.got && !x.dead && predOk (s.core c) x.h && (queueRole s c f true).isSome && !needsFetch (s.core c) x.sched
            && decide (due < s.time) && decide (f.val.toNat ≤ (queueOf s p qid).credits) then
          ((s.takeCredits p f).markGot c true).event 0x0A43 c (s.time - due)
        else s
      | _ => s
    | none => s

def execQget (c : Nat) (h : WordHdr) (f : SynArgs) (s : State) : Host.Outcome State Fault Refusal :=
  ok (s.issue c h (.syn 3 f) none (queueReady s c f false (fun q => decide (f.val.toNat ≤ q.announced))) (queueRole s c f false).isNone id (fun s =>
    s.queueWord c h f false (fun s p =>
      s.modQueue p f.qid.toNat (fun q => { q with announced := q.announced - f.val.toNat, held := q.held + f.val.toNat }))))

/-- QREL returns credits it holds (the sum of 06 R182 holds at every moment; DESIGN CHOICE, notes/assumptions/12.md). -/
def execQrel (c : Nat) (h : WordHdr) (f : SynArgs) (s : State) : Host.Outcome State Fault Refusal :=
  ok (s.issue c h (.syn 4 f) none (queueReady s c f false (fun q => decide (f.val.toNat ≤ q.held))) (queueRole s c f false).isNone id (fun s =>
    s.queueWord c h f false (fun s p =>
      (s.modQueue p f.qid.toNat (fun q => { q with held := q.held - f.val.toNat, crdFly := q.crdFly + f.val.toNat })).send c
        (.credit p f.qid.toNat f.val))))

def execQueueAnnounceArrival (p qid : Nat) (val : BitVec 16) (s : State) : Host.Outcome State Fault Refusal :=
  ok (s.live (fun s =>
    match senderOf s (.announce p qid val) with
    | none => s
    | some c => (s.acked c (.announce p qid val)).modQueue p qid (fun q =>
        { q with annFly := q.annFly - val.toNat, announced := q.announced + val.toNat })))

def execQueueCreditArrival (p qid : Nat) (val : BitVec 16) (s : State) : Host.Outcome State Fault Refusal :=
  ok (s.live (fun s =>
    match senderOf s (.credit p qid val) with
    | none => s
    | some c => ((s.acked c (.credit p qid val)).modQueue p qid (fun q =>
        { q with crdFly := q.crdFly - val.toNat, credits := q.credits + val.toNat })).creditWait p qid))

/-! ## Barriers (R145) -/

/-- Cores of the issuing core's cluster that a CMASK names. -/
def barrierCores (c : Nat) (m : BitVec 16) : List Nat := ((List.range 16).filter (fun i => m.toNat.testBit i)).map (fun i => c / 16 * 16 + i)

/-- A CBAR of this mask is the next issue of the core (or its stream is not loaded). -/
def atBarrier (k : Core) (m : BitVec 16) : Bool :=
  match headIssue k with
  | none => k.compute.isEmpty
  | some (_, x) => (match x.w with | .syn 5 f => f.cmask = m | _ => false)

/-- Let a core that waits at its barrier go on. -/
def State.passBarrier (s : State) (c : Nat) : State :=
  let s1 := s.modCore c (fun k => { k with cbarAt := none })
  match headIssue (s1.core c) with
  | some (i, x) => ((((s1.reachIssue c x.h x.w x.sched true).noteIssue c x.w x.sched true)).popIssue c i x.sched).skipAll c
  | none => s1

/-- A core arrives at its barrier: the last of the named cores to arrive releases all of them. -/
def State.arrive (s : State) (c : Nat) (m : BitVec 16) : State :=
  let s1 := s.modCore c (fun k => { k with cbarAt := some m })
  if (barrierCores c m).all (fun x => (s1.core x).cbarAt = some m) then s1.each (barrierCores c m) State.passBarrier else s1

/-- Cycle from which the core's next issue is due; now where its stream is not loaded. -/
def nextDue (s : State) (c : Nat) : Nat :=
  match headIssue (s.core c) with | some (_, x) => dueAt s c x.w x.sched | none => frameBase s c

/-- A CBAR holds its core until every core it names has issued a CBAR of the same mask. -/
def execCbar (c : Nat) (h : WordHdr) (f : SynArgs) (s : State) : Host.Outcome State Fault Refusal :=
  let k := s.core c
  let named := f.cmask.toNat.testBit (c % 16)
  let goes := predOk k h && !(match headIssue k with | some (_, x) => x.dead | none => false)
  let here := atBarrier k f.cmask && (match headIssue k with | some (_, x) => x.h = h && x.w = .syn 5 f && !needsFetch k x.sched | none => !needsFetch k h.offset.toNat)
  if !runsWords s c then ok s
  else if goes && named then (if here && k.cbarAt.isNone then ok ((s.advanceTo (nextDue s c)).arrive c f.cmask) else ok s)
  else ok (s.issue c h (.syn 5 f) none true true id (fun s => s.reservedWord c h))

end Sys2Proof.Machine
end

