-- ==== Sys2Proof/Machine/Update.lean ====
section
/-! DEFINITION. The update engines: UPDATE in its two phases, group waits, TIE_SUM, EXPORT and IMPORT (12 R361 to R368, 13 R372 to R399). -/
namespace Sys2Proof.Machine

/-! ## The queue of an engine (R352, R373) -/

/-- Opcode of a command that writes a shard. -/
def writesShard (op : Nat) : Bool := op = 3 || op = 5 || op = 0xB

def phaseDone (c : Cmd) : Bool := match c.phase with | .complete _ _ _ _ => true | _ => false

/-- An earlier writer of the same shard has not completed (R352). -/
def shardHeld (s : State) (c : Cmd) : Bool :=
  let a := bytesN c.bytes 8 8
  let other := fun (d : Cmd) => writesShard (opOf d) && bytesN d.bytes 8 8 = a && !phaseDone d
  s.stm.streams.any (fun e => e.2.cmds.any (fun d => other d && decide (d.adm < c.adm)))

/-- The admitted command of a stream with this sequence number. -/
def cmdOf (s : State) (n : Nat) (seq : BitVec 16) : Option Cmd := (s.stream n).cmds.find? (fun c => c.seq = seq)

/-- The engine may start command `c`, or go on with it where an access of it waits: nothing is complete and parked, at most 1,023 are parked, and every command queued before it is
held behind a writer of its shard: one that R352 holds lets those behind it pass (R373; DEDUCED, notes/assumptions/70.md). -/
def engineTurn (s : State) (d n : Nat) (c : Cmd) : Bool :=
  let u := s.updOf d
  if u.began.isSome then u.began == some (n, c.seq)
  else (updRunning u).isNone && decide (u.parked.length < 1024) && !(writesShard (opOf c) && shardHeld s c)
    && (u.queue.takeWhile (fun j => !(j.stream = n && j.seq = c.seq))).all (fun j =>
      match cmdOf s j.stream j.seq with
      | some e => writesShard (opOf e) && shardHeld s e
      | none => true)

/-- The job of a command. -/
def jobOf (s : State) (n : Nat) (c : Cmd) : UpdJob :=
  { stream := n, seq := c.seq, part := (s.stream n).part.toNat, adm := c.adm, opcode := opOf c, shard := bytesN c.bytes 8 8 }

/-- A command joins the queue of its engine at its admission. -/
def State.enqueueUpd (s : State) (n : Nat) (c : Cmd) : State :=
  s.modUpd (engineOf c.bytes % 4) (fun u => { u with queue := u.queue ++ [jobOf s n c] })

/-- A command could start but for the 1,024 that are parked (R373). -/
def State.noteCap (s : State) (d n : Nat) (c : Cmd) : State :=
  let u := s.updOf d
  if 1024 ≤ u.parked.length && u.began.isNone && (updRunning u).isNone && !(writesShard (opOf c) && shardHeld s c) then
    s.modUpd d (fun u => { u with capFrom := some (u.capFrom.getD (s.time, n, c.seq)) })
  else s

/-- A write of this command waits for an EXPORT's hold from now on (R396). -/
def State.noteHold (s : State) (d n : Nat) (seq : BitVec 16) : State :=
  s.modUpd d (fun u => { u with holdFrom := some (u.holdFrom.getD (s.time, n, seq)) })

/-- The engine begins a command: it leaves the queue, and UPD_CUR names it. -/
def State.beginUpd (s : State) (d n : Nat) (c : Cmd) (st : EngState) : State :=
  ((((s.advanceTo c.tick).capDone d).waitOver n c.seq).startCmd n c.seq).modUpd d (fun u =>
    { u with queue := u.queue.filter (fun j => !(j.stream = n && j.seq = c.seq)), state := st, curShard := BitVec.ofNat 32 (s.rdN (bytesN c.bytes 8 8 + 4) 4),
             curStream := BitVec.ofNat 14 n, part := some (s.stream n).part.toNat })

/-- An access of the command that engine `d` is on waits. What its phase has done is done again when the wait is over; until then the engine
shows the command and the phase it has come to, as state `f` has them (R401), and a write that waits on an EVICTING or RELOCATING page is
counted from here on (08 R255). -/
def State.updWaits (s f : State) (d n : Nat) (seq : BitVec 16) (leaving : Bool) : State :=
  let w := f.updOf d
  (if leaving then s else s.writeDone d).modUpd d (fun u =>
    { u with state := w.state, curShard := w.curShard, curStream := w.curStream, part := w.part, ctx := w.ctx, holds := w.holds, began := some (n, seq),
             writeFrom := if leaving then some (u.writeFrom.getD (s.time, w.part.getD 0)) else u.writeFrom })

/-- The EXPORT of a hold has not completed (R396). -/
def holdOpen (s : State) (h : Nat × Nat × Nat × Nat) : Bool := (s.stream h.1).cmds.any (fun c => c.adm = h.2.1 && !phaseDone c)

/-- An EXPORT still holds the state set `[a, a + n)` (R396). -/
def setHeld (s : State) (a n : Nat) : Bool :=
  s.upd.any (fun e => e.2.holds.any (fun h =>
    !disjoint h.2.2.1 h.2.2.2 a n && holdOpen s h))

/-! ## Headers -/

/-- Header and map as they stand. -/
def uShard (a : Nat) : UM (Shard × ShMap) := do
  let l ← uRd none a 64
  let h := shardOf a l
  let ml ← uRd none h.map 128
  pure (h, mapOf ml)

/-- Bits of FLAGS, changed with one 8-byte write (R341). -/
def uFlags (h : Shard) (clear set : Nat) : UM Unit := do
  let l ← uRd none (h.addr + 0x28) 8
  uWr none (h.addr + 0x28) (patch l 7 [BitVec.ofNat 8 ((byteAt l 7 ||| clear) - clear ||| set)])

/-- A gradient buffer is zeroed, all its slots, and ZPEND cleared (R350, R359). -/
def uZeroGrads (p : Option Nat) (h : Shard) (m : ShMap) (step : Nat) : UM Unit := do
  uZero p (m.gradSlot (step % Max.max 1 m.ngrad) 0) (m.ties * m.sG)
  uFlags h 2 0

/-- Pending zeroing is completed by the next command that writes the shard (R359). -/
def uPending (p : Option Nat) (h : Shard) (m : ShMap) : UM Unit := if h.zpend then uZeroGrads p h m (h.step - 1) else pure ()

/-- The buffer of the next version (R349). -/
def shadowBuf (h : Shard) (m : ShMap) : Nat := workBuf h m (h.step + 1)

def allOnes8 : List Byte := List.replicate 8 0xFF

/-! ## Groups (R376, R378) -/

/-- A group is complete: every slot holds SLOT_STEP = s. -/
def groupDone (s : State) (st step : Nat) : Bool :=
  (List.range (s.rdN (st + 4) 2)).all (fun i => s.rdN (st + 0x40 + 16 * i) 8 = step)

/-- STATS, PARAMS and STEP of an UPDATE. -/
def statsAt (c : Cmd) : Nat := bytesN c.bytes 0x30 8
def paramsAt (c : Cmd) : Nat := bytesN c.bytes 0x18 8
def stepOf (c : Cmd) : Nat := bytesN c.bytes 0x20 8

/-- A parked job looks at its group. -/
def recheck (s : State) (j : UpdJob) : UpdJob :=
  match cmdOf s j.stream j.seq with
  | some c => if groupDone s (statsAt c) (stepOf c) then { j with parkedAt := none } else j
  | none => j

/-- Jobs parked on engine `d` look at their groups: those that `which` names. -/
def State.recheckGroups (s : State) (d : Nat) (which : UpdJob → Bool) : State :=
  s.modUpd d (fun u => { u with parked := u.parked.map (fun j => if which j && j.parkedAt.isSome then recheck s j else j) })

/-! ## UPDATE: start and pass 1 (R372, R374, R377) -/

/-- Cycles to move `n` bytes between the engine of die `d` and address `a` (R370, R400). -/
def moveCycles (s : State) (p : Option Nat) (d a n : Nat) : Nat :=
  ceilDiv n (match resolve s p a false with | .at pa => if pa < hbmEnd ∧ homeDie pa = d then 512 else 256 | _ => 256)

def lanesOf (m : ShMap) : Nat := ceilDiv m.n 256

/-- What pass 1 measures. -/
structure Pass1 where
  sumsq  : F32
  nonfin : Nat
  cycles : Nat
deriving DecidableEq, Repr

/-- The start phase and pass 1; `none` is a STEP_SKEW. -/
def uStart (d : Nat) (p : Option Nat) (c : Cmd) : UM (Option Pass1) := do
  let (h, m) ← uShard (bytesN c.bytes 8 8)
  if h.step ≠ stepOf c then pure none
  else
    let q := paramsOf (← uRd none (paramsAt c) 128)
    uPending p h m
    let slot := m.gradSlot (h.step % m.ngrad) 0
    let raw := numsOf m.gBytes (← uRd p slot (m.gBytes * m.n))
    let g := unscale m h.lscale raw
    let sq := g.map (fun x => fmul x x)
    let draw := sumKey h 0
    let fac := decide (byteAt c.bytes 0x28 = 3)
    if fac then
      uWr p (shadowBuf h m) allOnes8
      uWr p (shadowBuf h m + 0x40) (f32Bytes ((List.range m.rows).map (fun r => sumFree draw (1 + r) (rowAt m.cols r sq))
        ++ (List.range m.cols).map (fun k => sumFree draw (1 + m.rows + k) (colAt m.rows m.cols k sq))))
    else pure ()
    let s ← uGet
    let zeroed := if h.zpend then phaseCycles 0 0 (moveCycles s p d (m.gradSlot ((h.step - 1) % Max.max 1 m.ngrad) 0) (m.ties * m.sG)) else 0
    let r : Pass1 := { sumsq := sumFree draw 0 sq, nonfin := (raw.filter (nonFinite (decide (m.gclass = 1)))).length,
                       cycles := zeroed + 1200 + phaseCycles ((if fac then 3 else 2) * lanesOf m) (moveCycles s p d slot (m.gBytes * m.n)) 0 }
    if statsAt c ≠ 0 then
      uWr none (statsAt c + 0x48 + 16 * q.gslot) (leBytes 4 r.sumsq.toNat ++ leBytes 4 r.nonfin)
      uWr none (statsAt c + 0x40 + 16 * q.gslot) (leBytes 8 h.step)
    else pure ()
    pure (some r)

/-- An UPDATE ends before its flip with the status of a failed access or program stop (R397): a host loss gives NOT_COMMITTED. -/
def State.updFail (s : State) (d : Nat) (j : UpdJob) (st : Status) (reason : Nat) : State :=
  let s1 := (s.waitOver j.stream j.seq).modUpd d (fun u => { u with parked := u.parked.filter (fun x => !(x.stream = j.stream && x.seq = j.seq)) })
  let fin := if st = .hostLost then (Status.notCommitted, Status.hostLost.code) else (st, reason)
  ((s1.idleUpd d).endCmd j.stream j.seq fin.1 (BitVec.ofNat 8 fin.2) (updResult s j)).event 0x0603 (dieCode d) st.code

/-- Pass 1 is done: the job joins the parked ones, and the engine's groups are looked at (R373, R378). -/
def State.parkUpd (s : State) (d : Nat) (j : UpdJob) (c : Cmd) : State :=
  let inc := decide (statsAt c ≠ 0) && !groupDone s (statsAt c) (stepOf c)
  let j1 := if inc then { j with parkedAt := some s.time, didPark := true } else j
  ((s.modUpd d (fun u => { u with parked := u.parked ++ [j1] })).idleUpd d).recheckGroups d (fun _ => true)

def State.updStart (s : State) (n : Nat) (c : Cmd) : State :=
  let d := engineOf c.bytes % 4
  if !engineTurn s d n c then s.noteCap d n c
  else
    let j := jobOf s n c
    match uStart d (some j.part) c (s.beginUpd d n c .pass1) with
    | (.error (.wait l), f) => ((s.advanceTo c.tick).capDone d).updWaits f d n c.seq l
    | (.error (.fail st), s1) => s1.updFail d j st 0
    | (.ok none, s1) =>
      ((s1.idleUpd d).endCmd n c.seq .stepSkew 1 (updResult s1 j)).event 0x0602 (dieCode d) (stepOf c % 2 ^ 32)
    | (.ok (some r), s1) => s1.parkUpd d { j with sumsq := r.sumsq, nonfin := r.nonfin, cycles := r.cycles } c

def execUpdate (stream : Nat) (s : State) : Host.Outcome State Fault Refusal :=
  ok (s.live (fun s => match nextOf s stream 3 with
    | some c => (s.onBehalf stream (some (engineOf c.bytes % 4)) (fun s => s.updStart stream c)).claimSent stream c.seq
    | none => s))

/-! ## GROUP_TIMEOUT (R379) -/

def State.groupTimeout (s : State) (d n : Nat) : State :=
  match (s.updOf d).parked.find? (fun j => j.stream = n && j.parkedAt.isSome &&
      (match cmdOf s j.stream j.seq with
       | some c => let t := s.rdN (paramsAt c + 0x3E) 2; t ≠ 0 && decide (t ≤ j.parkFrames)
       | none => false)) with
  | none => s
  | some j =>
    let slot := match cmdOf s j.stream j.seq with | some c => s.rdN (paramsAt c + 0x3C) 2 | none => 0
    (((s.waitOver j.stream j.seq).modUpd d (fun u => { u with parked := u.parked.filter (fun x => !(x.stream = j.stream && x.seq = j.seq)) })).endCmd
      j.stream j.seq .stopped 0x26 (updResult s j)).event 0x0605 (dieCode d) slot

def execGroupTimeout (d stream : Nat) (s : State) : Host.Outcome State Fault Refusal :=
  ok (s.live (fun s => if d < 4 then s.groupTimeout d stream else s))

/-! ## Scalars and pass 2 (R378, R380, R384, R389) -/

def UCx.grad (x : UCx) : Nat := x.m.gradSlot (x.h.step % x.m.ngrad) 0
def UCx.rule (x : UCx) : Nat := byteAt x.c.bytes 0x28

/-- The norm and non-finite bases (R378, R380, R381). -/
def uBasis (x : UCx) (j : UpdJob) : UM (F32 × Nat) :=
  if statsAt x.c = 0 then pure (j.sumsq, j.nonfin)
  else do
    let n := leNat (← uRd none (statsAt x.c + 4) 2)
    let l ← uRd none (statsAt x.c + 0x40) (16 * n)
    pure ((List.range n).foldl (fun s i => fadd s (BitVec.ofNat 32 (bytesN l (16 * i + 8) 4))) 0,
      (List.range n).foldl (fun s i => s + bytesN l (16 * i + 12) 4) 0)

/-- The head of the statistics record (R378). -/
def uHead (x : UCx) (basis : F32) (nonfin : Nat) (k : Scalars) : UM Unit :=
  if statsAt x.c = 0 then pure ()
  else uWr none (statsAt x.c + 0x18) (leBytes 4 basis.toNat ++ leBytes 4 k.norm.toNat ++ leBytes 4 k.clip.toNat ++ leBytes 4 nonfin
    ++ leBytes 4 k.lsnext.toNat)

/-- Gradient elements as FP32, as stored. -/
def uGrads (x : UCx) : UM (List F32) := do
  let raw ← uRd x.p x.grad (x.m.gBytes * x.m.n)
  pure ((numsOf x.m.gBytes raw).map (gradVal (decide (x.m.gclass = 1))))

/-- Read an n × n matrix. -/
def uMat (p : Option Nat) (a n : Nat) : UM Mat := do pure (chunks n (f32sOf (← uRd p a (4 * n * n))))

def uBlocks (x : UCx) : UM (List PBlock) :=
  if x.m.nblk = 0 ∨ x.m.pbase = 0 then pure []
  else do
    let l ← uRd x.p x.m.pbase (32 * x.m.nblk)
    pure ((List.range x.m.nblk).map (fun i => pblockOf (l.drop (32 * i))))

/-- Apply every block's root in force to G (R389). -/
def uApply (x : UCx) (draw : Nat) : List PBlock → Mat → UM Mat
  | [], g => pure g
  | b :: bs, g => do
    let root ← uMat x.p (b.addr + b.matBytes * (1 + b.rsel % 2)) b.size
    uApply x draw bs (applyBlock draw x.m b root g)

/-- With PRECOND: g′ in the spare master region (R389). -/
def uPrecond (x : UCx) (k : Scalars) : UM Unit :=
  if !x.q.precond then pure ()
  else do
    let g ← uGrads x
    let bl ← uBlocks x
    let lg ← uApply x (sumKey x.h 2) (bl.filter (fun b => b.axis = 0)) (chunks x.m.cols g)
    let lgr ← uApply x (sumKey x.h 2) (bl.filter (fun b => b.axis ≠ 0)) lg
    uWr x.p x.spare (f32Bytes (lgr.flatten.map (fmul k.gs)))

/-- The gradient the rule reads (R384, R389). -/
def uRuleGrad (x : UCx) (k : Scalars) : UM (List F32) :=
  if x.q.precond then do pure (f32sOf (← uRd x.p x.spare (4 * x.m.n)))
  else do pure ((← uGrads x).map (fun g => fmul g k.gs))

/-- A moment region of a set, type 3 INT8 or 4 UINT8. -/
def uMoment (x : UCx) (t a : Nat) : UM (List F32) := do
  let l ← uRd x.p a x.m.n
  let sc ← uRd x.p (a + ceil64 x.m.n) (2 * ceilDiv x.m.n 64)
  pure (momRead t l (numsOf 2 sc))

def uPutMoment (x : UCx) (t a : Nat) (v : List F32) : UM Unit := do
  let o := momWrite t v
  uWr x.p a o.1
  uWr x.p (a + ceil64 x.m.n) o.2

/-- A fixed rule (R384): the largest magnitude of the new master. -/
def uFixed (x : UCx) (k : Scalars) : UM F32 := do
  let m := x.m
  let g ← uRuleGrad x k
  let w := f32sOf (← uRd x.p x.h.set (4 * m.n))
  let m1 ← if m.m1 = 1 then uMoment x 3 (x.h.set + m.sM) else pure []
  let o ← (match x.rule with
    | 1 => pure (ruleMom x.q k g w m1)
    | 2 => do pure (ruleAdam x.q k g w m1 (← uMoment x 4 (x.h.set + m.sM + m.s1)))
    | 3 => do
      let sums := f32sOf (← uRd x.p (shadowBuf x.h m + 0x40) (4 * (m.rows + m.cols)))
      let old := f32sOf (← uRd x.p (x.h.set + m.sM + m.s1) (4 * (m.rows + m.cols)))
      let R := facNew x.q k.clip m.cols (old.take m.rows) (sums.take m.rows)
      let C := facNew x.q k.clip m.rows (old.drop m.rows) (sums.drop m.rows)
      uWr x.p (x.spare + m.sM + m.s1) (f32Bytes (R ++ C))
      pure (ruleFac (sumKey x.h 1) x.q k m g w m1 R C)
    | _ => pure (ruleSign x.q k g w m1) : UM RuleOut)
  uWr x.p x.spare (f32Bytes o.w)
  (if m.m1 = 1 then uPutMoment x 3 (x.spare + m.sM) o.m1 else pure ())
  (if m.m2 = 1 then uPutMoment x 4 (x.spare + m.sM + m.s1) o.m2 else pure ())
  pure (runMax 0 (o.w.map f32))

/-! ## Vector code (R385 to R388) -/

def pair (lo hi : F32) : W64 := BitVec.ofNat 64 (lo.toNat + 2 ^ 32 * hi.toNat)

/-- Address of UPD_CTX0 of an engine. -/
def ctxAddr (d : Nat) : Nat := regBase + (d + 1) * 0x1000000 + 6 * 0x10000 + 0x200

/-- The initial S registers (R385). -/
def initS (x : UCx) (k : Scalars) : List W64 :=
  let m := x.m
  let w := BitVec.ofNat 64
  let m1 := fun a => if m.m1 = 1 then a + m.sM else 0
  let m2 := fun a => if m.m2 ≠ 0 then a + m.sM + m.s1 else 0
  [w x.h.addr, w (ctxAddr x.d), w x.h.set, w (m1 x.h.set), w (m2 x.h.set), w x.spare, w (m1 x.spare), w (m2 x.spare),
   w (if x.q.precond then x.spare else x.grad), w m.n, w (paramsAt x.c), w (statsAt x.c), w x.h.step,
   pair k.lr (if x.q.precond then fone else k.gs), pair k.bc1 k.bc2, 0]

/-- UPD_CTX0 to UPD_CTX31 (R386). -/
def ctxWords (x : UCx) (k : Scalars) : List W64 :=
  let w := BitVec.ofNat 64
  initS x k ++ [w (shadowBuf x.h x.m), w x.m.pbase, w (x.m.rows + 2 ^ 32 * x.m.cols), pair k.norm k.clip, pair x.h.lscale k.lsnext,
    w (b2n (decide (x.m.gclass = 1)) + 2 * b2n (decide (statsAt x.c ≠ 0)) + 4 * b2n x.q.precond), w x.m.setbytes]

def tblOf (l : List W64) : Tbl W64 := l.zipIdx.foldl (fun t e => tset 0 t e.2 e.1) []

/-- One instruction of a program: fetched at PC and carried out; `true` when it must wait. -/
def progStep (s : State) (d : Nat) : State × Bool :=
  let u := s.updOf d
  match s.readAny u.part u.pc.toNat 8 with
  | (.error .wait, _) => (s, true)
  | (.error .lost, s1) => (s1.progStop d .hostLost, false)
  | (.error _, s1) => (s1.progStop d .busError, false)
  | (.ok b, s1) =>
    let w := leNat b
    let s2 := s1.vecEngine d (vargsOf w) (vop (opcOf w).toNat)
    (s2, (s2.updOf d).ended.isNone && (s2.updOf d).issued = u.issued)

/-- Run a program until it ends, waits, or has issued its limit (R388). -/
def runProgram (d : Nat) : Nat → State → State × Bool
  | 0, s => (s, false)
  | fuel + 1, s =>
    if (s.updOf d).ended.isSome then (s, false)
    else
      match progStep s d with
      | (s1, true) => (s1, true)
      | (s1, false) => runProgram d fuel s1

/-- Pass 2 as vector code (R385 to R388): the largest magnitude stored as new master. -/
def uProgram (x : UCx) (k : Scalars) : UM F32 := do
  let pc := BitVec.ofNat 64 (bytesN x.c.bytes 0x10 8)
  uDo (fun s => (s.writeDone x.d).modUpd x.d (fun u =>
    { u with pc := pc, v := [], m := [], sreg := tblOf (initS x k), ended := none, issued := 0, win := some (x.spare, 4 * x.m.n), amax := 0,
             part := x.p }))
  let s ← uGet
  let r := runProgram x.d (s.updOf x.d).ilimit.toNat s
  if r.2 then uFail (.wait (r.1.updOf x.d).writeFrom.isSome)
  else
    uDo (fun _ => r.1)
    let u := r.1.updOf x.d
    match u.ended with
    | some .ok => pure u.amax
    | some st => uFail (.fail st)
    | none =>
      uDo (fun s => (s.progStop x.d .stopped).event 0x0607 (dieCode x.d) (u.pc.toNat % 2 ^ 32))
      uFail (.fail .stopped)

/-! ## Conversion and flip (R392 to R395) -/

/-- Working version s + 1 from the new master. -/
def uConvert (x : UCx) (amax : F32) : UM Unit := do
  let a := shadowBuf x.h x.m
  uDo (fun s => s.modUpd x.d (fun u => { u with state := .convert }))
  uWr x.p a allOnes8
  let w := f32sOf (← uRd x.p x.spare (4 * x.m.n))
  let o := workImages x.q x.m x.h.id x.h.step amax w
  uWr x.p (a + 0x40) o.bytes
  uWr x.p (a + 8) (leBytes 4 x.h.id ++ leBytes 4 o.coarse.toNat ++ leBytes 4 amax.toNat)
  uWr x.p a (leBytes 8 (x.h.step + 1))
  uDo (fun s =>
    let s1 := if o.pois = 0 then s else s.event 0x0A10 (0xF000 + x.d) o.pois
    if o.sat = 0 then s1 else s1.event 0x0A11 (0xF000 + x.d) o.sat)

/-- A skipped step: version s is copied (R395). -/
def uSkipCopy (x : UCx) : UM Unit := do
  let a := shadowBuf x.h x.m
  uWr x.p a allOnes8
  uCopy x.p (workBuf x.h x.m x.h.step + 8) (a + 8) (x.m.wbytes - 8)
  uWr x.p a (leBytes 8 (x.h.step + 1))

/-- The header write (R394, R395). -/
def uFlip (x : UCx) (set : Nat) (ls : F32) : UM Unit := do
  let l ← uRd none x.h.addr 64
  let l1 := patch (patch l 8 (leBytes 8 (x.h.step + 1) ++ leBytes 8 set)) 0x28 (leBytes 4 ls.toNat)
  uWr none x.h.addr (patch l1 0x2F [2])

/-! ## After the flip (R390, R391, R394) -/

def uStats (x : UCx) (k : Scalars) : UM Unit :=
  if !x.q.precond then pure ()
  else do
    let g := chunks x.m.cols ((← uGrads x).map (fun e => fmul e k.gs))
    let bl ← uBlocks x
    uEach bl (fun b => do
      let st ← uMat x.p b.addr b.size
      uWr x.p b.addr (f32Bytes (newStat (sumKey x.h 3) x.q x.m b st g).flatten))

/-- Refresh one block: whether a root was installed, and the cycles it took (R400). -/
def uRefreshOne (x : UCx) (i : Nat) (b : PBlock) : UM (Bool × Nat) := do
  let st ← uMat x.p b.addr b.size
  let o := refreshRoot (sumKey x.h 16) x.q b.size st
  let its := o.2
  let s ← uGet
  let mc := fun a n => moveCycles s x.p x.d a n
  let cyc := phaseCycles (ceilDiv ((if x.q.proot = 2 then 3 else 4) * its * b.size ^ 3) 256) (mc b.addr b.matBytes)
    (if o.1.isSome then mc (b.addr + b.matBytes) b.matBytes else 0)
  match o.1 with
  | none => do uDo (fun s => s.event 0x0609 (dieCode x.d) i); pure (false, cyc)
  | some r => do
    uWr x.p (b.addr + b.matBytes * (1 + (b.rsel + 1) % 2)) (f32Bytes r.flatten)
    let e := x.m.pbase + 32 * i
    let l ← uRd x.p e 8
    uWr x.p e (patch l 3 [BitVec.ofNat 8 (byteAt l 3 ^^^ 1)])
    uWr x.p (e + 0x10) (leBytes 8 (x.h.step + 1))
    uDo (fun s => (s.event 0x0608 (dieCode x.d) its).modUpd x.d (fun u => { u with rooted := true }))
    pure (true, cyc)

/-- The refresh that is due (R391): whether a root was installed, and its cycles. -/
def uRefresh (x : UCx) : UM (Bool × Nat) := do
  if x.q.precond && x.q.prefresh ≠ 0 && (x.h.step + 1) % x.q.prefresh = 0 then
    let s ← uGet
    if !(s.updOf x.d).scrVal then
      uDo (fun s => s.event 0x060D (dieCode x.d) x.h.id)
      pure (false, 0)
    else
      uDo (fun s => s.modUpd x.d (fun u => { u with state := .refresh }))
      let bl ← uBlocks x
      let done ← uMap bl.zipIdx (fun e => uRefreshOne x e.2 e.1)
      pure (done.any (·.1), (done.map (·.2)).sum)
  else pure (false, 0)

/-! ## UPDATE_PASS2 (R373) -/

/-- Everything before the flip, and the flip: the scalars and the non-finite basis. -/
def uBefore (x : UCx) (j : UpdJob) : UM (Scalars × Nat) := do
  let (basis, nonfin) ← uBasis x j
  let k := scalarsOf x.q x.m x.h.lscale x.h.step basis nonfin
  uHead x basis nonfin k
  if k.skip then
    uSkipCopy x
    uFlip x x.h.set k.lsnext
  else
    let s ← uGet
    if setHeld s x.spare x.m.setbytes then uFail (.wait false)
    else
      uDo (fun s => s.modUpd x.d (fun u => { u with ctx := tblOf (ctxWords x k) }))
      uPrecond x k
      let amax ← if x.rule = 0 then uProgram x k else uFixed x k
      uConvert x amax
      uFlip x x.spare k.lsnext
      uDo (fun s => s.modUpd x.d (fun u => { u with spAddr := tset 0 u.spAddr x.m.cls (BitVec.ofNat 48 x.h.set) }))
  pure (k, nonfin)

/-- Everything after it: whether a root was installed, and the cycles of the refresh. -/
def uAfter (x : UCx) (k : Scalars) : UM (Bool × Nat) := do
  uDo (fun s => s.modUpd x.d (fun u => { u with state := .post, rooted := false }))
  (if k.skip then pure () else uStats x k)
  uZeroGrads x.p x.h x.m x.h.step
  if k.skip then pure (false, 0) else uRefresh x

/-- Cycles of the preconditioner (R400): the blocks' products, the gradient and the roots read, and g′ written. -/
def precondCycles (s : State) (x : UCx) : Nat :=
  let m := x.m
  let mc := fun a n => moveCycles s x.p x.d a n
  if !x.q.precond then 0
  else
    let bl := match x.p with | some p => (readBlocks s p m).getD [] | none => []
    phaseCycles (ceilDiv ((bl.map (fun b => b.size ^ 2 * (if b.axis = 0 then m.cols else m.rows))).sum) 256)
      (mc x.grad (m.gBytes * m.n) + (bl.map (fun b => mc b.addr b.matBytes)).sum) (mc x.spare (4 * m.n))

/-- Cycles of the statistics update (R390): the gradient and the statistics read, and the statistics written. R400 gives it no compute cycles. -/
def statsCycles (s : State) (x : UCx) : Nat :=
  let m := x.m
  let mc := fun a n => moveCycles s x.p x.d a n
  if !x.q.precond then 0
  else
    let bl := match x.p with | some p => (readBlocks s p m).getD [] | none => []
    let mats := (bl.map (fun b => mc b.addr b.matBytes)).sum
    phaseCycles 0 (mc x.grad (m.gBytes * m.n) + mats) mats

/-- Engine cycles of the preconditioner, pass 2, conversion, flip, statistics and zeroing (R400). -/
def pass2Cycles (s : State) (x : UCx) (k : Scalars) : Nat :=
  let m := x.m
  let mc := fun a n => moveCycles s x.p x.d a n
  let per := match x.rule with | 1 | 4 => 6 | 2 => 12 | 3 => 14 | _ => 0
  let p2 := if x.rule = 0 then (s.updOf x.d).issued else per * lanesOf m
  let img := m.pieces * (if m.dual then 2 else 1)
  let zc := mc x.grad (m.ties * m.sG)
  if k.skip then 1200 + mc x.spare m.wbytes + zc
  else precondCycles s x + phaseCycles p2 (mc x.grad (m.gBytes * m.n) + mc x.h.set m.setbytes) (mc x.spare m.setbytes)
    + phaseCycles (2 * img * lanesOf m) (mc x.spare (4 * m.n)) (mc (shadowBuf x.h m) m.wbytes) + 1200 + statsCycles s x + zc

/-- The step of the job is to be skipped (R381). -/
def uSkips (x : UCx) (j : UpdJob) (s : State) : Bool := match uBasis x j s with | (.ok (_, nf), _) => decide (0 < nf) | _ => false

/-- The work after the flip (R394); while an access of it waits, the flip stands. -/
def State.updPost (s : State) (f : Flipped) (j : UpdJob) : State :=
  let d := f.x.d
  match uAfter f.x f.k s with
  | (.error (.wait l), g) =>
    (s.modUpd d (fun u => { u with parked := u.parked.map (fun y => if y.stream = j.stream ∧ y.seq = j.seq then { y with flip := some f } else y) })).updWaits
      g d j.stream j.seq l
  | (.error (.fail st), s1) => s1.updCut f j st (s1.updOf d).rooted
  | (.ok root, s1) => s1.updDone { f with cycles := f.cycles + root.2 } j .ok root.1 false

/-- The engine shows pass 2 of this job. -/
def State.atPass2 (s : State) (d : Nat) (j : UpdJob) : State :=
  s.modUpd d (fun u => { u with state := .pass2, curStream := BitVec.ofNat 14 j.stream, part := some j.part })

/-- Pass 2 of job `j`; a write of its pass 1 may have failed at a loss of the host (R397). -/
def State.updPass2 (s : State) (d : Nat) (j : UpdJob) (c : Cmd) : State :=
  match j.flip with
  | some f => if c.lost then s.updCut f j .hostLost false else s.updPost f j
  | none =>
    if c.lost then s.updFail d j .hostLost 0 else
    match uShard j.shard s with
    | (.error (.wait l), _) => s.updWaits (s.atPass2 d j) d j.stream j.seq l
    | (.error (.fail st), s1) => s1.updFail d j st 0
    | (.ok (h, m), s0) =>
      match uRd none (paramsAt c) 128 s0 with
      | (.error (.wait l), _) => s.updWaits (s.atPass2 d j) d j.stream j.seq l
      | (.error (.fail st), s1) => s1.updFail d j st 0
      | (.ok pl, s1) =>
        let x : UCx := { d := d, p := some j.part, h := h, m := m, q := paramsOf pl, c := c, spare := (tget 0#48 (s.updOf d).spAddr m.cls).toNat }
        let s2 := (s1.atPass2 d j).modUpd d (fun u => { u with curShard := BitVec.ofNat 32 h.id })
        match uBefore x j s2 with
        | (.error (.wait l), f) =>
          (if setHeld s x.spare m.setbytes && !(uSkips x j s2) then s.noteHold d j.stream j.seq else s).updWaits f d j.stream j.seq l
        | (.error (.fail .stopped), s3) => s3.updInterrupt d j .stopped
        | (.error (.fail st), s3) => s3.updFail d j st (if x.rule = 0 then Status.stopped.code else 0)
        | (.ok (k, nf), s3) => s3.updPost { x := x, k := k, nonfin := nf, cycles := j.cycles + pass2Cycles s3 x k } j

def execUpdatePass2 (d : Nat) (s : State) : Host.Outcome State Fault Refusal :=
  ok (s.live (fun s =>
    if d < 4 then
      match updRunning (s.updOf d) with
      | none => s
      | some j => match cmdOf s j.stream j.seq with | some c => (s.onBehalf j.stream (some d) (fun s => s.updPass2 d j c)).claimSent j.stream j.seq | none => s
    else s))

/-! ## TIE_SUM (12 R361) -/

def uTieSum (p : Option Nat) (a : Nat) : UM (Shard × ShMap) := do
  let (h, m) ← uShard a
  uPending p h m
  let b := h.step % Max.max 1 m.ngrad
  let classB := decide (m.gclass = 1)
  let slots ← uMap (List.range m.ties) (fun j => do
    let l ← uRd p (m.gradSlot b j) (m.gBytes * m.n)
    pure ((numsOf m.gBytes l).map (gradVal classB)))
  let sum := slots.tail.foldl (fun s x => (s.zip x).map (fun e => fadd e.1 e.2)) (slots.headD [])
  uWr p (m.gradSlot b 0) (sum.flatMap (fun v => if classB then leBytes 2 (narrow fmtFp16 v) else leBytes 4 v.toNat))
  uEach (List.range (m.ties - 1)) (fun j => uZero p (m.gradSlot b (j + 1)) m.sG)
  uFlags h 0 1
  pure (h, m)

/-- Carry out a whole command on its engine; it ends with the status and result `fin` gives, or it waits as `waits` notes. -/
def State.wholeUpd {α : Type} (s : State) (n : Nat) (c : Cmd) (w : UM α) (waits : State → State) (bad : State → Status → State)
    (fin : State → α → State) : State :=
  let d := engineOf c.bytes % 4
  if !engineTurn s d n c then s.noteCap d n c
  else
    match w (s.beginUpd d n c .other) with
    | (.error (.wait l), f) => (waits ((s.advanceTo c.tick).capDone d)).updWaits f d n c.seq l
    | (.error (.fail st), s1) => bad (s1.idleUpd d) st
    | (.ok r, s1) => fin (s1.idleUpd d) r

def State.tieSum (s : State) (n : Nat) (c : Cmd) : State :=
  let p := (s.stream n).part.toNat
  s.wholeUpd n c (uTieSum (some p) (bytesN c.bytes 8 8)) id (fun s st => s.endCmd n c.seq st 0 0)
    (fun s r => (s.endCmd n c.seq .ok 0 (BitVec.ofNat 64 r.2.ties)).event 0x0625 p r.2.ties)

def execTieSum (stream : Nat) (s : State) : Host.Outcome State Fault Refusal :=
  ok (s.live (fun s => match nextOf s stream 0xB with | some c => (s.onBehalf stream (some (engineOf c.bytes % 4)) (fun s => s.tieSum stream c)).claimSent stream c.seq | none => s))

/-! ## EXPORT (12 R363, R364) -/

/-- The places of a part in the module: address and length of each piece, in image order. -/
def partPlaces (h : Shard) (m : ShMap) (bl : List PBlock) (ver step bit : Nat) : List (Nat × Nat) :=
  match bit with
  | 0 => [(workBuf h m ver, m.wbytes)]
  | 1 => [(h.set, m.sM)]
  | 2 => [(h.set + m.sM, m.s1)]
  | 3 => [(h.set + m.sM + m.s1, m.s2)]
  | 4 => (m.pbase, 32 * m.nblk) :: bl.map (fun b => (b.addr, 3 * b.matBytes))
  | _ => [(m.gradSlot (step % Max.max 1 m.ngrad) 0, m.ties * m.sG)]

/-- Copy pieces to consecutive places. -/
def uGather (p : Option Nat) : List (Nat × Nat) → Nat → UM Unit
  | [], _ => pure ()
  | (a, n) :: l, dst => do uCopy p a dst n; uGather p l (dst + n)

/-- Copy consecutive bytes out to pieces. -/
def uScatter (p : Option Nat) : List (Nat × Nat) → Nat → UM Unit
  | [], _ => pure ()
  | (a, n) :: l, src => do uCopy p src a n; uScatter p l (src + n)

/-- Write the image: its length, and whether STEP advanced by two or more meanwhile. -/
def uExport (d n : Nat) (p : Option Nat) (c : Cmd) : UM (Nat × Bool × Shard) := do
  let a := bytesN c.bytes 8 8
  let dst := bytesN c.bytes 0x10 8
  let parts := byteAt c.bytes 0x20
  let hl ← uRd none a 64
  let h := shardOf a hl
  let ml ← uRd none h.map 128
  let m := mapOf ml
  let hold := parts.testBit 1 || parts.testBit 2 || parts.testBit 3
  (if hold then uDo (fun s => s.modUpd d (fun u => { u with holds := u.holds.filter (fun h => holdOpen s h && h.2.1 ≠ c.adm) ++ [(n, c.adm, h.set, m.setbytes)] })) else pure ())
  let bl ← if parts.testBit 4 then uBlocks { d := d, p := p, h := h, m := m, q := paramsOf [], c := c, spare := 0 } else pure []
  let ver := (versionNamed h m (byteAt c.bytes 0x21)).getD h.step
  let lay := imageLayout m bl parts
  uWr p dst (hl ++ ml ++ [BitVec.ofNat 8 parts] ++ List.replicate 7 0 ++ leBytes 8 (if parts.testBit 0 then ver else 0) ++ leBytes 8 lay.2
    ++ List.replicate 40 0)
  uEach lay.1 (fun e => uGather p (partPlaces h m bl ver h.step e.1) (dst + e.2.1))
  let now := leNat (← uRd none (a + 8) 8)
  pure (lay.2, decide (h.step + 2 ≤ now), h)

def State.exportRun (s : State) (n : Nat) (c : Cmd) : State :=
  let p := (s.stream n).part.toNat
  s.wholeUpd n c (uExport (engineOf c.bytes % 4) n (some p) c) id (fun s st => s.endCmd n c.seq st 0 0)
    (fun s r =>
      if r.2.1 then (s.endCmd n c.seq .stepSkew 0 (BitVec.ofNat 64 r.1)).event 0x0623 p r.2.2.id
      else s.endCmd n c.seq .ok 0 (BitVec.ofNat 64 r.1))

def execExportShard (stream : Nat) (s : State) : Host.Outcome State Fault Refusal :=
  ok (s.live (fun s => match nextOf s stream 4 with | some c => (s.onBehalf stream (some (engineOf c.bytes % 4)) (fun s => s.exportRun stream c)).claimSent stream c.seq | none => s))

/-! ## IMPORT (12 R365, R366) -/

/-- Before the header write: header and map of the shard, the image's head, and the new state set. -/
def uImport (d : Nat) (p : Option Nat) (c : Cmd) : UM (Shard × ShMap × List Byte × Nat) := do
  let a := bytesN c.bytes 8 8
  let src := bytesN c.bytes 0x10 8
  let parts := byteAt c.bytes 0x20
  let (h, m) ← uShard a
  let im ← uRd p src 0x100
  let new := bytesN im 8 8
  let x : UCx := { d := d, p := p, h := h, m := m, q := paramsOf [], c := c, spare := 0 }
  let bl ← if (byteAt im 0xC0).testBit 4 then uBlocks x else pure []
  let lay := imageLayout m bl (byteAt im 0xC0)
  let off := fun bit => (lay.1.find? (fun e => e.1 = bit)).map (fun e => src + e.2.1)
  let part := fun bit (f : Nat → UM Unit) => match off bit with | some o => if parts.testBit bit then f o else pure () | none => pure ()
  (if h.frozen then pure () else uPending p h m)
  let buf := if h.frozen then m.wbase else shadowBuf h m
  part 0 (fun o => do
    uWr p buf allOnes8
    uCopy p (o + 8) (buf + 8) (m.wbytes - 8)
    uWr p buf (leBytes 8 new))
  if h.frozen then pure (h, m, im, 0)
  else
    let s ← uGet
    let spare := (tget 0#48 (s.updOf d).spAddr m.cls).toNat
    if setHeld s spare m.setbytes then uFail (.wait false)
    else
      uEach [(1, 0, m.sM), (2, m.sM, m.s1), (3, m.sM + m.s1, m.s2)] (fun e => do
        let from_ := match off e.1 with | some o => if parts.testBit e.1 then o else h.set + e.2.1 | none => h.set + e.2.1
        uCopy p from_ (spare + e.2.1) e.2.2)
      part 4 (fun o => if !hasPart h m 4 then pure () else do
        uEach (List.range m.nblk) (fun i => do
          let l ← uRd p (o + 32 * i) 32
          uWr p (m.pbase + 32 * i) (l.take 8)
          uWr p (m.pbase + 32 * i + 0x10) (l.drop 0x10))
        uScatter p (bl.map (fun b => (b.addr, 3 * b.matBytes))) (o + 32 * m.nblk))
      part 5 (fun o => uCopy p o (m.gradSlot (new % Max.max 1 m.ngrad) 0) (m.ties * m.sG))
      pure (h, m, im, spare)

/-- The header after an IMPORT (R365). -/
def importedHeader (h : Shard) (m : ShMap) (l im : List Byte) (spare : Nat) : List Byte :=
  let s := bytesN im 8 8
  let l1 := patch (patch l 8 (leBytes 8 s)) 0x20 (leBytes 8 s)
  if h.frozen then l1
  else
    let k := m.nver + 1
    let rot := ((h.step + 1 + h.rot) % k + k - s % k) % k
    patch (patch (patch l1 0x10 (leBytes 8 spare)) 0x28 ((im.drop 0x28).take 4)) 0x2F [BitVec.ofNat 8 (byteAt im 0x2F % 2), BitVec.ofNat 8 rot]

def uImportAll (d : Nat) (p : Option Nat) (c : Cmd) : UM Nat := do
  let (h, m, im, spare) ← uImport d p c
  let l ← uRd none h.addr 64
  uWr none h.addr (importedHeader h m l im spare)
  (if h.frozen then pure ()
   else uDo (fun s => s.modUpd d (fun u => { u with spAddr := tset 0 u.spAddr m.cls (BitVec.ofNat 48 h.set) })))
  pure (bytesN im 0xD0 8)

/-- An IMPORT would write into a state set that an EXPORT holds. -/
def importHeld (s : State) (d : Nat) (c : Cmd) : Bool :=
  match uShard (bytesN c.bytes 8 8) s with
  | (.ok (h, m), _) => !h.frozen && setHeld s (tget 0#48 (s.updOf d).spAddr m.cls).toNat m.setbytes
  | _ => false

def State.importRun (s : State) (n : Nat) (c : Cmd) : State :=
  let p := (s.stream n).part.toNat
  let d := engineOf c.bytes % 4
  s.wholeUpd n c (uImportAll d (some p) c)
    (fun s => if importHeld s d c then s.noteHold d n c.seq else s)
    (fun s1 st => (s1.endCmd n c.seq st 0x0F 0).event 0x0624 p (s.rdN (bytesN c.bytes 8 8 + 4) 4))
    (fun s r => s.endCmd n c.seq .ok 0 (BitVec.ofNat 64 r))

def execImportShard (stream : Nat) (s : State) : Host.Outcome State Fault Refusal :=
  ok (s.live (fun s => match nextOf s stream 5 with | some c => (s.onBehalf stream (some (engineOf c.bytes % 4)) (fun s => s.importRun stream c)).claimSent stream c.seq | none => s))

end Sys2Proof.Machine
end

