-- ==== Sys2Proof/Machine/Cut.lean ====
section
/-! DEFINITION. Frames cut short, commands ended before their time, and partitions that stop: halts, ledger stops and
PARTITION_DOWN (04 R114; 06 R179; 07 R214, R224, R226; 16 R445). -/
namespace Sys2Proof.Machine

/-! ## A frame cut short (04 R114) -/

/-- A QPUT of a frame cut short gives back the credits it has taken and not announced. -/
def State.untake (s : State) (c : Nat) (x : SWord) : State :=
  match x.w, partOfCore s c with
  | .syn 2 f, some p => if x.got then s.modQueue p f.qid.toNat (fun q =>
      { q with credits := q.credits + f.val.toNat, annFly := q.annFly - f.val.toNat }) else s
  | _, _ => s

/-- The oldest drain completes if it can; one that waits on a page stays in flight, behind the others (04 R114). -/
def State.finishDrain (s : State) (c : Nat) : State :=
  let n := (s.core c).drains.length
  let s1 := s.drainDone c
  match (s1.core c).drains with
  | m :: rest => if rest.length + 1 < n then s1 else s1.modCore c (fun k => { k with drains := rest ++ [m] })
  | [] => s1

/-- Drains and conversions in flight complete; fetches in flight are abandoned, and their staging buffers hold a mixture; nothing more is
started. `drop` is set where the queue operations on their way are discarded with their queues. -/
def State.cutCore (s : State) (c : Nat) (drop : Bool) : State :=
  let s1 := (s.core c).drains.foldl (fun s _ => s.finishDrain c) s
  let s2 := (s1.core c).fetches.foldl (fun s m => s.abandonFetch c m) s1
  let s3 := (s2.core c).compute.foldl (fun s x => s.untake c x) s2
  (s3.convDone c).modCore c (fun k =>
    { k with compute := [], movement := [], fetches := [], landed := [], feeds := [], kept := [], cbarAt := none, fullAt := none,
             sent := if drop then [] else k.sent })

def State.cutCluster (s : State) (g : Nat) (drop : Bool) : State :=
  (s.each (List.range 16) (fun s i => s.cutCore (16 * g + i) drop)).modCluster g (fun k => { k with frameOn := false })

/-! ## Commands -/

/-- RESULT of a RUN (09 R288). -/
def runResult (c : Cmd) (started : Nat) : W64 := BitVec.ofNat 64 (Min.min c.o (2 ^ 32 - 1) * 2 ^ 32 + started % 2 ^ 32)

/-- The slot a RUN is bound to. -/
def slotOf (s : State) (p n : Nat) (seq : BitVec 16) : Option SlotUse := (s.part p).slots.find? (fun u => u.stream = n && u.seq = seq)

/-- Streams of a partition. -/
def streamNos (s : State) (p : Nat) : List Nat :=
  (s.stm.streams.filter (fun e => e.2.inRange && decide (e.2.part.toNat = p))).map (·.1)

/-- The module cause of an interrupted UPDATE replaces its status (13 R397). -/
def interrupts (st : Status) : Bool := st == .overrun || st == .partitionDown || st == .conservation || st == .hostLost

/-- The command leaves the queue of every engine. -/
def State.dropQueued (s0 : State) (n : Nat) (seq : BitVec 16) : State :=
  let s := s0.waitOver n seq
  { s with
    upd := s.upd.map (fun e => (e.1, { e.2 with queue := e.2.queue.filter (fun j => !(j.stream = n && j.seq = seq)),
                                                parked := e.2.parked.filter (fun j => !(j.stream = n && j.seq = seq)) })),
    ing := s.ing.map (fun e => (e.1, { e.2 with queue := e.2.queue.filter (fun j => !(j.stream = n && j.seq = seq)) })) }

/-- A DMA command makes no further access: it leaves its channel's queue, and keeps its channel and buffer if it runs (11 R334). -/
def State.dropDma (s : State) (n : Nat) (seq : BitVec 16) : State :=
  { s with chans := s.chans.map (fun e => (e.1, { e.2 with
      queue := e.2.queue.filter (fun r => !(r.stream = n && r.seq = seq)),
      run := e.2.run.map (fun r => if r.stream = n ∧ r.seq = seq then { r with finished := true, cur := none, failAt := none, staged := [], olds := [] } else r) })) }

/-- RESULT of a running DMA command (11 R336). -/
def dmaResult (s : State) (n : Nat) (seq : BitVec 16) : W64 :=
  match s.chans.findSome? (fun e => e.2.run.bind (fun r => if r.stream = n ∧ r.seq = seq then some r else none)) with
  | some r => BitVec.ofNat 64 (r.pos * 2 ^ 55 + r.bytes)
  | none => 0

/-- The INGEST of a command, running or queued, and its engine. -/
def ingOfCmd (s : State) (n : Nat) (seq : BitVec 16) : Option (Nat × IngJob) :=
  [0, 1, 2, 3].findSome? (fun e =>
    let g := s.ingOf e
    ((g.run.toList ++ g.queue).find? (fun j => j.stream = n && j.seq = seq)).map (fun j => (e, j)))

/-- An INGEST ends early; a queued one, which has no slot filled, too (14 R418). -/
def State.ingCut (s : State) (n : Nat) (c : Cmd) (st : Status) : State :=
  match ingOfCmd s n c.seq with
  | none => s
  | some (e, j) =>
    if (s.ingOf e).run = some j then s.ingEarly e j st
    else
      let s1 := if (j.held || ingHeld s j) && decide (j.tick < s.time) then s.event 0x0705 e ((s.time - j.tick) / 1200) else s
      (((s1.reportNow e j.cutShort).ingCount e j.cutShort).event 0x0707 e st.code).noteIngHeld j

/-- A command whose work has already ended with `e` completes now with `st`. The first cause decides for DMA (11 R334), for an IMPORT
that ended before its header write (12 R366) and for an INGEST whose write failed (14 R418); an UPDATE not committed completes with NOT_COMMITTED but for a program stop (13 R397). -/
def State.endEnded (s : State) (c : Cmd) (st e : Status) (r : BitVec 8) (v : W64) : (Status × BitVec 8 × W64) × State :=
  let keep : Bool := match opOf c with
    | 2 | 5 | 0xC => e != .ok
    | 3 => e == .notCommitted || e == .busError || e == .badOpcode
    | _ => false
  if keep then ((e, r, v), s)
  else if opOf c = 3 && interrupts st && !bitAt v.toNat 63 then
    ((.notCommitted, BitVec.ofNat 8 st.code, v), s.event 0x0603 (dieCode (engineOf c.bytes % 4)) st.code)
  else ((st, 0, v), s)

/-- What the unit of a command does as the command ends now with `st`; its status, reason and result. -/
def State.endUnit (s : State) (n p : Nat) (c : Cmd) (st : Status) : (Status × BitVec 8 × W64) × State :=
  match c.phase with
  | .ended e r v => s.endEnded c st e r v
  | _ =>
    match opOf c with
    | 1 => ((st, 0, runResult c (match slotOf s p n c.seq with | some u => u.started | none => 0)), s)
    | 2 => ((st, 0, dmaResult s n c.seq), s.dropDma n c.seq)
    | 3 =>
      let d := engineOf c.bytes % 4
      let j := ((s.updOf d).parked.find? (fun j => j.stream = n && j.seq = c.seq)).getD (jobOf s n c)
      match j.flip with
      | some f => ((st, 0, flipResult s j f.k.skip false true), ((s.event 0x060A (dieCode d) f.x.h.id).updCounted f).dropQueued n c.seq)
      | none =>
        let s1 := (s.dropQueued n c.seq).event 0x0603 (dieCode d) st.code
        let v := updResult s j
        ((if interrupts st then (.notCommitted, BitVec.ofNat 8 st.code, v) else (st, 0, v)), s1)
    | 5 => ((st, 0x0F, 0), (s.dropQueued n c.seq).event 0x0624 p (s.rdN (bytesN c.bytes 8 8 + 4) 4))
    | 6 => ((st, 0, hintResult c), s)
    | 0xC =>
      let v := match ingOfCmd s n c.seq with | some (_, j) => j.cutShort.result | none => 0
      ((st, 0, v), (s.ingCut n c st).dropQueued n c.seq)
    | _ => ((st, 0, 0), s.dropQueued n c.seq)

/-- The command completes at this tick with this status, whatever its unit was doing. -/
def State.endNow (s : State) (n p : Nat) (c : Cmd) (st : Status) (tick : Nat) : State :=
  let r := s.endUnit n p c st
  (r.2.finishCmd n c.seq r.1.1 r.1.2.1 r.1.2.2 tick).modCmd n c.seq (fun c => { c with hWait := [] })

/-- End commands of a partition that `which` names; a LOAD_BITSTREAM is never among them (09 R295). -/
def State.endAll (s : State) (p : Nat) (st : Status) (tick : Nat) (which : Nat → Cmd → Bool) : State :=
  s.each (streamNos s p) (fun s n =>
    ((s.stream n).cmds.filter (fun c => c.open && opOf c ≠ 0xA && which n c)).foldl (fun s c => s.endNow n p c st tick) s)

/-- Return what the completed commands of a partition hold, all but their stream credits (06 R179). -/
def State.returnAll (s : State) (p : Nat) : State :=
  s.each (streamNos s p) (fun s n =>
    ((s.stream n).cmds.filter (fun c => !c.open)).foldl (fun s c =>
      (s.releaseHoldings n p c).modCmd n c.seq (fun c => { c with pins := [], refs := 0 })) s)

/-! ## A partition stops -/

/-- Inter-stage queues at their declared totals, nothing announced (06 R179, R183). -/
def Queue.reset (x : Queue) : Queue := { x with credits := x.c.toNat, announced := 0, held := 0, annFly := 0, crdFly := 0 }

/-- What is left of a verdict when the partition stops: a HOLD still passes its tick. -/
def heldOnly : Option Verdict → Option Verdict
  | some (.hold l) => some (.hold l)
  | _ => none

/-- The running frame is cut short and the partition starts no more; streams enter HALTED for `cause` (06 R179; 07 R226; 16 R445). -/
def State.stopPart (s : State) (p : Nat) (st : Status) (cause tick : Nat) (after : PState) (drop : Bool) : State :=
  let s1 := (s.part p).clusters.foldl (fun s g => s.cutCluster g drop) s
  let s2 := s1.endAll p st tick (fun _ _ => true)
  let s3 := if drop then (s2.returnAll p).modPart p (fun q => { q with queues := q.queues.map (fun e => (e.1, e.2.reset)) }) else s2
  let s4 := s3.modPart p (fun q =>
    { q with state := after, running := false, verdict := heldOnly q.verdict, doomed := [], resumeAt := none })
  (s4.each (streamNos s4 p) (fun s n => s.haltStream n cause)).each (streamNos s4 p) State.records

/-- A halt (06 R179). -/
def State.haltPart (s : State) (p : Nat) (st : Status) (tick : Nat) : State :=
  (s.stopPart p st 2 tick .halted true).modPart p (fun q => { q with halts := q.halts + 1 })

/-- A failed sum of pool `k` (16 R464, R466). -/
def State.mismatch (s : State) (k src : Nat) (diff : Int) : State :=
  (s.modAud (fun a =>
    { a with mismatches := satAdd a.mismatches 1, lastPool := BitVec.ofNat 4 k, lastWhere := BitVec.ofNat 8 src })).event 0x0020 src diff.natAbs

/-- CONS, POOL and the difference of a failed sum (16 R445, R464). -/
def State.consMarks (s : State) (p k : Nat) (diff : Int) : State :=
  s.modPart p (fun q => { q with cons := true, consPool := BitVec.ofNat 4 k, diff := BitVec.ofInt 64 diff })

/-- A ledger stop (16 R445): pool `k` is off by `diff`. A partition that is DOWN has nothing left to stop and stays DOWN; any other cannot admit
frames from the first of its ticks at or after `tick` on (R450). -/
def State.consPart (s : State) (p k : Nat) (diff : Int) (tick : Nat) : State :=
  if (s.part p).state == .down then s.consMarks p k diff
  else
    let was := b2n ((s.part p).state != .halted)
    let from_ := Max.max tick (s.part p).next
    ((s.stopPart p .conservation 2 tick .halted true).modPart p (fun q =>
      { q with halts := q.halts + BitVec.ofNat 32 was, downFrom := match q.downFrom with | some t => some t | none => some from_ })).consMarks p k diff

/-- PARTITION_DOWN (07 R226). -/
def State.downPart (s : State) (p tick : Nat) : State :=
  let s1 := (s.part p).repairs.foldl (fun s r =>
    match r.spare with
    | some x => s.modCluster x (fun k => if k.state == .loading then { k with state := .spare } else k)
    | none => s) s
  (s1.stopPart p .partitionDown 3 tick .down false).modPart p (fun q =>
    { q with goDown := false, repairs := [], downFrom := match q.downFrom with | some t => some t | none => some tick })

end Sys2Proof.Machine
end

