-- ==== Sys2Proof/Machine/Admit.lean ====
section
/-! DEFINITION. Admission at a tick (06 R171 to R177; 09 R286 to R294). -/
namespace Sys2Proof.Machine

/-! ## The command at a stream's head (06 R172) -/

/-- Commands from HEAD on that a doorbell seen before the admission cut covers. -/
def coveredAtCut (x : Stream) : Nat :=
  let sz := 2 ^ x.clog2
  let from_ := fun (t : BitVec 16) => (t.toNat + sz - x.head.toNat) % sz
  Min.min (from_ x.cutTail) (from_ x.tail)

/-- What becomes of the command at a stream's head at this tick. -/
inductive Head where
  /-- No command is considered, or a barrier does not hold. -/
  | waits
  /-- Held back, with what is recorded: code, source, value. -/
  | held (code source value : Nat)
  /-- Admitted and refused (R174). -/
  | refused (st : Status) (reason : Nat)
  /-- Admitted: the concurrency slot of a RUN; the value a WAIT read, and whether it timed out. -/
  | admitted (slot : Option Nat) (val : Nat) (timedOut : Bool)
deriving DecidableEq, Repr

/-- The lowest free concurrency slot that the program lists (09 R288). -/
def freeConc (s : State) (p : Nat) (g : Program) : Option Nat :=
  (List.range 64).find? (fun k => g.slots.toNat.testBit k && !(s.part p).slots.any (fun u => u.slot = k))

/-- A WAIT that passed its checks (09 R294). -/
def waitHead (s : State) (x : Stream) (b : List Byte) : Head :=
  let v := s.rdN (bytesN b 8 8) 8
  let t := bytesN b 0x18 2
  if bytesN b 0x10 8 ≤ v then .admitted none v false
  else if t ≠ 0 ∧ t ≤ x.waited.getD 0 then .admitted none v true
  else .waits

/-- Judge the head of stream `n` of partition `p` (06 R172; 09 R286, R287). -/
def headOf (s : State) (p n : Nat) : Head :=
  let x := s.stream n
  if coveredAtCut x = 0 || 0 < x.heldUnacked then .waits
  else
    match x.fetched with
    | [] => .held 0x0102 p n
    | f :: _ =>
      let b := f.bytes
      let op := byteAt b 0
      if x.limit ≤ x.cmds.length then .held 0x0104 p n
      else if !canHold s n then .held 0x0308 n ((s.stm.streams.filter (fun e => decide (0 < e.2.cached) && heldEntry e.2)).length)
      else if (op = 7 ∨ op = 8) ∧ x.cmds ≠ [] then .waits
      else
        match admitCheck s n p f with
        | some (st, r) => if checkWaits s p b (st, r) then .waits else .refused st r
        | none =>
          match op with
          | 1 =>
            match programOf s p (byteAt b 8) with
            | none => .refused .bound 0
            | some g => match freeConc s p g with
              | some k => .admitted (some k) 0 false
              | none => .held 0x0103 p g.prog
          | 9 => waitHead s x b
          | _ => .admitted none 0 false

/-! ## Admitting it (06 R171, R174, R176) -/

/-- RESULT of a command refused at admission: a RUN's overruns (09 R288) and an UPDATE's header STEP (13 R399). -/
def refusedResult (s : State) (c : Cmd) : W64 :=
  match opOf c with
  | 1 => runResult c 0
  | 3 => match readShard s (bytesN c.bytes 8 8) with | .ok (h, _) => BitVec.ofNat 64 (h.step % 2 ^ 32) | .error _ => 0
  | _ => 0

/-- Take the head command of a stream: HEAD, NSEQ and CPH advance (09 R283), one credit is held (R279). -/
def State.takeHead (s : State) (p n tick : Nat) (f : Fetched) (val : Nat) (late : Bool) : Cmd × State :=
  let x := s.stream n
  let c : Cmd := { bytes := f.bytes, seq := x.nseq, aframe := BitVec.ofNat 32 ((s.part p).frame.toNat + 1), tick := tick,
                   adm := s.stm.adms, descs := f.descs, o := f.o, waitVal := BitVec.ofNat 64 val, timedOut := late }
  let last := decide (x.head.toNat + 1 = 2 ^ x.clog2)
  let s1 := s.modStream n (fun x =>
    { x with head := if last then 0 else x.head + 1, cph := x.cph != last, nseq := x.nseq + 1, fetched := x.fetched.tail,
             waited := if x.fetched.tail.isEmpty then none else some 0, cmds := x.cmds ++ [c], state := .running })
  let s2 := (s1.modStm (fun m => { m with adms := m.adms + 1 })).modPart p (fun q => { q with credFree := q.credFree - 1 })
  (c, (s2.useEntry n).writeBack n |>.writeHead n)

/-- Bind a RUN to its slot with its reduction slots and page references (06 R176; 08 R253; 16 R441). -/
def State.bindRun (s : State) (p n : Nat) (c : Cmd) (g : Program) (k : Nat) : State :=
  (s.modPart p (fun q =>
    { q with slots := q.slots ++ [{ slot := k, stream := n, seq := c.seq, prog := g.prog, depth := g.depth, k := (s.stream n).k.toNat }],
             redFree := q.redFree - 4, pageFree := q.pageFree - g.footprint })).modCmd n c.seq (fun c => { c with refs := g.footprint })

/-- Hand an admitted command to the unit that orders by admission. -/
def State.routeCmd (s : State) (p n : Nat) (c : Cmd) (slot : Option Nat) : State :=
  match opOf c, slot with
  | 1, some k => match programOf s p (byteAt c.bytes 8) with | some g => s.bindRun p n c g k | none => s
  | 2, _ => s.queueDma n c
  | 3, _ | 4, _ | 5, _ | 0xB, _ => s.enqueueUpd n c
  | 0xC, _ => s.enqueueIng n c
  | _, _ => s

/-- Consider the head of stream `n`: admitted or not, and the state after. -/
def State.admitHead (s : State) (p n tick : Nat) : Bool × State :=
  match headOf s p n, (s.stream n).fetched with
  | .held code src v, _ => (false, s.event code src v)
  | .refused st r, f :: _ =>
    let (c, s1) := s.takeHead p n tick f 0 false
    let s2 := s1.refusalEvents n p f.bytes (st, r)
    (true, s2.modCmd n c.seq (fun c => c.finish st (BitVec.ofNat 8 r) (refusedResult s c) tick))
  | .admitted slot v late, f :: _ =>
    let (c, s1) := s.takeHead p n tick f v late
    (true, s1.routeCmd p n c slot)
  | _, _ => (false, s)

/-- Commands of one stream in ring order, as many as R172 allows; `room` is what the cap leaves. -/
def State.admitStream (s : State) (p n tick : Nat) : Nat → Nat × State
  | 0 => (0, s)
  | room + 1 =>
    match s.admitHead p n tick with
    | (true, s1) => let r := State.admitStream s1 p n tick room; (r.1 + 1, r.2)
    | (false, s1) => (0, s1)

/-! ## Gangs (06 R175) -/

/-- Streams that are not IDLE and carry a gang tag, in rising order. -/
def gangOf (s : State) (tag : BitVec 16) : List Nat :=
  (s.stm.streams.filter (fun e => e.2.state != .idle && e.2.gang == tag)).map (·.1)

/-- Admit the head of every member; what is recorded of the first that cannot be admitted, if anything. -/
def State.admitMembers (s : State) (p tick : Nat) : List Nat → Except (Option (Nat × Nat × Nat)) State
  | [] => .ok s
  | n :: l =>
    if (s.stream n).live && (s.stream n).inRange && (s.stream n).part.toNat = p then
      match headOf s p n with
      | .waits => .error none
      | .held code src v => .error (some (code, src, v))
      | _ => State.admitMembers (s.admitHead p n tick).2 p tick l
    else .error none

/-- Consider a gang: every member's head is admitted, or none. -/
def State.admitGang (s : State) (p tick room : Nat) (tag : BitVec 16) : Nat × State :=
  let ms := gangOf s tag
  if !ms.any (fun n => (s.stream n).live && decide (0 < coveredAtCut (s.stream n))) then (0, s)
  else if room < ms.length then (0, (s.event 0x0106 p ms.length).event 0x0105 p tag.toNat)
  else
    match s.admitMembers p tick ms with
    | .ok s1 => (ms.length, s1)
    | .error none => (0, s.event 0x0105 p tag.toNat)
    | .error (some (code, src, v)) => (0, (s.event code src v).event 0x0105 p tag.toNat)

/-! ## The admission window (06 R173) -/

/-- Streams of the partition that admission considers. -/
def candidates (s : State) (p : Nat) : List (Nat × Stream) :=
  s.stm.streams.filter (fun e => e.2.live && e.2.inRange && decide (e.2.part.toNat = p))

def rotate {α : Type} (k : Nat) (l : List α) : List α := let i := k % l.length; l.drop i ++ l.take i

/-- Stream numbers in the order of R173. -/
def admitOrder (s : State) (p : Nat) : List Nat :=
  let l := candidates s p
  [true, false].flatMap (fun pin => [0, 1, 2, 3].flatMap (fun (c : BitVec 2) =>
    rotate (s.part p).rot ((l.filter (fun e => e.2.pinned == pin && e.2.prio == c)).map (·.1))))

/-- One stream's turn; a gang takes its turn at its lowest-numbered member. -/
def State.admitTurn (s : State) (p tick room n : Nat) : Nat × State :=
  let tag := (s.stream n).gang
  if tag = 0 then s.admitStream p n tick room
  else if (candidates s p).any (fun e => e.2.gang == tag && decide (e.1 < n)) then (0, s)
  else s.admitGang p tick room tag

/-- Streams in order, up to 256 commands. -/
def State.admitList (s : State) (p tick : Nat) : List Nat → Nat → Nat × State
  | [], done => (done, s)
  | n :: l, done =>
    let r := s.admitTurn p tick (256 - done) n
    State.admitList r.2 p tick l (done + r.1)

/-- Admission over every stream of the partition: how many commands, and the state. -/
def State.admitAll (s : State) (p tick : Nat) : Nat × State :=
  let order := admitOrder s p
  let r := s.admitList p tick order 0
  let left := ((candidates r.2 p).map (fun e => e.2.fetched.length)).foldl (· + ·) 0
  if 256 ≤ r.1 ∧ 0 < left then (r.1, r.2.event 0x0106 p left) else r

/-- A tick without GO: the commands that would have been admitted count it (06 R178, R186; 09 R288). -/
def State.missed (s : State) (p tick : Nat) : State :=
  let t := (s.admitAll p tick).2
  s.each ((candidates s p).map (·.1)) (fun s n =>
    let k := (s.stream n).fetched.length - (t.stream n).fetched.length
    s.modStream n (fun x => { x with fetched := x.fetched.zipIdx.map (fun e => if e.2 < k then { e.1 with o := e.1.o + 1 } else e.1) }))

end Sys2Proof.Machine
end

