-- ==== Sys2Proof/Machine/Flags.lean ====
section
/-! DEFINITION. The status a RUN completes with, from what its words met (03 R96; 04 R113; 05 R157; 07 R224; 10 R318). -/
namespace Sys2Proof.Machine

/-- Bus errors before reserved encodings before poison (R157); a loss of the host first of all (notes/assumptions/16.md). -/
def SlotUse.status (u : SlotUse) : Status :=
  if u.hostLost then .hostLost
  else if u.busErr then .busError
  else if u.badOp then .badOpcode
  else if u.poison || u.cut then .poisoned
  else .ok

end Sys2Proof.Machine
end

