-- ==== Sys2Proof/Machine/Peer.lean ====
section
/-! DEFINITION. Peer links and shared time (15). -/
namespace Sys2Proof.Machine

/-! ## Peer entries (R426) -/

structure PeerEntry where
  op    : Nat
  flags : Nat
  dest  : Nat
  laddr : Nat
  raddr : Nat
  len   : Nat
  lctr  : Nat
  rctr  : Nat
  inc   : W64
  /-- A reserved field or FLAGS bit is not zero. -/
  rsv   : Bool
deriving DecidableEq, Repr

def entryOf (l : List Byte) : PeerEntry :=
  { op := byteAt l 0, flags := byteAt l 1, dest := byteAt l 2, laddr := bytesN l 8 8, raddr := bytesN l 0x10 8, len := bytesN l 0x18 8,
    lctr := bytesN l 0x20 8, rctr := bytesN l 0x28 8, inc := BitVec.ofNat 64 (bytesN l 0x30 8),
    rsv := decide (3 < byteAt l 1) || byteAt l 3 ≠ 0 || byteAt l 7 ≠ 0 }

def PeerEntry.lcnt (e : PeerEntry) : Bool := bitAt e.flags 0
def PeerEntry.rcnt (e : PeerEntry) : Bool := bitAt e.flags 1

/-- A counter may be added to: aligned, in the stacked tier (R426). -/
def ctrOk (a : Nat) : Bool := a % 8 = 0 && inStacked a 8

/-- Port toward a module by the route table: 0 PLK0, 1 PLK1 (R438). -/
def routeTo (s : State) (m : Nat) : Option Nat :=
  match (tget 0#2 s.plk.routes m).toNat with
  | 1 => some 0
  | 2 => some 1
  | _ => none

/-- Port of an entry: the queue's, or the route table's (R430). -/
def entryPort (s : State) (q : PeerQ) (e : PeerEntry) : Option Nat :=
  match q.port.toNat with
  | 1 => some 0
  | 2 => some 1
  | _ => routeTo s e.dest

/-- The local ranges a peer entry may name (R427). -/
def peerRanges : List (Nat × Nat) := [(0, hbmEnd), (boardBase, boardEnd), (shelfBase, shelfEnd), (storeBase, storeEnd)]

/-- The checks of R427, in order; LEN is ignored for a NOTE (R426), whose LADDR is checked as that of an entry that moves nothing
(notes/assumptions/14.md). -/
def entryCheck (s : State) (q : PeerQ) (e : PeerEntry) : Refuse :=
  let len := if e.op = 4 then 0 else e.len
  firstFail [(e.op = 0 || decide (4 < e.op) || e.rsv, .badOpcode, 1),
    (e.laddr % 64 ≠ 0 || e.raddr % 64 ≠ 0 || len % 64 ≠ 0 || decide (2 ^ 36 < len), .bound, 2),
    (!peerRanges.any (fun r => decide (r.1 ≤ e.laddr) && decide (e.laddr < r.2) && decide (e.laddr + len ≤ r.2)), .bound, 3),
    (decide (e.dest = s.plk.modid.toNat) || (entryPort s q e).isNone, .bound, 4),
    ((e.lcnt && !ctrOk e.lctr) || (e.rcnt && e.rctr % 8 ≠ 0), .bound, 5)]

/-! ## Starting an entry (R424, R427 to R430) -/

def queueEntryAt (q : PeerQ) : Nat := q.base.toNat + 64 * (q.head.toNat % 2 ^ q.log2.toNat)

/-- The queue may start its next entry. -/
def peerReady (q : PeerQ) : Bool := q.en && !q.stop && q.run.isNone && q.head.toNat ≠ q.tail.toNat

/-- A port carries accesses. -/
def portUp (s : State) (n : Nat) : Bool :=
  let k := (s.pport n).state
  k == .up || k == .upHalf

/-- A port trains and holds them (R422). -/
def portTrains (s : State) (n : Nat) : Bool := (s.pport n).state == .training

/-- A request of an entry goes to its destination. -/
def State.sendPeer (s : State) (e : PeerEntry) (r : PeerReq) : State := s.modPlk (fun k => { k with sent := (e.dest, r) :: k.sent })

/-- Link directions an entry crosses on port `n`: outward, and inward as well for the data of a READ (R431). -/
def entryLinks (n : Nat) (e : PeerEntry) : List Nat := (18 + 2 * n) :: (if e.op = 2 then [19 + 2 * n] else [])

/-- Reason of a local access that failed: the manual names none (notes/assumptions/14.md). -/
def openReason (draw : Nat) : BitVec 8 := Config.raceByte draw 0

/-- Bytes of a local span before its first line that reaches no location or, for a read, holds bad data. -/
def goodBytes (s : State) (a n : Nat) (write : Bool) : Nat :=
  (((linesOf a n).takeWhile (fun x => match resolve s none x.1 write with | .at pa => write || s.badLine ≠ some (pa / 64) | _ => false)).map (·.2)).sum

/-- The local access of an entry at `a` fails: where it reaches no location it is counted (08 R233), and the reason is open. -/
def State.localBad (s : State) (a n : Nat) (write : Bool) : State × Option (Status × BitVec 8) × Nat :=
  let s1 := if resolve s none a write == .bus then s.noLocation none a else s
  ({ s1 with draw := s1.draw + 1 }, some (Status.busError, openReason s1.draw), n)

/-- Some local line of a data entry waits on a board port or for the host link (08 R264; 10 R314). -/
def localWaits (s : State) (e : PeerEntry) : Bool := e.op ≠ 4 && (linesOf e.laddr e.len).any (fun x => resolve s none x.1 (decide (e.op = 2)) == .wait)

/-- What a data entry does: read local data and send it, or fetch remote data and write it here (R426, R428). -/
def State.movePeer (s : State) (e : PeerEntry) (data : List Byte) : State × Option (Status × BitVec 8) × Nat :=
  match e.op with
  | 2 =>
    let d := data.take e.len
    let k := goodBytes s e.laddr d.length true
    let s1 := ((s.sendPeer e (.read e.raddr e.len)).writeMem none e.laddr (d.take k)).2
    if k = d.length then (s1, none, k) else s1.localBad (e.laddr + k) k true
  | 4 => (s, none, 0)
  | _ =>
    let k := goodBytes s e.laddr e.len false
    let b := match readMem s none e.laddr k with | .ok b => b | .error _ => []
    let s1 := s.sendPeer e (if e.op = 1 then .write e.raddr b else .addw e.raddr b)
    if k = e.len then (s1, none, k) else s1.localBad (e.laddr + k) k false

/-- The entry at the head of queue `q` starts, if `want` is its operation; an entry of a reserved operation starts under any. -/
def State.startEntry (s : State) (n want : Nat) (data : List Byte) : State :=
  let q := s.pq n
  if !peerReady q then s
  else
    match s.readAny none (queueEntryAt q) 64 with
    | (.error .wait, _) => s
    | (.error _, s1) =>
      { s1 with draw := s1.draw + 1 }.modPq n (fun q => { q with run := some (List.replicate 64 0), res := some (.busError, openReason s1.draw), moved := 0 })
    | (.ok l, s1) =>
      let e := entryOf l
      let legal := decide (1 ≤ e.op) && decide (e.op ≤ 4)
      if legal && e.op ≠ want then s
      else
        match entryCheck s1 q e with
        | some (st, r) => s1.modPq n (fun q => { q with run := some l, res := some (st, BitVec.ofNat 8 r), moved := 0 })
        | none =>
          let s2 := if e.op ≠ 4 && decide (e.len < 2097152) then s1.event 0x0806 n e.len else s1
          match entryPort s q e with
          | none => s
          | some k =>
            if portTrains s k || localWaits s e then s
            else if !portUp s k then s2.modPq n (fun q => { q with run := some l, res := some (.busError, 8), moved := 0 })
            else if !creditsFree s (entryLinks k e) then s
            else
              let r := s2.movePeer e data
              r.1.modPq n (fun q => { q with run := some l, res := r.2.1, moved := r.2.2, links := entryLinks k e, lost := false })

def execPeerWrite (q : Nat) (s : State) : Host.Outcome State Fault Refusal := ok (s.live (fun s => if q < 16 then s.startEntry q 1 [] else s))
def execPeerRead (q : Nat) (data : List Byte) (s : State) : Host.Outcome State Fault Refusal :=
  ok (s.live (fun s => if q < 16 then s.startEntry q 2 data else s))
def execPeerAddw (q : Nat) (s : State) : Host.Outcome State Fault Refusal := ok (s.live (fun s => if q < 16 then s.startEntry q 3 [] else s))
def execNote (q : Nat) (s : State) : Host.Outcome State Fault Refusal := ok (s.live (fun s => if q < 16 then s.startEntry q 4 [] else s))

/-! ## The end of an entry (R428, R429) -/

/-- Add to a counter with one atomic read-modify-write; a counter at no location takes nothing (08 R233). -/
def State.addCounter (s : State) (a : Nat) (inc : W64) : State :=
  if locate s a == .mem then s.wrN a 8 (BitVec.ofNat 64 (s.rdN a 8) + inc).toNat else s.noLocation none a

/-- The entry of queue `n` ends: `failed` is the reason the far side gave, 0 for none, and `moved` what it wrote; a READ
whose answer has not come whole has not ended well, and one whose port has gone down has failed. A counter update follows data that has moved
whole; MOVED of a READ counts what was written here. -/
def State.endEntry (s : State) (n : Nat) (failed : BitVec 8) (moved : Nat) : State :=
  let q := s.pq n
  match q.run with
  | none => s
  | some l =>
    let e := entryOf l
    if e.op = 2 && q.res.isNone && !q.lost && failed = 0 && q.moved ≠ e.len then s
    else
    let fin : Status × BitVec 8 := match q.res with
      | some r => r
      | none => if q.lost then (.busError, 8) else if failed = 0 then (.ok, 0) else (.busError, failed)
    let mv := if q.res.isSome || fin.1 = .ok || e.op = 2 then q.moved else Min.min moved q.moved
    let a := queueEntryAt q
    let s0 := if fin.1 = .ok && e.rcnt then s.sendPeer e (.count e.rctr e.inc) else s
    let s1 := ((s0.tblWr (a + 4) [BitVec.ofNat 8 fin.1.code, fin.2]).tblWr (a + 0x38) (leBytes 8 mv)).tblWr (a + 6) [1]
    let s2 := if e.lcnt && ctrOk e.lctr then s1.addCounter e.lctr e.inc else s1
    let s3 := if fin.1 = .ok then s2 else s2.event 0x0802 n fin.1.code
    s3.modPq n (fun q => { q with run := none, res := none, moved := 0, links := [], lost := false, head := BitVec.ofNat 16 ((q.head.toNat + 1) % 2 ^ q.log2.toNat) })

def execPeerEntryDone (q : Nat) (failed : BitVec 8) (moved : Nat) (s : State) : Host.Outcome State Fault Refusal :=
  ok (s.live (fun s => if q < 16 then s.endEntry q failed moved else s))

/-! ## Requests from other modules (R428, R432) -/

/-- A request from port `n` that reaches no location, or the unified range. -/
def State.peerNowhere (s : State) (n a : Nat) : State := (s.event 0x0807 n (a / 2 ^ 21)).modPlk (fun k => { k with nak := true })
def State.peerNak (s : State) (b : Bool) : State := s.modPlk (fun k => { k with nak := b })

/-- Lines of an incoming write, up to the first that fails. -/
def State.peerWriteLines (s : State) (n : Nat) : List (Nat × Nat) → List Byte → State
  | [], _ => s.peerNak false
  | (a, k) :: l, b =>
    match s.writePiece none a (b.take k) with
    | (.at _, s1) => State.peerWriteLines s1 n l (b.drop k)
    | (.reg, s1) => State.peerWriteLines (s1.regWriteSpan a (b.take k)) n l (b.drop k)
    | (.lost, s1) => s1.peerNak true
    | (_, s1) => s1.peerNowhere n a

/-- Lines of an incoming read. -/
def State.peerReadLines (s : State) (n : Nat) : List (Nat × Nat) → List Byte → State
  | [], acc => (s.peerNak false).modPlk (fun k => { k with reply := acc })
  | (a, k) :: l, acc =>
    match resolve s none a false with
    | .at pa => State.peerReadLines s n l (acc ++ s.rd pa k)
    | .reg => let r := s.regReadSpan a k; State.peerReadLines r.2 n l (acc ++ r.1)
    | .lost => (s.peerNak true).modPlk (fun k => { k with reply := acc })
    | _ => (s.peerNowhere n a).modPlk (fun k => { k with reply := acc })

/-- Lines of an incoming accumulate-write (08 R260). -/
def State.peerAddwLines (s : State) (n : Nat) : List (Nat × Nat) → List Byte → State
  | [], _ => s.peerNak false
  | (a, k) :: l, b =>
    match s.addwPiece none 0xFFFF a (b.take k) with
    | (.at _, s1) => State.peerAddwLines s1 n l (b.drop k)
    | (.lost, s1) => s1.peerNak true
    | (_, s1) => if (match locate s1 a with | .none | .uni => true | _ => false) then s1.peerNowhere n a else s1.peerNak true

def State.peerRequest (s : State) (r : PeerIn) : State :=
  let n := r.port
  match r.req with
  | .write a d => if a % 64 ≠ 0 then s.peerNak true else s.peerWriteLines n (linesOf a d.length) d
  | .read a k => if a % 64 ≠ 0 then s.peerNak true else s.peerReadLines n (linesOf a k) []
  | .addw a d => if a % 64 ≠ 0 || d.length % 4 ≠ 0 then s.peerNak true else s.peerAddwLines n (linesOf a d.length) d
  | .count a inc => if ctrOk a then (if locate s a == .mem then (s.addCounter a inc).peerNak false else s.peerNowhere n a) else s.peerNak true

/-- A flit addressed to another module (R423). -/
def State.forwardFlit (s : State) (f : PeerFlit) : State :=
  match routeTo s f.dest.toNat with
  | some n => s.modPlk (fun k => { k with nak := false, fwdPort := BitVec.ofNat 2 (n + 1) })
  | none => (s.event 0x0807 f.port f.dest.toNat).peerNak true

def execPeerFlitForward (f : PeerFlit) (s : State) : Host.Outcome State Fault Refusal :=
  ok (s.live (fun s => if f.dest = s.plk.modid then s else s.forwardFlit f))

/-! ## The bell (R425) -/

/-- `addr` is the word's offset in the PLK block. -/
def execQueueBell (addr : Nat) (word : W64) (s : State) : Host.Outcome State Fault Refusal :=
  ok (s.live (fun s => if (regIdx addr 0x400 8 8).isSome then s.queueBell word.toNat else s))

/-! ## Ports (R422) -/

def plkPort (n : Nat) : Port := if n = 0 then .plk0 else .plk1

/-- A port retrains and holds its accesses, then is up again. -/
def State.peerRetrain (s : State) (n us : Nat) : State :=
  let st := (s.pport n).state
  if us < 10000 && st != .down && st != .disabled && mayTrain s (9 + n) then
    (((s.advanceTo ((s.pport n).downAt.getD s.time + 1200 * us)).trainPort (plkPort n) 0xFF).modPlk (fun k => { k with retrains := satAdd k.retrains 1 })).event 0x0800 n us
  else s

def execPeerPortRetrain (n us : Nat) (s : State) : Host.Outcome State Fault Refusal := ok (s.live (fun s => if n < 2 then s.peerRetrain n us else s))

/-- A port has not come up 10 ms after it went down, also one that the command finds up: it has gone down and not come up again. -/
def State.peerDown (s : State) (n : Nat) : State :=
  if (s.pport n).state != .down && (s.pport n).state != .disabled then
    ((((s.advanceTo ((s.pport n).downAt.getD s.time + 12000000)).portLost n).modPport n (fun q => { q with state := .down, lanes := 0, downAt := none })).modPlk
      (fun k => { k with downs := satAdd k.downs 1 })).event 0x0801 n n
  else s

def execPeerPortDown (n : Nat) (s : State) : Host.Outcome State Fault Refusal := ok (s.live (fun s => if n < 2 then s.peerDown n else s))

/-! ## Shared time (R433 to R436) -/

/-- This module serves as the time master. -/
def isTimeMaster (k : Plk) : Bool := k.master && k.masterId == k.modid

/-- DEDUCED (notes/assumptions/74.md): the lowest member of a group, for the source of its records (16 R454). -/
def groupSource (s : State) (g : Nat) : Nat :=
  ((s.parts.find? (fun e => e.2.defined && e.2.locked && decide (e.2.lgrp.toNat = g))).map (·.1)).getD 0

/-- A group's skew has been measured (06 R187); it is recorded by its magnitude (16 R454). -/
def State.noteSkew (s : State) (g : Nat) (v : BitVec 16) : State :=
  if (s.group g).xmod then
    let s1 := s.modGroup g (fun x => { x with skew := v })
    if 20 < v.toInt.natAbs then s1.event 0x0108 (groupSource s g) v.toInt.natAbs else s1
  else s

/-- Set the offset at once, or move it by at most 1 in 1,024 cycles (R433). -/
def Plk.slew (k : Plk) (now shared : Nat) : Plk :=
  let want : Int := (shared : Int) - now
  if !k.locked then { k with locked := true, toffset := want, lastSlew := now }
  else if want = k.toffset || now < k.lastSlew + 1024 then k
  else { k with toffset := if k.toffset < want then k.toffset + 1 else k.toffset - 1, lastSlew := now }

/-- The time of this module comes from the port that reaches the time master in the fewest hops; of two masters the one with the lower
number serves (R434). A port that has gone down reaches none. -/
def Plk.follows (k : Plk) (port : Nat) (master hops : BitVec 8) : Bool :=
  let src := (tget {} k.ports (b2n k.srcport)).state
  k.hops = 0 || src == .down || src == .disabled || k.srcport == decide (port = 1) || decide (master < k.masterId) || (master = k.masterId && decide (hops < k.hops))

/-- What the time master announces: the next base tick of every group across modules that has a sequence (R435). -/
def announced (s : State) : List GroupAnn :=
  ((List.range 16).filter (fun g => (s.group g).xmod && (s.group g).hasSeq)).map (fun g =>
    { group := g, time := (((s.group g).next : Int) + s.plk.toffset).toNat, index := (s.group g).index, level := (s.group g).plan1 })

/-- Timing flits on a port: `master` and `hops` are the time master reached over it and its distance, `second` a second module with
MASTER set. A time master that still has an offset, from before it became one, moves it to 0 as R433 allows (notes/assumptions/66.md). -/
def State.timingFlits (s : State) (port : Nat) (master hops : BitVec 8) (skews : List (Nat × BitVec 16)) (second : Option (BitVec 8)) : State :=
  let k := s.plk
  let yields := isTimeMaster k && second.any (fun m => decide (m < k.modid))
  let s1 := match second with
    | none => s
    | some m => s.event 0x0805 port (if isTimeMaster k && decide (m < k.modid) then k.modid else m).toNat
  let follow := !isTimeMaster k || yields
  let s2 := if follow && k.follows port master hops then s1.modPlk (fun k => { k with masterId := master, hops := hops, srcport := decide (port = 1) }) else s1
  let s3 := if isTimeMaster s2.plk && s2.plk.locked then s2.modPlk (fun k => { k.slew s2.time s2.time with told := announced s2 }) else s2
  skews.foldl (fun s e => if e.1 < 16 then s.noteSkew e.1 e.2 else s) s3

def execTimingFlitExchange (port : Nat) (master hops : BitVec 8) (skews : List (Nat × BitVec 16)) (second : Option (BitVec 8)) (s : State) :
    Host.Outcome State Fault Refusal :=
  ok (s.live (fun s => if port < 2 then s.timingFlits port master hops skews second else s))

/-- The announced tick of a group, in local time (R433, R435); members that wait for it join under 06 R163. -/
def State.takeGroup (s : State) (g : GroupAnn) : State :=
  if (s.group g.group).xmod then
    let t := ((g.time : Int) - s.plk.toffset).toNat
    let s1 := s.modGroup g.group (fun x => { x with hasSeq := true, next := t, index := g.index, ann := some g.level })
    (s1.each (membersOf s1 g.group) (fun s p => s.modPart p (fun q =>
      match q.joinAt with
      | some at_ => { q with firstIdx := joinIndex s.frm.period.toNat q.m g.index t at_, joinAt := none }
      | none => q))).refreshMembers g.group
  else s

/-- The members of a group whose base ticks the module no longer takes have no tick to come, but one already decided (R435). -/
def State.stopMembers (s : State) (g : Nat) : State :=
  s.each (membersOf s g) (fun s p => s.modPart p (fun q => if q.verdict.isNone then { q with next := 0 } else q))

def State.announcement (s : State) (port : Nat) (master hops : BitVec 8) (shared : Nat) (period : BitVec 24) (groups : List GroupAnn) : State :=
  if isTimeMaster s.plk || !s.plk.follows port master hops then s
  else
    let s1 := s.modPlk (fun k => { k.slew s.time shared with masterId := master, hops := hops, srcport := decide (port = 1) })
    if period ≠ s.frm.period then
      let s2 := (s1.modPlk (fun k => { k with periodBad := true })).event 0x0804 port s.frm.period.toNat
      ((List.range 16).filter (fun g => (s2.group g).xmod)).foldl State.stopMembers s2
    else (groups.filter (fun g => decide (g.group < 16))).foldl State.takeGroup (s1.modPlk (fun k => { k with periodBad := false }))

def execTimeAnnouncement (port : Nat) (master hops : BitVec 8) (shared : Nat) (period : BitVec 24) (groups : List GroupAnn) (s : State) :
    Host.Outcome State Fault Refusal :=
  ok (s.live (fun s => if port < 2 then s.announcement port master hops shared period groups else s))

/-- A member's level for a group base tick, kept as 16 × index + level (R436). -/
def execThrottleLevelReport (module_ : BitVec 8) (group : Nat) (level : BitVec 4) (index : Nat) (s : State) : Host.Outcome State Fault Refusal :=
  ok (s.live (fun s =>
    if isTimeMaster s.plk && decide (group < 16) && (s.group group).xmod then
      s.modGroup group (fun x => { x with memLvl := tput x.memLvl module_.toNat (16 * index + level.toNat) })
    else s))

end Sys2Proof.Machine
end

