-- ==== Sys2Proof/Machine/Frame.lean ====
section
/-! DEFINITION. The frame tick: group base ticks, the admission cut, the decision point, GO and HOLD, frame-done and drains (04 R122 to
R125; 06 R163 to R180; 07 R214, R221, R222; 16 R443 to R446). -/
namespace Sys2Proof.Machine

/-! ## Group base ticks (06 R163 to R166; 15 R435, R436) -/

/-- Levels of the member modules for the tick two later: what they reported for tick `i`, else their last level, each of those counted. -/
def State.memberLevels (s : State) (g i : Nat) : BitVec 4 × State :=
  let x := s.group g
  x.memLvl.foldl (fun acc e =>
    let l := BitVec.ofNat 4 (e.2 % 16)
    let late := decide (e.2 / 16 < i)
    (if acc.1 < l then l else acc.1,
     if late then acc.2.event 0x0809 ((tget 0#2 s.plk.routes e.1).toNat - 1) e.1 else acc.2)) (x.own1, s)

/-- Level that applies at this group base tick, and the level planned for the next. -/
def State.baseLevel (s : State) (g : Nat) (own : BitVec 4) : BitVec 4 × BitVec 4 × State :=
  let x := s.group g
  if !x.xmod then (own, 0, s)
  else if isTimeMaster s.plk then
    if x.index = 0 then (x.plan1, x.own1, s)
    else
      let r := s.memberLevels g (x.index - 1)
      (x.plan1, r.1, r.2)
  else
    match x.ann with
    | some l => (l, l, s)
    | none =>
      let l := if own < x.plan1 then x.plan1 else own
      (l, x.plan1, s.event 0x0809 (b2n s.plk.srcport) s.plk.masterId.toNat)

/-- A member module sends its level at a base tick to the time master (15 R436). -/
def State.tellLevel (s : State) (g i : Nat) (own : BitVec 4) : State :=
  if (s.group g).xmod && !isTimeMaster s.plk then s.modPlk (fun k => { k with toldLvl := tput k.toldLvl g (i, own) }) else s

/-- A frame of the member starts, or has started, at the group base tick at `t`. -/
def startsAt (q : Part) (t : Nat) : Bool :=
  (match q.verdict with | some (.go _) => decide (q.next = t) | _ => false) || (q.running && decide (q.lastTick = t))

/-- A member whose sequence has begun takes the gap of the interval that begins at `t` into FRM_PGAP (06 R188); it stretches the frame that
starts at the member's tick, if one does (R165). -/
def State.memberGap (s : State) (i t gap : Nat) (level : BitVec 4) (p : Nat) : State :=
  let q := s.part p
  if i < q.firstIdx then s
  else
    let own := decide (i % q.m = 0)
    let frame := if own then startsAt q t else q.ticked && q.running
    let s1 := s.modPart p (fun q =>
      { q with gap := if own then BitVec.ofNat 32 gap else q.gap + BitVec.ofNat 32 gap, ticked := if own then frame else q.ticked,
               gapLevel := if frame && (own || q.gapLevel < level) then level else q.gapLevel })
    if frame && decide (0 < gap) then s1.event 0x0107 p gap else s1

def State.groupTick (s : State) (g : Nat) : State :=
  let x := s.group g
  if !x.hasSeq || (x.xmod && (!s.plk.locked || s.plk.periodBad)) then s
  else
    let s0 := ((s.advanceTo (x.next - 1200)).sampleGroup g).advanceTo x.next
    let own := (s0.group g).samp.getD 0
    let r := s0.baseLevel g own
    let gap := s.frm.period.toNat * r.1.toNat / 16
    let s1 := (r.2.2.tellLevel g x.index own).modGroup g (fun x =>
      { x with level := r.1, plan1 := r.2.1, own1 := own, ann := none, samp := none, next := x.next + s.frm.period.toNat + gap, index := x.index + 1 })
    ((membersOf s1 g).foldl (fun s p => s.memberGap x.index x.next gap r.1 p) s1).refreshMembers g

def execGroupBaseTick (g : Nat) (s : State) : Host.Outcome State Fault Refusal := ok (s.live (fun s => if g < 16 then s.groupTick g else s))

/-! ## The admission cut (06 R167) -/

/-- A partition whose coming tick is known and not yet decided. -/
def ticking (q : Part) : Bool := q.defined && decide (q.next ≠ 0) && (match q.verdict with | some (.go _) => false | _ => true)

/-- The next tick of a partition whose tick falls at `t` with this throttle level, its gap, and MEM_PUSE (06 R163, R165; 08 R266). A gap
stretches the frame that starts at the tick: without one, FRM_PGAP.LEVEL and code 0x0107 have nothing new to show. -/
def State.passTick (s : State) (p t : Nat) (level : BitVec 4) (frame : Bool) : State :=
  let q := s.part p
  let s0 := s.modPart p (fun q =>
    { q with cut := false, verdict := none, puseH := BitVec.ofNat 32 (usedS s p), puseB := BitVec.ofNat 32 (usedB s p) })
  if q.locked then s0.modPart p (fun q => { q with next := memberNextAfter s q t })
  else
    let tf := q.m * s.frm.period.toNat
    let gap := tf * level.toNat / 16
    let s1 := s0.modPart p (fun q =>
      { q with next := t + tf + gap, gap := BitVec.ofNat 32 gap, gapLevel := if frame then level else q.gapLevel, ticked := frame })
    if frame && decide (0 < gap) then s1.event 0x0107 p gap else s1

/-- HOLD has been sent: the tick passes without a frame when it comes. -/
def State.sendHold (s : State) (p : Nat) (level : BitVec 4) : State := s.modPart p (fun q => { q with verdict := some (.hold level) })

/-- The cluster is drained, or runs no frame at all. -/
def drainedOrOut (s : State) (g : Nat) : Bool :=
  let c := s.cluster g
  c.state == .drained || c.state == .failed || (c.state == .routerFault && !c.drainReq)

/-- The last cluster is drained: so is the partition, for a load. -/
def State.settleDrain (s : State) (p : Nat) : State :=
  if (s.part p).drainReq && (s.part p).clusters.all (drainedOrOut s) then
    s.modPart p (fun q => { q with state := .drained, drainReq := false, running := false })
  else s

/-- The tick that had HOLD comes; a drain request that finds nothing to drain has taken effect (04 R125). -/
def State.passHeld (s : State) (p : Nat) : State :=
  match (s.part p).verdict with
  | some (.hold l) => ((s.advanceTo (s.part p).next).passTick p (s.part p).next l false).settleDrain p
  | _ => s

def State.cutDoorbells (s : State) (p : Nat) : State :=
  let s0 := (s.batchDeadlines p).advanceTo ((s.part p).next - 2400)
  let s1 := s0.each (streamNos s0 p) State.takeReload
  (s1.each (streamNos s1 p) (fun s n => s.modStream n (fun x => { x with cutTail := x.tail }))).modPart p (fun q => { q with cut := true })

def execAdmissionCut (p : Nat) (s : State) : Host.Outcome State Fault Refusal :=
  ok (s.live (fun s => let s := s.passHeld p; if ticking (s.part p) && !(s.part p).cut then s.cutDoorbells p else s))

/-! ## The ledger at a decision point (16 R443 to R445) -/

def sumNat (l : List Nat) : Nat := l.foldl (· + ·) 0

/-- Sum found minus total of the partition's pools 0, 1, 2, 3 and 4. -/
def auditSums (s : State) (p : Nat) : List (Nat × Int) :=
  let q := s.part p
  let cmds := (streamNos s p).flatMap (fun n => (s.stream n).cmds)
  let dma := (s.chans.filter (fun e => e.2.run.any (fun r => r.part = p))).length
  [(0, (q.credFree + cmds.length : Int) - q.credTotal), (1, (q.dmaHeld : Int) - dma), (2, (q.redFree + 4 * q.slots.length : Int) - q.redTotal)]
    ++ q.queues.map (fun e => (3, (e.2.credits + e.2.announced + e.2.held + e.2.annFly + e.2.crdFly : Int) - e.2.c.toNat))
    ++ [(4, (q.pageFree + sumNat (cmds.map (·.refs)) : Int) - q.pageTotal)]

def State.audit (s : State) (p tick : Nat) : State :=
  let bad := (auditSums s p).filter (fun e => e.2 ≠ 0)
  let s1 := s.modPart p (fun q => { q with audits := satAdd q.audits 1 })
  let s2 := bad.foldl (fun s e => s.mismatch e.1 p e.2) s1
  match bad with
  | [] => s2
  | e :: _ => if (s.part p).cons then s2 else s2.consPart p e.1 e.2 tick

/-! ## Loads and repairs at a decision point (07 R214, R221, R226) -/

/-- The head load is in this phase and is for this partition. -/
def headLoad (s : State) (p : Nat) (phs : List LoadPhase) : Option LoadReq :=
  match s.cfg.queue with
  | r :: _ => if r.part = some p ∧ phs.contains r.phase then some r else none
  | [] => none

/-- Set the phase of the head load. -/
def State.headPhase (s : State) (k : LoadPhase) : State :=
  s.modCfg (fun c => { c with phase := k, queue := match c.queue with | r :: l => { r with phase := k } :: l | [] => [] })

/-- No admitted command is left but LOAD_BITSTREAM. -/
def quietPart (s : State) (p : Nat) : Bool := (streamNos s p).all (fun n => (s.stream n).cmds.all (fun c => opOf c = 0xA))

/-- WAIT has ended. -/
def State.endWait (s : State) (p : Nat) : State :=
  if (headLoad s p [.wait]).isSome && quietPart s p then s.headPhase .drain else s

/-- A load's drain request is made; it takes effect at the partition's next tick (04 R125). -/
def State.takeDrain (s : State) (p : Nat) : State :=
  if (headLoad s p [.drain]).isSome && !(s.part p).drainReq && (s.part p).state != .drained then
    let s1 := (s.part p).clusters.foldl (fun s g => s.modCluster g (fun k => { k with drainReq := k.state != .failed && k.state != .drained })) s
    s1.modPart p (fun q => { q with drainReq := true, drainAt := q.next })
  else s

/-- FORCE in WAIT: commands admitted before complete with STOPPED, a DMA command whose last descriptor has ended among them; a running DMA stops
at its descriptor boundary (07 R214, 11 R334). -/
def State.force (s : State) (p tick : Nat) : State :=
  if (headLoad s p [.wait]).any (·.force) then
    let running := fun n (c : Cmd) => opOf c = 2 && s.chans.any (fun e => e.2.run.any (fun r => r.stream = n && r.seq = c.seq && !r.finished))
    let ended := fun (c : Cmd) => match c.phase with | .ended e _ _ => opOf c = 2 && e != .ok | _ => false
    let gone := s.chans.filter (fun e => e.2.run.any (fun r => r.part = p && r.finished && !r.done
      && (s.stream r.stream).cmds.any (fun c => c.seq = r.seq && (match c.phase with | .ended .ok _ _ => true | _ => false))))
    let s0 := gone.foldl (fun s e => s.event 0x0503 e.1 (match e.2.run with | some r => r.pos | none => 0)) s
    let s1 := s0.endAll p .stopped tick (fun n c => !running n c && !ended c)
    (s1.chans.filter (fun e => e.2.run.any (fun r => r.part = p && !r.finished))).foldl (fun s e => s.dmaStopReq e.1) s1
  else s

/-- Step 1 of the partition's repairs (07 R221): drain requests, or PARTITION_DOWN without a spare (R226). -/
def State.repairStep1 (s : State) (p tick : Nat) : State :=
  let q := s.part p
  match q.repairs.find? (fun r => r.step = 1 && r.spare.isNone) with
  | some r =>
    ((s.modCfg (fun c => { c with rprStatus := .partitionDown, rprPhase := .failed })).event 0x0014 0 r.old).downPart p tick
  | none =>
    let s1 := (q.clusters.foldl (fun s g => s.modCluster g (fun k => { k with drainReq := true })) s).modPart p (fun q => { q with drainAt := tick })
    let s2 := (q.repairs.filter (fun r => r.step = 1 && r.failed)).foldl (fun s r =>
      let pos := q.clusters.idxOf r.old
      (s.modPart p (fun q => { q with slots := q.slots.map (fun u => if wordsOn s p u pos then { u with cut := true } else u) })).cutCluster r.old false) s1
    (s2.modPart p (fun q => { q with repairs := q.repairs.map (fun r => if r.step = 1 then { r with step := 2 } else r) })).modCfg
      (fun c => { c with rprPhase := .copy })

def State.startRepairs (s : State) (p tick : Nat) : State :=
  if (s.part p).repairs.any (fun r => r.step = 1) then s.repairStep1 p tick else s

/-! ## GO and HOLD (06 R168, R178, R179; 07 R222) -/

/-- Every cluster that ran the frame has reported frame-done. -/
def frameIsDone (s : State) (p : Nat) : Bool := !(s.part p).running || (s.part p).clusters.all (fun g => !(s.cluster g).frameOn)

/-- An overrun or held tick counts in every open command, and in those it keeps from admission. -/
def State.countTick (s : State) (p tick : Nat) (closed : Bool) : State :=
  let s1 := s.each (streamNos s p) (fun s n =>
    s.modStream n (fun x => { x with cmds := x.cmds.map (fun c => if c.open then { c with o := c.o + 1 } else c) }))
  if closed then s1 else s1.missed p tick

def Part.downAt (q : Part) (t : Nat) : Part := { q with downFrom := match q.downFrom with | some x => some x | none => some t }

/-- An overrun; the third in a row halts the partition. -/
def State.overrun (s : State) (p tick : Nat) (closed : Bool) : State :=
  let q := s.part p
  let s1 := if q.clusters.any (fun g => (s.cluster g).failed) then s.modPart p (fun q => q.downAt tick) else s
  if q.consec = 2 then (s1.event 0x0101 p (q.frame.toNat % 2 ^ 32)).haltPart p .overrun tick
  else
    ((s1.modPart p (fun q => { q with state := .late, consec := q.consec + 1, overruns := satAdd q.overruns 1 })).event 0x0100 p (q.consec + 1)).countTick
      p tick closed

/-- A held tick. -/
def State.heldTick (s : State) (p tick : Nat) (closed : Bool) : State :=
  ((s.modPart p (fun q => q.downAt tick)).event 0x010A 0 p).countTick p tick closed

/-- A command that ends at a tick with GO (06 R176; 07 R224; 09 R288). -/
def State.completeCmd (s : State) (p n tick : Nat) (c : Cmd) : State :=
  if (s.part p).doomed.contains (n, c.seq) then s.endNow n p c .poisoned tick
  else
    match c.phase, slotOf s p n c.seq with
    | .ended st r v, _ => s.finishCmd n c.seq st r v tick
    | .complete _ _ _ _, _ => s
    | _, some u =>
      if u.cut || decide (1 + u.k + u.depth ≤ u.started) then s.modCmd n c.seq (fun c => c.finish u.status 0 (runResult c u.started) tick) else s
    | _, none => s

def State.completeAll (s : State) (p tick : Nat) : State :=
  s.each (streamNos s p) (fun s n =>
    ((s.stream n).cmds.filter (fun c => c.open && opOf c ≠ 0xA)).foldl (fun s c => s.completeCmd p n tick c) s)

/-- LOAD_BITSTREAM commands whose load has ended complete at any tick (09 R295). -/
def State.completeLoads (s : State) (p tick : Nat) : State :=
  s.each (streamNos s p) (fun s n =>
    ((s.stream n).cmds.filter (fun c => opOf c = 0xA)).foldl (fun s c =>
      match c.phase with
      | .ended st r v => s.modCmd n c.seq (fun c => c.finish st r v tick)
      | _ => s) s)

/-- GO for the tick `t`: completions, then admission unless it is closed (06 R168, R171, R176, R188). -/
def State.go (s : State) (p t : Nat) (closed : Bool) : State :=
  let q := s.part p
  let slack := BitVec.ofNat 32 (s.time - q.doneAt)
  let s1 := s.modPart p (fun q =>
    { q with slackLast := if q.running then slack else q.slackLast,
             slackMin := if q.running && slack < q.slackMin then slack else q.slackMin,
             state := .running, consec := 0 })
  let s2 := (s1.completeAll p t).modPart p (fun q => { q with repairs := [], doomed := [], rot := q.rot + 1 })
  let s3 := q.clusters.foldl (fun s g => s.modCluster g (fun k => if k.state == .drained then { k with state := .assigned } else k)) s2
  let a := if closed then (0, s3) else s3.admitAll p t
  a.2.modPart p (fun q => { q with admitted := BitVec.ofNat 9 a.1, verdict := some (.go (levelOf s [p])) })

/-- A halted partition restarts at this tick (06 R180). -/
def resumes (s : State) (p : Nat) : Bool :=
  let q := s.part p
  q.state == .halted && !q.cons && !q.drainReq && q.resumeAt.any (fun t => decide (t + 1200 ≤ s.time))
    && q.repairs.all (fun r => r.step = 4 && decide (r.after + 1200 ≤ s.time))
    && !s.cfg.queue.any (fun r => r.part.isNone && (r.phase == .drain || r.phase == .apply))

/-- What is sent for the tick `t` (06 R168, R178 to R180; 07 R214, R221, R222; 15 R435). -/
def State.rule (s0 : State) (p t : Nat) : State :=
  let level := levelOf s0 [p]
  let done := frameIsDone s0 p
  let s := s0.startRepairs p t
  let q := s.part p
  let closed := (headLoad s p [.wait, .drain, .apply]).isSome
  match q.state with
  | .halted =>
    if resumes s p then
      (s.event 0x0109 p ((q.frame.toNat + 1) % 2 ^ 32)).go p t true |>.modPart p (fun q => { q with resumeAt := none })
    else s.sendHold p level
  | .running | .late =>
    if !done then (s.overrun p t closed).sendHold p level
    else if !q.repairs.all (fun r => r.step = 4 && decide (r.after + 1200 ≤ s.time)) then (s.heldTick p t closed).sendHold p level
    else if q.drainReq then s.sendHold p level
    else if q.locked && (s.group q.lgrp.toNat).xmod && !s.plk.locked then (s.event 0x0803 (b2n s.plk.srcport) p).sendHold p level
    else s.go p t closed
  | .down => (s.modPart p (fun q => q.downAt t)).sendHold p level
  | .drained | .idle => s.sendHold p level

/-! ## The decision point -/

/-- What happens at every decision point, before GO or HOLD: interrupt intervals (09 R300), deferred requests, promotions and relocations
(08 R248, R249, R262), parked groups (13 R373), loads that have ended (09 R295) and the ledger (16 R443). -/
def State.atDecision (s : State) (p tick : Nat) : State :=
  let s1 := s.each (streamNos s p) State.irqInterval
  let s2 := ((s1.retryDeferred p).retryPromotions p).relocateAll (some p)
  let s3 := s2.each [0, 1, 2, 3] (fun s d => s.recheckGroups d (fun j => j.part = p))
  (s3.completeLoads p tick).audit p tick

def State.decisionPoint (s : State) (p : Nat) : State :=
  let t := (s.part p).next
  let s0 := if (s.part p).cut then s.batchDeadlines p else s.cutDoorbells p
  let s1 := ((s0.advanceTo (t - 1200)).sampleGroups).atDecision p t
  let s2 := ((s1.endWait p).takeDrain p).force p t
  let s3 := if (s2.part p).goDown then (s2.downPart p t).sendHold p (levelOf s2 [p]) else s2.rule p t
  (s3.each (streamNos s3 p) State.records).endWait p

/-- A member of a group that spans modules waits for the first lock (15 R435). -/
def awaitsLock (s : State) (p : Nat) : Bool :=
  let q := s.part p
  q.defined && q.locked && decide (q.next = 0) && (s.group q.lgrp.toNat).xmod && !s.plk.locked

def execDecisionPoint (p : Nat) (s : State) : Host.Outcome State Fault Refusal :=
  ok (s.live (fun s =>
    let s := s.passHeld p
    if ticking (s.part p) then s.decisionPoint p
    else if awaitsLock s p then s.event 0x0803 (b2n s.plk.srcport) p
    else s))

/-! ## The tick (04 R122; 06 R167, R170) -/

/-- Parked updates of the partition count the frame (13 R379, R402). -/
def State.parkedFrame (s : State) (p : Nat) : State :=
  s.each [0, 1, 2, 3] (fun s d =>
    let mine := fun (j : UpdJob) => decide (j.part = p) && j.parkedAt.isSome
    let s1 := s.modUpd d (fun u => { u with parked := u.parked.map (fun j => if mine j then { j with parkFrames := j.parkFrames + 1 } else j) })
    ((s1.updOf d).parked.filter mine).foldl (fun s j => s.event 0x0604 (dieCode d) j.parkFrames) s1)

/-- The slot table: slots whose command has not completed. -/
def slotTable (s : State) (p : Nat) : List SlotUse :=
  (s.part p).slots.filter (fun u => (s.stream u.stream).cmds.any (fun c => c.seq = u.seq && c.open))

def State.frameTick (s : State) (p : Nat) (level : BitVec 4) : State :=
  let t := (s.part p).next
  let s1 := (s.advanceTo t).modPart p (fun q =>
    { q with frame := q.frame + 1, running := true, lastTick := t, downFrom := none,
             slots := q.slots.map (fun u => { u with started := u.started + 1 }) })
  let s2 := (s1.each (streamNos s1 p) (fun s n => s.modStream n (fun x => { x with waited := x.waited.map (· + 1) }))).parkedFrame p
  (s2.startFrame p (slotTable s2 p)).passTick p t level true

def execFrameStart (p : Nat) (s : State) : Host.Outcome State Fault Refusal :=
  ok (s.live (fun s => match (s.part p).verdict with | some (.go level) => s.frameTick p level | _ => s.passHeld p))

/-! ## Frame-done and drains (04 R124, R125) -/

def SWord.drains (x : SWord) : Bool := match x.w with | .mov m _ => decide (m.toNat ≠ 0) | _ => false

/-- Every compute word has issued, every tile has drained, and every drain and acknowledged operation has completed (04 R124; 05 R143). -/
def coreDone (k : Core) : Bool :=
  k.compute.isEmpty && allRead k && !k.movement.any SWord.drains && k.drains.isEmpty && k.sent.isEmpty && k.conv.isEmpty

def coresOf (s : State) (g : Nat) : List Core := (List.range 16).map (fun i => s.core (16 * g + i))

/-- A cluster reaches frame-done with the last issue of its cores, and not before cycle offset 0 (04 R124). -/
def State.clusterDone (s : State) (g p : Nat) : State :=
  let s1 := s.advanceTo (maxOf (((s.part p).lastTick + 1200) :: (coresOf s g).map (·.lastAt)))
  (s1.modCluster g (fun k => { k with frameOn := false })).modPart p (fun q => { q with doneAt := s1.time })

def execClusterFrameDone (g : Nat) (s : State) : Host.Outcome State Fault Refusal :=
  ok (s.live (fun s =>
    match partOfCluster s g with
    | none => s
    | some p =>
      if (s.part p).running && (s.cluster g).frameOn && !(s.cluster g).failed && (coresOf s g).all coreDone then s.clusterDone g p else s))

/-- Every outstanding access through the router port has completed. -/
def portQuiet (k : Core) : Bool := k.fetches.isEmpty && k.drains.isEmpty

/-- The cluster is drained; the last one drains its partition for a load. -/
def State.clusterDrained (s : State) (g p : Nat) : State :=
  (s.modCluster g (fun k => { k with drainReq := false, state := if k.state == .assigned then .drained else k.state })).settleDrain p

def execDrainRequest (g : Nat) (s : State) : Host.Outcome State Fault Refusal :=
  ok (s.live (fun s =>
    match partOfCluster s g with
    | none => s
    | some p => if (s.cluster g).drainReq && !(s.cluster g).frameOn && (coresOf s g).all portQuiet then
        (s.advanceTo (s.part p).drainAt).clusterDrained g p else s))

/-! ## Module audit points (16 R443, R446; 09 R299) -/

def bufferHolders (s : State) (d : Nat) : List Nat :=
  ((s.chans.filter (fun e => dieOfChan e.1 = d)).filterMap (fun e => e.2.run.map (·.part))).eraseDups

def State.auditDie (s : State) (d : Nat) : State :=
  let x := tget {} s.aud.dma d
  if x.skew = 0 then s
  else
    let s1 := (s.mismatch 1 (0x100 + d) x.skew).modAud (fun a => { a with dma := tmod {} a.dma d (fun x => { x with frozen := true }) })
    (bufferHolders s d).foldl (fun s p => if (s.part p).cons then s else s.consPart p 1 x.skew s.time) s1

/-- A port is held down by the ledger (16 R446), and the port's rules for DOWN apply (08 R264, 15 R422); a host link held down is lost
after 10 ms (10 R316). -/
def State.holdPort (s : State) (n : Nat) : State :=
  match n with
  | 8 => s.hlkDown .down
  | 9 | 10 => (((s.portLost (n - 9)).modPport (n - 9) (fun q => { q with state := .down, lanes := 0, downAt := none })).modPlk (fun k => { k with downs := satAdd k.downs 1 })).event
      0x0801 (n - 9) (n - 9)
  | _ => ((s.modBmp (n - 11) (fun b => { b with state := .down, lanes := 0, downAt := none })).event 0x020A (n - 11) (n - 11)).dropPort (n - 11)

def State.auditLink (s : State) (l : Nat) : State :=
  let x := tget {} s.aud.links l
  let diff := (x.free.toNat + x.occ.toNat + x.inflight.toNat : Int) - x.total.toNat
  if diff = 0 then s
  else
    let s1 := (s.mismatch 5 (0x200 + l) diff).modAud (fun a => { a with links := tmod {} a.links l (fun x => { x with held := true }) })
    if l / 2 < 8 then
      (s1.partList.filter (fun p => usesBridge s1 p (l / 2))).foldl (fun s p => if (s.part p).cons then s else s.consPart p 5 diff s.time) s1
    else if x.held then s1 else s1.holdPort (l / 2)

def State.auditPoint (s : State) : State :=
  let period := if s.frm.period = 0 then 1200000 else s.frm.period.toNat
  let s1 := s.advanceTo ((s.time / period + 1) * period)
  let s2 := (List.range 30).foldl State.auditLink ([0, 1, 2, 3, 4].foldl State.auditDie s1)
  let lone := (s2.stm.streams.filter (fun e => !e.2.inRange || !(s2.part e.2.part.toNat).defined)).map (·.1)
  s2.each lone (fun s n => ((s.takeReload n).irqInterval n).records n)

def execModuleAuditPoint (s : State) : Host.Outcome State Fault Refusal := ok (s.live State.auditPoint)

end Sys2Proof.Machine
end

