-- ==== Sys2Proof/Machine/Host.lean ====
section
/-! DEFINITION. Register writes, host requests, SMBus and the state of the host link (00 R9, 10 R305 to R310, R314 to R320, 17 R481). -/
namespace Sys2Proof.Machine

/-! ## Host requests -/

/-- Count and latch a host access that reaches no location (10 R307). -/
def State.hostNowhere (s : State) (a : Nat) : State :=
  (s.event 0x0403 0 (fieldNat a 47 21)).modHlk (fun h => if h.errVal then h else { h with errVal := true, errAddr := BitVec.ofNat 48 a })

/-- Where a host request leads: a window address at or above 0x8000_0000_0000 reaches no location (R306). -/
def hostResolve (s : State) (a : Nat) (write : Bool) : Res := if hostBase ≤ a then .bus else resolve s none a write

/-- Write the pieces of a host request (R307): failing pieces write nothing. -/
def State.hostWrite (s : State) : List (Nat × Nat) → List Byte → State
  | [], _ => s
  | (a, n) :: l, b =>
    let s1 := match hostResolve s a true with
      | .at pa => s.wr pa (b.take n)
      | .reg => s.regWriteSpan a (b.take n)
      | _ => s.hostNowhere a
    State.hostWrite s1 l (b.drop n)

/-- Read the pieces of a host request: `none` is Completer Abort. -/
def State.hostRead (s : State) : List (Nat × Nat) → Option (List Byte) × State
  | [] => (some [], s)
  | (a, n) :: l =>
    let r := match hostResolve s a false with
      | .at pa => (some (s.rd pa n), s)
      | .reg => let x := s.regReadSpan a n; (some x.1, x.2)
      | _ => (none, s.hostNowhere a)
    let q := State.hostRead r.2 l
    (match r.1, q.1 with | some x, some y => some (x ++ y) | _, _ => none, q.2)

def State.hostReply (r : Option (List Byte) × State) : State :=
  r.2.modHlk (fun h => { h with reply := r.1.getD [], aborted := r.1.isNone })

/-- Device addresses of the fixed page and the window (R305, R306). -/
def pageBase : Nat := 0x300000080000
def pageBytes : Nat := 0x10000
def windowBytes : Nat := 0x10000000

/-- A host request (R305 to R307). -/
def State.hostReq (s : State) (r : HostReq) : State :=
  match r with
  | .writePage off data => if off + data.length ≤ pageBytes then s.hostWrite (linesOf (pageBase + off) data.length) data else s
  | .readPage off len => if off + len ≤ pageBytes then State.hostReply (s.hostRead (linesOf (pageBase + off) len)) else s
  | .writeWindow off data =>
    if off + data.length ≤ windowBytes then s.hostWrite (linesOf (s.hlk.winBase.toNat + off) data.length) data else s
  | .readWindow off len =>
    if off + len ≤ windowBytes then State.hostReply (s.hostRead (linesOf (s.hlk.winBase.toNat + off) len)) else s

/-- The pieces of a host request, and whether it writes. -/
def hostPieces (s : State) : HostReq → List (Nat × Nat) × Bool
  | .writePage off data => (linesOf (pageBase + off) data.length, true)
  | .readPage off len => (linesOf (pageBase + off) len, false)
  | .writeWindow off data => (linesOf (s.hlk.winBase.toNat + off) data.length, true)
  | .readWindow off len => (linesOf (s.hlk.winBase.toNat + off) len, false)

/-- Some line of a request waits: on a board port that trains (08 R264), or on the host link (R314). -/
def reqWaits (s : State) : HeldReq → Bool
  | .host r => (hostPieces s r).1.any (fun x => hostResolve s x.1 (hostPieces s r).2 == .wait)
  | .peer r => (match r.req with
    | .write a d => a % 64 = 0 && (linesOf a d.length).any (fun x => resolve s none x.1 true == .wait)
    | .read a k => a % 64 = 0 && (linesOf a k).any (fun x => resolve s none x.1 false == .wait)
    | .addw _ _ | .count _ _ => false)
  | .smbWrite a _ => (linesOf a 8).any (fun x => resolve s none x.1 true == .wait)
  | .smbRead a => (linesOf a 8).any (fun x => resolve s none x.1 false == .wait)

/-- A link holds a request until it is up again, and loses none (R314; 08 R264). -/
def State.holdReq (s : State) (r : HeldReq) : State := s.modHlk (fun h => { h with heldReqs := h.heldReqs ++ [r] })

/-- The host memory that a peer's request reaches, which the host link may hold (R314). -/
def peerToHost : PeerReq → Bool
  | .write a _ | .read a _ => a % 64 = 0 && inHost a
  | .addw _ _ | .count _ _ => false

def execPeerRequest (r : PeerIn) (s : State) : Host.Outcome State Fault Refusal :=
  ok (s.live (fun s => if (linkHolds s && peerToHost r.req) || reqWaits s (.peer r) then s.holdReq (.peer r) else s.peerRequest r))

/-! ## SMBus (17 R481) -/

/-- The module answers its address from stage FW on. -/
def smbAnswers (s : State) : Bool := s.alive && s.pwr.stage != .rom

def State.smbWrite (s : State) (addr : Nat) (val : W64) : State :=
  if regBase ≤ addr ∧ addr < regEnd then s.regWrite1 addr (leBytes 8 val.toNat) else (s.writeAny none addr (leBytes 8 val.toNat)).2

/-- Command 0x10: write 64 bits. -/
def execSmbWrite (addr : Nat) (val : W64) (s : State) : Host.Outcome State Fault Refusal :=
  if smbAnswers s then ok (if (linkHolds s && inHost addr) || reqWaits s (.smbWrite addr val) then s.holdReq (.smbWrite addr val) else s.smbWrite addr val)
  else ok s

/-- Command 0x11: set the read address. -/
def execSmbSetReadAddress (addr : Nat) (s : State) : Host.Outcome State Fault Refusal :=
  if smbAnswers s then ok (s.modPwr (fun w => { w with smbAddr := BitVec.ofNat 64 addr })) else ok s

/-- What a read of 64 bits returns; of an access that reaches no location it is open (a free value). -/
def State.smbRead (s : State) (a : Nat) : State :=
  let r := if regBase ≤ a ∧ a < regEnd then (let x := s.regRead1 a 8; ((.ok x.1 : Except Res (List Byte)), x.2)) else s.readAny none a 8
  match r with
  | (.ok b, s1) => s1.modPwr (fun w => { w with smbData := BitVec.ofNat 64 (leNat b) })
  | (.error _, s1) =>
    (s1.modPwr (fun w => { w with smbData := BitVec.ofNat 64 (leNat ((List.range 8).map (Config.raceByte s.draw))) })).drawNext

/-- Command 0x12: read 64 bits. -/
def execSmbRead (s : State) : Host.Outcome State Fault Refusal :=
  if smbAnswers s then
    let a := s.pwr.smbAddr.toNat
    ok (if (linkHolds s && inHost a) || reqWaits s (.smbRead a) then s.holdReq (.smbRead a) else s.smbRead a)
  else ok s

/-! ## Losses, retrains and the way up (R314 to R320) -/

/-- A held request is carried out. -/
def State.runHeld (s : State) : HeldReq → State
  | .host r => s.hostReq r
  | .peer r => s.peerRequest r
  | .smbWrite a v => s.smbWrite a v
  | .smbRead a => s.smbRead a

/-- A held request is carried out, unless it waits on. -/
def State.tryHeld (s : State) (r : HeldReq) : State := if reqWaits s r then s.holdReq r else s.runHeld r

/-- The requests whose wait is over are carried out, in order (R314; 08 R264); while the host link holds, those of the host are not among them. -/
def State.releaseHeld (s : State) : State :=
  if s.hlk.heldReqs.isEmpty then s else s.hlk.heldReqs.foldl (fun s r => if (match r with | .host _ => linkHolds s | .peer q => linkHolds s && peerToHost q.req | _ => false)
    then s.holdReq r else s.tryHeld r) (s.modHlk (fun h => { h with heldReqs := [] }))

/-- Host requests arrive while the host link is not down; a link that trains again, or is down for less than 10 ms, holds them (R314). -/
def execHostRequest (r : HostReq) (s : State) : Host.Outcome State Fault Refusal :=
  ok (s.live (fun s => if linkHolds s then s.holdReq (.host r) else if s.hlk.state == .down then s
    else if reqWaits s (.host r) then s.holdReq (.host r) else (s.hostReq r).releaseHeld))

/-- A request that the host made and the adapter has accepted. -/
def HeldReq.ofHost : HeldReq → Bool
  | .host _ => true
  | _ => false
def HeldReq.hostWrite : HeldReq → Bool
  | .host (.writePage _ _) | .host (.writeWindow _ _) => true
  | _ => false

/-- A loss of the host link (R316 to R318): host writes that the adapter had accepted are carried out, host reads are not completed, and
what others had asked of host memory fails. -/
def State.hostLoss (s : State) (cause : Nat) : State :=
  let held := s.hlk.heldReqs
  let s0 := (held.filter HeldReq.hostWrite).foldl State.tryHeld (s.modHlk (fun h => { h with heldReqs := [] }))
  let s1 := s0.failUnacked.modHlk (fun h =>
    { h with epoch := h.epoch + 1, needhs := true, cause := BitVec.ofNat 4 cause, lossTime := BitVec.ofNat 64 s.time, sent := 0,
             losses := satAdd h.losses 1, downAt := if cause = 2 then none else h.downAt, trainAt := if cause = 2 then none else h.trainAt })
  let s2 := s1.event 0x0402 0 cause
  let s3 := s2.each (s.stm.streams.map (·.1)) State.loseStream
  (held.filter (fun r => !r.ofHost)).foldl State.tryHeld s3

/-- One write of `width` bytes to a register address by a master of the module (00 R9, R10). -/
def execRegisterWrite (addr width : Nat) (val : W64) (s : State) : Host.Outcome State Fault Refusal :=
  ok (s.live (fun s =>
    if regBase ≤ addr ∧ addr < regEnd then (s.regWrite1 addr (leBytes (Min.min width 64) val.toNat)).releaseHeld else s))

/-- The adapter reports a host reset (R316). -/
def execHostReset (s : State) : Host.Outcome State Fault Refusal := ok (s.live (fun s => s.hostLoss 1))

/-- The link has been down for 10 ms without coming up again (R316), by itself, retraining or held down by the ledger (16 R446). -/
def execHostLinkDownTimeout (s : State) : Host.Outcome State Fault Refusal :=
  ok (s.live (fun s =>
    if s.hlk.state == .down && s.hlk.downAt.isNone then s
    else
      let s1 := if s.hlk.state == .up then s.hlkDown .down else s
      ((s1.advanceTo (s1.hlk.downAt.getD s1.time + 12000000)).modHlk (fun h => { h with state := .down, lanes := 0 })).hostLoss 2))

/-- The host link trains on the lanes that answer. Where it comes up: the retrain is counted, the HLK_IRQ vector is the one message before
a handshake, and all that was held goes on (R314, R315, R320). -/
def State.hlkTrained (s : State) (got : BitVec 8) : State :=
  let s1 := s.trainPort .hlk got
  if s1.hlk.state != .up then s1
  else
    let s2 := match s.hlk.trainAt with
      | some t => (s1.modHlk (fun h => { h with retrains := satAdd h.retrains 1 })).event 0x0400 0 ((s.time - t) / 1200)
      | none => s1
    let s3 := s2.modHlk (fun h =>
      { h with downAt := none, trainAt := none, msix := if h.needhs && h.irqEn then h.irqVec :: h.msix else h.msix })
    let s4 := s3.releaseHeld
    s4.each (s4.stm.streams.map (·.1)) State.recordsNow

def execHostLinkUp (lanes : BitVec 4) (s : State) : Host.Outcome State Fault Refusal :=
  ok (s.live (fun s => if s.hlk.state == .up || !mayTrain s 8 then s else s.hlkTrained (lanes.zeroExtend 8)))

/-- A retrain of the host link, `us` microseconds long, holds accesses and ends up again (R314). -/
def execHostLinkRetrain (us : Nat) (s : State) : Host.Outcome State Fault Refusal :=
  ok (s.live (fun s =>
    if us < 10000 && s.hlk.state != .down && mayTrain s 8 then
      let s1 := if s.hlk.trainAt.isSome then s else s.hlkDown .training
      (s1.advanceTo (s1.hlk.trainAt.getD s1.time + 1200 * us)).hlkTrained 0xF
    else s))

/-- A lane fails training: the port comes up on the pair that remains (R315). -/
def execHostLaneFailure (lane : Nat) (s : State) : Host.Outcome State Fault Refusal :=
  ok (s.live (fun s => if lane < 4 && mayTrain s 8 then (if s.hlk.state == .up then s.hlkDown .training else s).hlkTrained (0xF &&& ~~~ BitVec.ofNat 8 (2 ^ lane)) else s))

/-! ## Board ports (08 R264, R267) -/

/-- A board port retrains and comes up again; what waited for it is carried out. -/
def execBoardPortRetrain (n us : Nat) (s : State) : Host.Outcome State Fault Refusal :=
  ok (s.live (fun s => if us < 10000 then (s.retrainBmp n us).releaseHeld else s))

/-- A board port not up 10 ms after it went down (R264), also one that the command finds up: it has gone down and not come up again. Its
waiting accesses end in BUS_ERROR. -/
def execBoardPortDown (n : Nat) (s : State) : Host.Outcome State Fault Refusal :=
  ok (s.live (fun s =>
    let q := s.bmpOf n
    if n < 4 && q.enable && q.state != .down && q.state != .disabled then
      ((((s.advanceTo (q.downAt.getD s.time + 12000000)).modBmp n (fun b =>
        { b with state := .down, lanes := 0, downAt := none })).event 0x020A n n).dropPort n).releaseHeld
    else s))

def execBmpEnable (n : Nat) (en : Bool) (s : State) : Host.Outcome State Fault Refusal :=
  ok (s.live (fun s => if n < 4 then (s.bmpEnableTo n en).releaseHeld else s))

end Sys2Proof.Machine
end

