-- ==== Sys2Proof/Machine/Bits.lean ====
section
/-! DEFINITION. The fields of a bit-stream and the checks that need nothing but the bit-stream (07 R190 to R207, R217, R495, R496; 08 R240,
R251). -/
namespace Sys2Proof.Machine

/-! ## Reading with checks: a failure is a REASON and the byte offset of the failing field (R217) -/

abbrev LM := Except (Nat × Nat)

def lneed (c : Bool) (reason off : Nat) : LM Unit := if c then .ok () else .error (reason, off)

/-- A section: its offset and length in the bit-stream, and the device address of the bit-stream. -/
structure Sec where
  base : Nat
  off  : Nat
  len  : Nat
deriving DecidableEq, Repr

def Sec.addr (x : Sec) : Nat := x.base + x.off

/-- `n` bytes from `o` on lie within the section. -/
def Sec.inside (x : Sec) (o n : Nat) : LM Unit := lneed (decide (o + n ≤ x.len)) 6 (x.off + o)

def Sec.u (s : State) (x : Sec) (o n : Nat) : LM Nat :=
  if o + n ≤ x.len then .ok (s.rdN (x.addr + o) n) else .error (6, x.off + o)

/-- A reserved field is zero. -/
def Sec.zero (s : State) (x : Sec) (o n : Nat) : LM Unit := do x.inside o n; lneed (isZero (s.rd (x.addr + o) n)) 6 (x.off + o)

def Sec.need (x : Sec) (c : Bool) (o : Nat) : LM Unit := lneed c 6 (x.off + o)

/-- What a pointer or a count at `field` names lies within the section; else that field is the failing one. -/
def Sec.spans (x : Sec) (o n field : Nat) : LM Unit := lneed (decide (o + n ≤ x.len)) 6 (x.off + field)

/-- The running sum of values, each with the offset of its field, stays within a limit; the field that takes it past is the failing one. -/
def within1 (limit reason : Nat) : Nat → List (Nat × Nat) → LM Unit
  | _, [] => .ok ()
  | acc, (v, o) :: l => if limit < acc + v then .error (reason, o) else within1 limit reason (acc + v) l

/-- A step for each of `n` items; it gives a value and the place of the next item. -/
def items {α : Type} (f : Nat → LM (α × Nat)) : Nat → Nat → LM (List α × Nat)
  | 0, o => .ok ([], o)
  | n + 1, o =>
    match f o with
    | .error e => .error e
    | .ok (a, o1) =>
      match items f n o1 with
      | .error e => .error e
      | .ok (l, o2) => .ok (a :: l, o2)

/-- What a bit-stream declares, with the offsets later checks name. -/
structure Image where
  isPartial : Bool := false
  delete  : Bool := false
  part    : Nat := 0
  serial  : W64 := 0
  period  : Nat := 0
  xmod    : Nat := 0
  parts   : List (Nat × Part) := []
  routes  : List Route := []
  ranges  : List SRange := []
  spares  : List Nat := []
  auto    : Bool := false
  parlim  : Nat := 0
  /-- Clusters with the offsets of their list entries, offsets of the range records, and of TIMING. -/
  cloc    : List (Nat × Nat) := []
  rloc    : List Nat := []
  tloc    : Nat := 0
  /-- Offsets of each partition's GEOMETRY and TIERS record. -/
  gloc    : List (Nat × Nat) := []
  qloc    : List (Nat × Nat) := []
  /-- Offset and anchor of SIGNATURE. -/
  sigOff  : Nat := 0
  anchor  : Nat := 0
deriving DecidableEq, Repr

def Image.has (i : Image) (p : Nat) : Bool := i.parts.any (fun e => e.1 = p)
def Image.modPart (i : Image) (p : Nat) (f : Part → Part) : Image :=
  { i with parts := i.parts.map (fun e => if e.1 = p then (e.1, f e.2) else e) }
def Image.partOf (i : Image) (p : Nat) : Part := ((i.parts.find? (fun e => e.1 = p)).map (·.2)).getD {}

/-! ## Header and directory (R190, R191) -/

def fullTypes : List Nat := [1, 2, 3, 4, 5, 6, 7, 0xFF]
def wantedTypes (isPartial delete : Bool) : List Nat :=
  if delete then [1, 0xFF] else if isPartial then [1, 2, 3, 4, 5, 7, 0xFF] else fullTypes

def readHeader (s : State) (h : Sec) : LM Image := do
  lneed (s.rd h.base 4 == [0x51#8, 0x46, 0x42, 0x53]) 1 0
  lneed (decide (64 ≤ h.len)) 4 8
  lneed (decide (s.rdN (h.base + 5) 1 = 1)) 2 4
  lneed (decide (s.rdN (h.base + 6) 2 = 0x1152)) 3 6
  lneed (decide (s.rdN (h.base + 8) 8 = h.len)) 4 8
  lneed (decide (h.len % 64 = 0) && decide (h.len ≤ 2 ^ 32)) 6 8
  let fl := s.rdN (h.base + 0x10) 4
  let par := bitAt fl 0
  let del := bitAt fl 1
  let p := s.rdN (h.base + 0x14) 1
  h.need (decide (fl < 4) && (par || !del)) 0x10
  h.need (if par then decide (p ≤ 63) else decide (p = 0)) 0x14
  let n := s.rdN (h.base + 0x15) 1
  h.need (decide (2 ≤ n) && decide (n ≤ 8)) 0x15
  h.zero s 0x16 2
  h.zero s 0x28 24
  pure { isPartial := par, delete := del, part := p, serial := BitVec.ofNat 64 (s.rdN (h.base + 0x18) 8) }

/-- Entries from `e` on; `t` and `o` are the TYPE before and the end of the section before. -/
def readDir (s : State) (h : Sec) : Nat → Nat → Nat → Nat → LM (List (Nat × Sec))
  | 0, _, _, _ => .ok []
  | n + 1, e, t, o =>
    match (do
      let ty ← h.u s e 2
      h.zero s (e + 2) 2
      let len ← h.u s (e + 4) 4
      let off ← h.u s (e + 8) 8
      h.need (fullTypes.contains ty) e
      h.need (decide (off % 64 = 0) && decide (off + len ≤ h.len)) (e + 8)
      lneed (decide (t < ty)) 5 e
      lneed (decide (o ≤ off)) 5 (e + 8)
      pure (ty, { base := h.base, off := off, len := len : Sec }) : LM (Nat × Sec)) with
    | .error x => .error x
    | .ok a =>
      match readDir s h n (e + 16) a.1 (a.2.off + a.2.len) with
      | .error x => .error x
      | .ok l => .ok (a :: l)

def secOf (l : List (Nat × Sec)) (t : Nat) : Sec := ((l.find? (fun e => e.1 = t)).map (·.2)).getD { base := 0, off := 0, len := 0 }

/-! ## GEOMETRY (R192 to R194) -/

def readClusters (s : State) (g : Sec) (clist : Nat) (n : Nat) : LM (List (Nat × Nat)) := do
  let r ← items (fun o => do
    let c ← g.u s o 2
    g.need (decide (c < 640)) o
    pure ((c, g.off + o), o + 2)) n clist
  pure r.1

/-- Every cluster at most once: the offset of the first that repeats one of `seen` or an earlier one (R193). -/
def onceOnly : List Nat → List (Nat × Nat) → LM Unit
  | _, [] => .ok ()
  | seen, (c, o) :: l => if seen.contains c then .error (7, o) else onceOnly (c :: seen) l

def readGeom1 (s : State) (g : Sec) (i : Image) (r : Nat) : LM Image := do
  let p ← g.u s r 1
  let home ← g.u s (r + 1) 1
  let nc ← g.u s (r + 2) 2
  let clist ← g.u s (r + 4) 4
  let seed ← g.u s (r + 8) 8
  let wmap ← g.u s (r + 0x10) 4
  g.zero s (r + 0x14) 12
  g.need (decide (p ≤ 63) && (!i.isPartial || p = i.part) && !i.has p) r
  g.need (decide (home ≤ 3)) (r + 1)
  g.need (decide (nc ≤ 640) && (decide (1 ≤ nc) || i.delete)) (r + 2)
  g.spans clist (2 * nc) (r + 4)
  g.spans wmap (128 * nc) (r + 0x10)
  let cl ← readClusters s g clist nc
  onceOnly (i.cloc.map (·.1)) cl
  lneed (nc = 0 || cl.any (fun c => c.1 / 160 = home)) 8 (g.off + r + 1)
  let widths := (List.range nc).map (fun j => (List.range 64).map (fun a => BitVec.ofNat 16 (s.rdN (g.addr + wmap + 128 * j + 2 * a) 2)))
  let q : Part := { defined := true, home := home, clusters := cl.map (·.1), seed := BitVec.ofNat 64 seed, widths := widths }
  pure { i with cloc := i.cloc ++ cl, gloc := i.gloc ++ [(p, g.off + r)], parts := i.parts ++ [(p, q)] }

/-- Thread an image through `n` records of `len` bytes. -/
def records1 (f : Image → Nat → LM Image) (len : Nat) : Nat → Nat → Image → LM Image
  | 0, _, i => .ok i
  | n + 1, o, i => match f i o with | .error e => .error e | .ok j => records1 f len n (o + len) j

def readGeom (s : State) (g : Sec) (i : Image) : LM Image := do
  let n ← g.u s 0 1
  g.need (decide (1 ≤ n) && decide (n ≤ 64) && (!i.isPartial || n = 1)) 0
  g.zero s 1 7
  let j ← records1 (readGeom1 s g) 32 n 8 i
  let _ ← [0, 1, 2, 3].mapM (fun d => within1 32 8 0 (j.parts.map (fun e => (b2n (decide (e.2.home = d)), tget 0 j.gloc e.1 + 1))))
  pure j

/-! ## ROUTES (R195, R196, R199, R495) -/

def readRoute (s : State) (x : Sec) (i : Image) (o : Nat) : LM (Image × Nat) := do
  let src ← x.u s o 2
  let dst ← x.u s (o + 2) 2
  let p ← x.u s (o + 4) 1
  let n ← x.u s (o + 5) 1
  x.zero s (o + 6) 2
  x.need (endpointOf src).isSome o
  x.need (endpointOf dst).isSome (o + 2)
  x.need (p ≠ 0xFF || !i.isPartial) (o + 4)
  x.need (p = 0xFF || i.has p) o
  x.need (decide (1 ≤ n) && decide (n ≤ 4)) (o + 5)
  x.spans (o + 8) (4 * n) (o + 5)
  let _ ← items (fun k => do
    let v ← x.u s k 4
    x.need (decide (fieldNat v 13 0 = 0)) k
    pure ((), k + 4)) n (o + 8)
  let r : Route := { src := src, dst := dst, segs := (List.range n).map (fun k => BitVec.ofNat 32 (s.rdN (x.addr + o + 8 + 4 * k) 4)) }
  x.need (routeOk r) o
  pure ((if p = 0xFF then { i with routes := i.routes ++ [r] } else i.modPart p (fun q => { q with routes := q.routes ++ [r] })),
    o + (8 + 4 * n + 7) / 8 * 8)

def readRoutes1 (s : State) (x : Sec) : Nat → Nat → Image → LM (Image × Nat)
  | 0, o, i => .ok (i, o)
  | n + 1, o, i => match readRoute s x i o with | .error e => .error e | .ok j => readRoutes1 s x n j.2 j.1

def readQueue (s : State) (x : Sec) (i : Image) (o : Nat) : LM Image := do
  let p ← x.u s o 1
  let qid ← x.u s (o + 1) 1
  let c ← x.u s (o + 2) 2
  let prod ← x.u s (o + 4) 2
  let cons ← x.u s (o + 6) 2
  let entry ← x.u s (o + 8) 4
  let line ← x.u s (o + 12) 4
  x.need (i.has p) o
  x.need (decide (qid ≤ 63) && !((i.partOf p).queues.any (fun e => e.1 = qid))) (o + 1)
  x.need (decide (1 ≤ c)) (o + 2)
  let n := 16 * (i.partOf p).clusters.length
  x.need (decide (prod < n)) (o + 4)
  x.need (decide (cons < n)) (o + 6)
  x.need (decide (0 < entry) && decide (entry % 64 = 0)) (o + 8)
  x.need (decide (64 * line + c * entry ≤ 0x400000)) (o + 12)
  let z : Queue := { c := BitVec.ofNat 16 c, prod := prod, cons := cons, entry := entry, bufline := line, credits := c }
  pure (i.modPart p (fun q => { q with queues := tput q.queues qid z }))

def readRoutes (s : State) (x : Sec) (i : Image) : LM Image := do
  let nr ← x.u s 0 4
  let nq ← x.u s 4 4
  x.zero s 8 8
  let r ← readRoutes1 s x nr 16 i
  records1 (readQueue s x) 16 nq r.2 r.1

/-! ## TIERS, STREAMS, TIMING, SPARES (R200 to R203) -/

/-- The first partition without its record, if there is one, fails at the section's head (R496). -/
def each1 (i : Image) (seen : List Nat) (off : Nat) : LM Unit := lneed (i.parts.all (fun e => seen.contains e.1)) 6 off

def readTier (s : State) (x : Sec) (i : Image × List Nat) (o : Nat) : LM (Image × List Nat) := do
  let p ← x.u s o 1
  let mode ← x.u s (o + 1) 1
  x.inside o 32
  x.zero s (o + 0x0C) 4
  x.zero s (o + 0x18) 8
  x.need (i.1.has p && !i.2.contains p) o
  x.need (decide (mode ≤ 1)) (o + 1)
  lneed (mode = 1 || decide ((i.1.partOf p).clusters.length ≤ 160)) 9 (x.off + o + 1)
  let pt := s.rdN (x.addr + o + 0x10) 8
  x.need (decide (pt % 0x8000 = 0) && inStacked pt 0x8000) (o + 0x10)
  pure ({ i.1.modPart p (fun q =>
    { q with mode := decide (mode = 1), stackMask := BitVec.ofNat 16 (s.rdN (x.addr + o + 2) 2), hbmQuota := s.rdN (x.addr + o + 4) 4,
             boardQuota := s.rdN (x.addr + o + 8) 4, ptBase := BitVec.ofNat 48 pt }) with qloc := i.1.qloc ++ [(p, x.off + o)] }, p :: i.2)

def readTimes (s : State) (x : Sec) (i : Image × List Nat) (o : Nat) : LM (Image × List Nat) := do
  let p ← x.u s o 1
  let m ← x.u s (o + 1) 1
  let g ← x.u s (o + 2) 1
  x.zero s (o + 3) 1
  x.need (i.1.has p && !i.2.contains p) o
  x.need (decide (g ≤ 15) || g = 0xFF) (o + 2)
  pure (i.1.modPart p (fun q =>
    { q with mult := BitVec.ofNat 8 m, locked := decide (g ≠ 0xFF), lgrp := if g = 0xFF then 0 else BitVec.ofNat 4 g }), p :: i.2)

def seen1 (f : Image × List Nat → Nat → LM (Image × List Nat)) (len : Nat) : Nat → Nat → Image × List Nat → LM (Image × List Nat)
  | 0, _, i => .ok i
  | n + 1, o, i => match f i o with | .error e => .error e | .ok j => seen1 f len n (o + len) j

def readTiers (s : State) (x : Sec) (i : Image) : LM Image := do
  let n ← x.u s 0 1
  x.zero s 1 7
  let r ← seen1 (readTier s x) 32 n 8 (i, [])
  each1 r.1 r.2 x.off
  pure r.1

def readRange (s : State) (x : Sec) (i : Image) (o : Nat) : LM Image := do
  let first ← x.u s o 2
  let count ← x.u s (o + 2) 2
  let p ← x.u s (o + 4) 1
  let fl ← x.u s (o + 5) 1
  x.zero s (o + 6) 2
  x.need (decide (1 ≤ count) && decide (first + count ≤ 16384)) (o + 2)
  x.need (i.has p) o
  x.need (decide (fl < 8)) (o + 5)
  let pin := bitAt fl 0
  let k := fieldNat fl 2 1
  lneed (!pin || k = 0) 0xA (x.off + o + 5)
  lneed (!i.ranges.any (fun r => decide (r.first < first + count) && decide (first < r.first + r.count))) 0xA (x.off + o)
  pure { i with ranges := i.ranges ++ [{ first := first, count := count, part := p, pinned := pin, k := BitVec.ofNat 2 k }],
                rloc := i.rloc ++ [x.off + o] }

def readStreams (s : State) (x : Sec) (i : Image) : LM Image := do
  let n ← x.u s 0 2
  x.need (decide (1 ≤ n) && decide (n ≤ 16384)) 0
  x.zero s 2 6
  records1 (readRange s x) 8 n 8 i

def readTiming (s : State) (x : Sec) (i : Image) : LM Image := do
  let period ← x.u s 0 4
  x.need (decide (12000 ≤ period) && decide (period ≤ 12000000)) 0
  let n ← x.u s 4 1
  x.zero s 5 1
  let xm ← x.u s 6 2
  let r ← seen1 (readTimes s x) 4 n 8 ({ i with period := period, xmod := xm, tloc := x.off }, [])
  each1 r.1 r.2 (x.off + 4)
  pure r.1

def readSpares (s : State) (x : Sec) (i : Image) : LM Image := do
  let n ← x.u s 0 2
  let pol ← x.u s 2 1
  let lim ← x.u s 3 1
  x.zero s 4 4
  x.need (decide (pol ≤ 1)) 2
  x.spans 8 (2 * n) 0
  let cl ← readClusters s x 8 n
  onceOnly (i.cloc.map (·.1)) cl
  pure { i with spares := cl.map (·.1), auto := bitAt pol 0, parlim := lim }

/-! ## SCHEDULES (R204, R205, R251) -/

/-- A core entry of a frame record: fields in range, header and words within the section. -/
def checkCore (s : State) (x : Sec) (npci o : Nat) : LM (Unit × Nat) := do
  let pci ← x.u s o 2
  x.zero s (o + 2) 2
  let nw ← x.u s (o + 0xC) 4
  let w ← x.u s (o + 0x10) 8
  x.need (decide (pci < npci)) o
  lneed (decide (w + 256 + 16 * nw ≤ x.len)) 6 (x.off + o + 0x10)
  pure ((), o + 24)

def checkBank (s : State) (x : Sec) (nclu o : Nat) : LM (Unit × Nat) := do
  let pos ← x.u s o 2
  x.zero s (o + 2) 6
  x.need (decide (pos < nclu)) o
  pure ((), o + 72)

/-- A frame record. -/
def checkFrame (s : State) (x : Sec) (nclu o : Nat) : LM (Unit × Nat) := do
  let flen ← x.u s o 4
  let nc ← x.u s (o + 4) 2
  let ncore ← x.u s (o + 6) 2
  x.zero s (o + 8) 8
  x.need (decide (flen % 16 = 0) && decide (16 + 72 * nc + 24 * ncore ≤ flen)) o
  x.inside o flen
  let r ← items (checkBank s x nclu) nc (o + 16)
  let _ ← items (checkCore s x (16 * nclu)) ncore r.2
  pure ((), o + flen)

def readProgram (s : State) (x : Sec) (nclu : Nat) (l : List Program) (e : Nat) : LM (List Program) := do
  let pn ← x.u s e 1
  x.zero s (e + 1) 1
  let d ← x.u s (e + 2) 2
  let nf ← x.u s (e + 4) 4
  let sl ← x.u s (e + 8) 8
  let itab ← x.u s (e + 0x10) 8
  x.zero s (e + 0x18) 8
  x.need (decide (pn ≤ 63) && !l.any (fun g => g.prog = pn)) e
  x.need (decide (1 ≤ d)) (e + 2)
  let n := ((List.range 64).filter (fun k => sl.testBit k)).length
  x.spans itab (8 * n) (e + 0x10)
  let _ ← items (fun o => do
    let img ← x.u s o 8
    x.spans img 16 o
    let _ ← items (checkFrame s x nclu) d img
    pure ((), o + 8)) n itab
  x.spans (itab + 8 * n) (4 * nf) (e + 4)
  let _ ← items (fun o => do
    let v ← x.u s o 4
    x.need (decide (fieldNat v 30 23 = 0)) o
    pure ((), o + 4)) nf (itab + 8 * n)
  pure (l ++ [{ prog := pn, depth := d, footprint := nf, slots := BitVec.ofNat 64 sl, itab := x.addr + itab, fplist := x.addr + itab + 8 * n,
                sect := x.addr }])

def readPrograms (s : State) (x : Sec) (nclu : Nat) : Nat → Nat → List Program → LM (List Program)
  | 0, _, l => .ok l
  | n + 1, e, l => match readProgram s x nclu l e with | .error r => .error r | .ok k => readPrograms s x nclu n (e + 32) k

def readBlock (s : State) (x : Sec) (i : Image × List Nat) (o : Nat) : LM ((Image × List Nat) × Nat) := do
  let p ← x.u s o 1
  let n ← x.u s (o + 1) 1
  x.zero s (o + 2) 6
  let blen ← x.u s (o + 8) 8
  x.need (i.1.has p && !i.2.contains p) o
  x.need (decide (1 ≤ n) && decide (n ≤ 64)) (o + 1)
  x.need (decide (blen % 8 = 0) && decide (16 + 32 * n ≤ blen) && decide (o + blen ≤ x.len)) (o + 8)
  let l ← readPrograms s x (i.1.partOf p).clusters.length n (o + 16) []
  pure ((i.1.modPart p (fun q => { q with programs := l }), p :: i.2), o + blen)

def readBlocks1 (s : State) (x : Sec) : Nat → Nat → Image × List Nat → LM (Image × List Nat)
  | 0, _, i => .ok i
  | n + 1, o, i => match readBlock s x i o with | .error e => .error e | .ok j => readBlocks1 s x n j.2 j.1

def readSchedules (s : State) (x : Sec) (i : Image) : LM Image := do
  let n ← x.u s 0 1
  x.zero s 1 7
  let r ← readBlocks1 s x n 8 (i, [])
  each1 r.1 r.2 x.off
  pure r.1

/-! ## The whole bit-stream -/

def readSignature (s : State) (x : Sec) (i : Image) : LM Image := do
  let n ← x.u s 0 1
  let anchor ← x.u s 1 1
  x.zero s 2 2
  let clen ← x.u s 4 4
  x.need (decide (1 ≤ n) && decide (n ≤ 4)) 0
  x.need (decide (anchor ≤ 4)) 1
  x.spans 8 (64 + clen) 4
  pure { i with sigOff := x.off, anchor := anchor }

/-- The failing field of a directory: the first entry that is not the one wanted there, or NSECT where entries are missing at the end. -/
def wrongEntry (have_ want : List Nat) : Nat :=
  match (have_.zip want).findIdx? (fun e => e.1 ≠ e.2) with
  | some k => 0x40 + 16 * k
  | none => if have_.length ≤ want.length then 0x15 else 0x40 + 16 * want.length

/-- Every field of the bit-stream at `a`, of `len` bytes. -/
def readImage (s : State) (a len : Nat) : LM Image := do
  lneed (decide (a % 64 = 0) && decide (0 < len) && decide (len ≤ 2 ^ 32) && stackedOk s a len) 4 0
  let h : Sec := { base := a, off := 0, len := len }
  let i ← readHeader s h
  let n := s.rdN (a + 0x15) 1
  lneed (decide (0x40 + 16 * n ≤ len)) 6 0x15
  let d ← readDir s h n 0x40 0 (0x40 + 16 * n)
  let want := wantedTypes i.isPartial i.delete
  lneed (d.map (·.1) == want) 5 (wrongEntry (d.map (·.1)) want)
  let sg := secOf d 0xFF
  lneed (decide (sg.off + sg.len = len)) 6 (0x40 + 16 * (n - 1))
  let g ← readGeom s (secOf d 1) i
  let j ← if i.delete then pure g else (do
    let a1 ← readRoutes s (secOf d 2) g
    let a2 ← readTiers s (secOf d 3) a1
    let a3 ← readStreams s (secOf d 4) a2
    let a4 ← readTiming s (secOf d 5) a3
    let a5 ← if i.isPartial then pure a4 else readSpares s (secOf d 6) a4
    readSchedules s (secOf d 7) a5)
  readSignature s sg j

end Sys2Proof.Machine
end

