-- ==== Sys2Proof/Machine/Loads.lean ====
section
/-! DEFINITION. Loads of bit-streams: VERIFY, APPLY and DONE (06 R163, R164; 07 R211 to R218, R227, R230; 08 R263). -/
namespace Sys2Proof.Machine

/-! ## VERIFY: checks against the module (R28, R200, R201, R202, R213, R215, R217) -/

def partsAfter (s : State) (i : Image) : List (Nat × Part) :=
  if i.isPartial then s.parts.filter (fun e => e.2.defined && e.1 ≠ i.part) ++ (if i.delete then [] else i.parts) else i.parts

def rangesAfter (s : State) (i : Image) : List SRange :=
  if i.isPartial then s.cfg.ranges.filter (fun r => r.part ≠ i.part) ++ (if i.delete then [] else i.ranges) else i.ranges

/-- Pages a tier has present: stacked frames of pseudo-channels in the map, and board frames the ports report (08 R235, R262). -/
def presentS (s : State) : Nat := framesTotal - 1152 * sumNat (s.mig.map (fun e => (e.2.retired.filter (fun r => r.2 == some true)).length))
def presentB (s : State) : Nat := sumNat ([0, 1, 2, 3].map (fun n => (s.bmpOf n).frames.toNat))

/-- Limits of the module over what the load leaves in force (R28, R201, R202): what stays is counted first, then the image's records in their
order, so that the failing field is the HOME, COUNT or quota that takes a sum past its limit. -/
def limitCheck (s : State) (i : Image) : LM Unit := do
  let old := if i.isPartial then s.parts.filter (fun e => e.2.defined && e.1 ≠ i.part) else []
  let new := if i.delete then [] else i.parts
  let field := fun (f : Part → Nat) (loc : List (Nat × Nat)) (k : Nat) => new.map (fun e => (f e.2, tget 0 loc e.1 + k))
  let _ ← [0, 1, 2, 3].mapM (fun d =>
    within1 32 8 (old.filter (fun e => e.2.home = d)).length (field (fun q => b2n (decide (q.home = d))) i.gloc 1))
  let kept := if i.isPartial then s.cfg.ranges.filter (fun r => r.part ≠ i.part) else []
  within1 256 0xA (sumNat ((kept.filter (·.pinned)).map (·.count)))
    ((i.ranges.zip i.rloc).map (fun r => (if r.1.pinned then r.1.count else 0, r.2 + 2)))
  within1 (presentS s) 0xB (sumNat (old.map (·.2.hbmQuota))) (field (·.hbmQuota) i.qloc 4)
  within1 (presentB s) 0xB (sumNat (old.map (·.2.boardQuota))) (field (·.boardQuota) i.qloc 8)

/-- The cluster belongs to another partition or to SPARES (R215): a listed one that no partition's list holds is a spare, free or not. -/
def foreign (s : State) (p g : Nat) : Bool :=
  match partOfCluster s g with
  | some q => if (s.part q).defined && (s.part q).clusters.contains g then q ≠ p else s.cfg.spares.contains g
  | none => s.cfg.spares.contains g

def firstBad {α : Type} (bad : α → Bool) (reason : Nat) : List (α × Nat) → LM Unit
  | [] => .ok ()
  | (x, o) :: l => if bad x then .error (reason, o) else firstBad bad reason l

/-- A stream of an admitted LOAD_BITSTREAM command would leave the partition (R215). -/
def movesLoader (s : State) (i : Image) : Bool :=
  (streamNos s i.part).any (fun n => (s.stream n).cmds.any (fun c => opOf c = 0xA)
    && (i.delete || !i.ranges.any (fun r => decide (r.first ≤ n) && decide (n < r.first + r.count))))

def partialCheck (s : State) (i : Image) : LM Unit := do
  lneed (i.delete || i.period = s.frm.period.toNat) 0xC i.tloc
  lneed (i.delete || i.xmod = s.cfg.xmod.toNat) 0xC (i.tloc + 6)
  firstBad (foreign s i.part) 0x12 i.cloc
  firstBad (fun (r : SRange) => s.cfg.ranges.any (fun q => q.part ≠ i.part && decide (q.first < r.first + r.count) && decide (r.first < q.first + q.count)))
    0x12 (i.ranges.zip i.rloc)
  lneed (!movesLoader s i) 0x13 0 -- no field of the bit-stream fails: the stream is one it does not name

def anyRuns (s : State) : Bool := s.parts.any (fun e => e.2.defined && (e.2.state == .running || e.2.state == .late))

/-- Every check of VERIFY (R214): fields and limits, then digest and signature, then what depends on the module's present
configuration (notes/assumptions/18.md). The operand is what the SIGNATURE section certifies (notes/assumptions/10.md). -/
def verifyLoad (s : State) (r : LoadReq) (x : Seal) : LM Image := do
  let i ← readImage s r.src r.len
  limitCheck s i
  let sec := s.section_ (r.src + i.sigOff)
  lneed (sealCovers x (s.rd r.src i.sigOff) sec) 0xD (i.sigOff + 8)
  lneed (i.anchor = 0 || (tget none s.cfg.keys (i.anchor - 1)).isSome) 0xE (i.sigOff + 1)
  lneed (sealAnchored x s.cfg.keys i.anchor sec) 0xE (i.sigOff + 0x48)
  if i.isPartial then partialCheck s i else lneed (r.cmd.isNone && !anyRuns s) 0xF 0 -- a full load by command always fails (09 R295)
  pure i

/-- Status of a REASON (R217). -/
def reasonStatus (r : Nat) : Status := if r = 0xD ∨ r = 0xE then .signature else if r = 0x11 then .stopped else .bound

/-- The partition is down because its routes cross a faulty router (R227). -/
def routerDown (s : State) (p : Nat) : Bool :=
  let q := s.part p
  q.defined && (q.goDown || q.state == .down) && s.cfg.routerBad.any (usesRouter s p)

/-- Partial loads for such partitions go ahead, in the order they arrive (R227). -/
def State.orderLoads (s : State) : State :=
  let urgent := fun (r : LoadReq) => let p := headerPart s r; p ≠ 0xFF && routerDown s p
  s.modCfg (fun c => { c with queue := c.queue.filter urgent ++ c.queue.filter (fun r => !urgent r) })

def State.setHead (s : State) (f : LoadReq → LoadReq) : State :=
  s.modCfg (fun c => { c with queue := match c.queue with | r :: l => f r :: l | [] => [] })

/-- CFG_STAT takes the load that is past VERIFY for the last one (R229). -/
def State.showLoad (s : State) (p : Nat) : State :=
  s.modCfg (fun c => { c with status := .ok, reason := 0, part := BitVec.ofNat 8 p, offset := 0 })

def State.loadVerify (s : State) (x : Seal) : State :=
  match s.cfg.queue with
  | [] => s
  | r0 :: _ =>
    if r0.phase ≠ .idle || !headRuns s then s
    else
      let s1 := if r0.begun then s else s.orderLoads
      match s1.cfg.queue with
      | [] => s
      | r :: _ =>
        match verifyLoad s1 r x with
        | .error e => s1.failHead (reasonStatus e.1) e.1 (headerPart s1 r) (headerSerial s1 r) e.2
        | .ok i =>
          if i.isPartial then
            ((s1.setHead (fun r => { r with part := some i.part })).showLoad i.part).headPhase (if (s1.part i.part).defined then .wait else .drain)
          else (s1.showLoad 0xFF).headPhase .drain

def execLoadVerify (body : SigFact) (path : ChainFact) (s : State) : Host.Outcome State Fault Refusal :=
  ok (s.live (fun s => if s.fwRuns then s.loadVerify ⟨body, path⟩ else s))

/-! ## APPLY: page tables (08 R263) -/

/-- Numbers of the units of `n` bytes from `lo` on that hold a listed byte. -/
def unitsIn (m : Mem) (lo len n : Nat) : List Nat :=
  ((m.filter (fun e => decide (lo ≤ e.1) && decide (e.1 < lo + len))).map (fun e => (e.1 - lo) / n)).eraseDups

/-- Every leaf entry of a page table that is not all zero, with its page. -/
def leavesAt (s : State) (base : Nat) : List (Nat × Leaf) :=
  (unitsIn s.mem base 0x8000 8).flatMap (fun d =>
    let v := s.rdN (base + 8 * d) 8
    if bitAt v 0 then
      let t := fieldNat v 47 15 * 32768
      (unitsIn s.mem t 0x8000 16).map (fun k => (2048 * d + k, leafOf (s.rdN (t + 16 * k) 8) (s.rdN (t + 16 * k + 8) 8)))
    else [])

/-- A transient state as the settled one it is read as. -/
def settledState (l : Leaf) : Nat := match l.state with | 5 => 2 | 6 => 4 | 7 => l.prior | k => k

def holdsS (k : Nat) : Bool := k = 1 || k = 3 || k = 4
def holdsB (k : Nat) : Bool := k = 2 || k = 3 || k = 4

/-- Stacked and board frames that a page table claims. -/
def claimsS (l : List (Nat × Leaf)) : List (Nat × Nat) := (l.filter (fun e => holdsS (settledState e.2))).map (fun e => (e.2.sframe, e.1))
def claimsB (l : List (Nat × Leaf)) : List (Nat × Nat) := (l.filter (fun e => holdsB (settledState e.2))).map (fun e => (e.2.bframe, e.1))

def twice : List Nat → Bool
  | [] => false
  | x :: l => l.contains x || twice l

/-- The leaf entries are legal in themselves. -/
def leafLegal (s : State) (l : Leaf) : Bool :=
  let k := settledState l
  decide (l.state < 8) && (l.state ≠ 7 || holdsS l.prior) && (!holdsS k || decide (l.sframe < framesTotal))
    && (!holdsB k || decide (l.bframe % portFrames < (s.bmpOf (l.bframe / portFrames)).frames.toNat))

/-- A frame held by a page of a partition that is not among `ps`. -/
def foreignFrame (t : Tbl Nat) (ps : List Nat) (f : Nat) : Bool :=
  let v := tget 0 t f
  v ≠ 0 && v ≠ engineKey && !ps.contains (ownerPart v)

/-- The checks of R263 over the page tables of the partitions a load names. -/
def tablesOk (s : State) (l : List (Nat × Part)) : Bool :=
  let tabs := l.map (fun e => leavesAt s e.2.ptBase.toNat)
  let ps := l.map (·.1)
  let fs := (tabs.flatMap claimsS).map (·.1)
  let fb := (tabs.flatMap claimsB).map (·.1)
  tabs.all (fun t => t.all (fun e => leafLegal s e.2)) && !twice fs && !twice fb
    && fs.all (fun f => !foreignFrame s.sAlloc ps f && !inBoot s f) && fb.all (fun f => !foreignFrame s.bAlloc ps f)

/-- The frames of partition `p` are those its table claims; states are settled and pins are zero. -/
def State.adopt (s : State) (p : Nat) : State :=
  let ls := leavesAt s (s.part p).ptBase.toNat
  let mine := fun (e : Nat × Nat) => e.2 = engineKey || ownerPart e.2 ≠ p
  let s1 : State := { s with sAlloc := s.sAlloc.filter mine, bAlloc := s.bAlloc.filter mine }
  let s2 := (claimsS ls).foldl (fun s e => s.holdS e.1 (ownerKey p e.2)) s1
  let s3 := (claimsB ls).foldl (fun s e => s.holdB e.1 (ownerKey p e.2)) s2
  let s4 := ls.foldl (fun s e => s.writeLeaf p e.1 { e.2 with state := settledState e.2, pinS := 0, pinB := 0 }) s3
  s4.modPart p (fun q => { q with puseH := BitVec.ofNat 32 (usedS s4 p), puseB := BitVec.ofNat 32 (usedB s4 p) })

/-- Waiting copies and listed requests of the partition are cancelled; a frame an engine took for one is free. -/
def State.cancelCopies (s : State) (p : Nat) : State :=
  s.each [0, 1, 2, 3] (fun s d =>
    let gone := (s.migOf d).waiting.filter (fun c => c.part = p)
    (gone.foldl (fun s c => if c.frame = 0 then s else s.freeS (c.frame - 1)) s).modMig d (fun m =>
      { m with waiting := m.waiting.filter (fun c => c.part ≠ p), dlist := m.dlist.filter (fun r => r.part ≠ p) }))

def copiesRun (s : State) (ps : List Nat) : Bool := [0, 1, 2, 3].any (fun d => (s.migOf d).running.any (fun c => ps.contains c.part))

/-! ## APPLY: clusters (R84, R211, R215, R220) -/

/-- The cluster fails the check of R211. -/
def misfit (s : State) (g : Nat) (w : List (BitVec 16)) : Bool :=
  s.cfg.repRec.contains (.failedCluster g)
    || (List.range 64).any (fun a => (List.range 16).any (fun n => (w.getD a 0xFFFF).toNat.testBit n && badCol s g a n))

/-- Width records narrowed to a spare's lowest good columns (R220). -/
def narrowed (s : State) (x : Nat) (w : List (BitVec 16)) : List (BitVec 16) :=
  (List.range 64).map (fun a =>
    BitVec.ofNat 16 (((goodCols s x a).take (maskWidth (w.getD a 0xFFFF))).foldl (fun m n => m + 2 ^ n) 0))

/-- Configure a cluster for partition `p`: its width map, generators and TLB; core stores and shelf are zeroed unless they were copied.
The running-maximum registers, of which 02 R56 and 07 R215 do not speak, are +0 with the rest of the core (notes/assumptions/63.md). -/
def State.loadCluster (s : State) (g p : Nat) (w : List (BitVec 16)) (st : ClState) (clear : Bool) : State :=
  let s1 := s.modCluster g (fun _ => { state := st, part := BitVec.ofNat 6 p, widths := w })
  let s2 := if clear then ((s1.zero (shelfOf g) 0x400000).zero (coreBase (16 * g)) 0x200000) else s1
  let seed := (s.part p).seed
  let s3 := s2.each (List.range 16) (fun s i => s.modCore (16 * g + i) (fun _ => { gens := seedGens seed (16 * g + i) }))
  s3.each ((List.range 64).filter (fun a => decide (maskWidth (w.getD a 0xFFFF) < 8))) (fun s a => s.event 0x0A26 (64 * g + a) (maskWidth (w.getD a 0xFFFF)))

/-- A cluster leaves its partition. -/
def State.unassign (s : State) (g : Nat) : State :=
  s.modCluster g (fun k =>
    { k with state := if k.state == .failed then .failed else if s.cfg.routerBad.contains g then .routerFault else .unassigned,
             part := 0, frameOn := false, drainReq := false })

/-- A route record that names `g`, of the partition or of every partition, gives way to the default route (R221). -/
def State.dropRoutes (s : State) (p g : Nat) : State :=
  let keep := fun (r : Route) => r.src ≠ g && r.dst ≠ g
  (s.modPart p (fun q => { q with routes := q.routes.filter keep })).modCfg (fun c => { c with routes := c.routes.filter keep })

/-- Load position `j` of partition `p`: its cluster, or an eligible spare in its place (R211). -/
def State.loadPosition (s : State) (p j : Nat) : State :=
  let q := s.part p
  let g := q.clusters.getD j 0
  let w := q.widths.getD j []
  if !misfit s g w then s.loadCluster g p w .loading true
  else
    let st : ClState := if s.cfg.repRec.contains (.failedCluster g) then .failed else .unassigned
    let s1 := s.modCluster g (fun _ => { state := st })
    match (List.range 640).find? (spareOk s g w) with
    | none => s1.modPart p (fun q => { q with goDown := true })
    | some x =>
      let s2 := (s1.dropRoutes p g).modPart p (fun q => { q with clusters := q.clusters.set j x, relocs := q.relocs ++ [(g, x)] })
      (s2.event 0x0012 0 g).loadCluster x p (narrowed s x w) .loading true

/-! ## APPLY: streams, ledger, timing (R163, R213, R215; 16 R440, R441; 08 R253) -/

/-- Streams take the ranges in force; one that leaves its partition is HALTED for cause 4. -/
def State.rerange (s : State) : State :=
  s.each (s.stm.streams.map (·.1)) (fun s n =>
    let x := s.stream n
    let moved := match rangeOf s n with | some r => !x.inRange || x.part.toNat ≠ r.part | none => x.inRange
    let s1 := s.setRange n
    let s2 := if (s1.stream n).pinned && !x.pinned then s1.useEntry n else s1
    if x.state == .idle then s1 else if moved && x.live then s2.haltStream n 4 else s2.writeBack n)

/-- Concurrency slots that some program lists, and the largest footprint of each. -/
def listedSlots (q : Part) : List Nat := (List.range 64).filter (fun k => q.programs.any (fun g => g.slots.toNat.testBit k))
def slotPages (q : Part) (k : Nat) : Nat := ((q.programs.filter (fun g => g.slots.toNat.testBit k)).map (·.footprint)).foldl Max.max 0

/-- Totals and holdings of a partition afresh. -/
def State.ledgerInit (s : State) (p : Nat) : State :=
  let xs := (streamNos s p).map s.stream
  let cred := sumNat ((xs.filter (fun x => x.state != .idle)).map (fun x => x.credits.toNat))
  let held := sumNat (xs.map (fun x => x.cmds.length))
  s.modPart p (fun q =>
    let red := 4 * (listedSlots q).length
    let pages := sumNat ((listedSlots q).map (slotPages q))
    { q with credTotal := cred, credFree := cred - held, redTotal := red, redFree := red, pageTotal := pages, pageFree := pages, dmaHeld := 0 })

/-- Lock groups after a load: EN and XMOD. A full load starts every sequence anew but one taken from another module's master. -/
def State.regroup (s : State) (full : Bool) : State :=
  s.each (List.range 16) (fun s g =>
    let xm := s.cfg.xmod.toNat.testBit g
    let en := !(membersOf s g).isEmpty
    let old := s.group g
    let keep := !full || (xm && old.xmod && !isTimeMaster s.plk)
    s.modGroup g (fun x => { (if keep then x else {}) with en := en, xmod := xm }))

/-- A partition's place before APPLY fills it: what a load keeps of the old one. -/
def freshPart (old new : Part) (full : Bool) (period : Nat) : Part :=
  { new with state := .drained, next := if full then 0 else old.follow period, serial := old.serial,
             downFrom := if old.defined then old.downFrom else none }

/-- Put a deleted partition's place back to its reset values, but for CFG_PSERIAL. -/
def State.removePart (s : State) (p : Nat) : State := s.modPart p (fun q => { serial := q.serial })

/-- Spares reserved by repairs the load ends are spares again. -/
def State.dropRepairs (s : State) (p : Nat) : State :=
  (s.part p).repairs.foldl (fun s r =>
    match r.spare with
    | some x => s.modCluster x (fun k => if k.state == .loading then { k with state := .spare, part := 0 } else k)
    | none => s) s

/-- The old configuration of a partition gives way. -/
def State.clearPart (s : State) (p : Nat) : State :=
  let s1 := (s.dropRepairs p).returnAll p
  s1.each (s1.part p).clusters State.unassign

/-- Name the spares of a full load; a failed one loads without (R211). -/
def State.nameSpares (s : State) (l : List Nat) : State :=
  s.each l (fun s g => s.modCluster g (fun k =>
    { k with state := if s.cfg.repRec.contains (.failedCluster g) then .failed else .spare, part := 0, parity := 0 }))

def State.applyLoad (s : State) (i : Image) : State :=
  let full := !i.isPartial
  let old := if full then s.partList else [i.part]
  let s1 := s.each old State.clearPart
  let s2 := if full then
      ((s1.each (s1.clusters.map (·.1)) State.unassign).modCfg (fun c =>
        { c with spares := i.spares, auto := i.auto, parlim := i.parlim, xmod := BitVec.ofNat 16 i.xmod, routes := i.routes })).nameSpares i.spares
    else s1
  let s3 := s2.modCfg (fun c => { c with ranges := rangesAfter s i })
  let new := if i.delete then [] else i.parts
  let s4 := (s3.each (old.filter (fun p => !new.any (fun e => e.1 = p))) State.removePart)
  let s5 := new.foldl (fun s e => s.modPart e.1 (fun q => freshPart q e.2 full s4.frm.period.toNat)) s4
  let s6 := new.foldl (fun s e => s.adopt e.1) s5
  let s7 := new.foldl (fun s e => s.each (List.range e.2.clusters.length) (fun s j => s.loadPosition e.1 j)) s6
  let s8 := if full then s7.modFrm (fun f => { f with period := BitVec.ofNat 24 i.period }) else s7
  let s9 := (s8.rerange).regroup full
  let s10 := i.cloc.foldl (fun s c => s.modCluster c.1 (fun k => { k with parity := 0 })) s9
  (new.foldl (fun s e => s.ledgerInit e.1) s10).charge 0

/-! ## The steps -/

/-- APPLY may begin: the target is drained, and no repair is under way. -/
def applyReady (s : State) (r : LoadReq) : Bool :=
  (r.phase == .drain || r.phase == .apply) && !r.applied && !repairing s
    && (match r.part with
        | some p => !(s.part p).defined || (s.part p).state == .drained
        | none => !anyRuns s)

/-- A load that fails at the start of APPLY (R218). -/
def State.failApply (s : State) (r : LoadReq) (e : Nat × Nat) : State :=
  let s1 := s.failHead (reasonStatus e.1) e.1 (r.part.getD 0xFF) (headerSerial s r) e.2
  match r.part with
  | some p => s1.undrain p
  | none => s1

/-- The boot range in force is that of the full load that has applied, if it came from flash (17 R487). -/
def State.takeBoot (s : State) (r : LoadReq) : State :=
  if r.part.isSome then s else s.modCfg (fun c => { c with bootRange := if r.flash then some r.src else none })

def State.loadApply (s : State) : State :=
  match s.cfg.queue with
  | [] => s
  | r :: _ =>
    if !applyReady s r then s
    else
      match readImage s r.src r.len with
      | .error e => s.failApply r e
      | .ok i =>
        let named := if i.delete then [] else i.parts
        let touched := (if i.isPartial then [i.part] else s.partList ++ i.parts.map (·.1)).eraseDups
        let s1 := (touched.foldl State.cancelCopies s.sampleGroups).headPhase .apply
        if copiesRun s1 touched then s1
        else if !tablesOk s1 named then s1.failApply r (0x14, 0)
        else ((s1.applyLoad i).setHead (fun r => { r with applied := true })).takeBoot r

def execLoadApply (s : State) : Host.Outcome State Fault Refusal := ok (s.live (fun s => if s.fwRuns then s.loadApply else s))

/-- A loaded partition starts, or comes up down (R211, R214). What a load does that homes a partition on a die whose controller has failed the
manual does not say: it starts like any other (notes/assumptions/61.md). `first` is the module epoch where its ticks begin with it (06 R164). -/
def State.startPart (s : State) (p : Nat) (serial : W64) (first : Option Nat) : State :=
  let q := s.part p
  let s1 := q.clusters.foldl (fun s g => s.modCluster g (fun k => if k.state == .loading then { k with state := .assigned } else k)) s
  let s2 := s1.modPart p (fun q => { q with serial := serial, state := if q.goDown then .down else .running, goDown := false })
  let s3 := match first with
    | some e => s2.modPart p (fun q => { q with next := e, firstIdx := 0 })
    | none => s2.firstTick p q.next
  if q.goDown then (s3.modPart p (fun q => if q.next = 0 then q else { q with downFrom := some (q.downFrom.getD q.next) })).each (streamNos s3 p) (fun s n => s.haltStream n 3) else s3

/-- DONE of a full load: the module epoch, and group base tick 0 of every group that has no sequence and takes none from another module;
the epoch of a group across modules is set in shared time (06 R164). -/
def State.startAll (s : State) (serial : W64) : State :=
  let e := stepTo 0 s.frm.period.toNat (s.time + 2400)
  let s0 := (s.modFrm (fun f => { f with epoch := some e })).modPwr (fun w => { w with stage := .running })
  let fresh := (List.range 16).filter (fun g => let x := s.group g; x.en && !x.hasSeq && (!x.xmod || isTimeMaster s.plk))
  let at_ := fun (g : Nat) => if (s.group g).xmod then sharedGrid s (s.time + 2400) else e
  let s1 := s0.each fresh (fun s g => s.modGroup g (fun x => { x with hasSeq := true, next := at_ g, index := 0 }))
  s1.each s1.partList (fun s p =>
    let q := s.part p
    s.startPart p serial (if !q.locked then some e else if fresh.contains q.lgrp.toNat then some (at_ q.lgrp.toNat) else none))

def State.loadDone (s : State) : State :=
  match s.cfg.queue with
  | [] => s
  | r :: rest =>
    if !r.applied then s
    else
      let serial := headerSerial s r
      let s1 := match r.part with
        | some p => if (s.part p).defined then s.startPart p serial none else s.modPart p (fun q => { q with serial := serial })
        | none => s.startAll serial
      (s1.modCfg (fun c => { c with queue := rest, phase := .done })).endLoad r .ok 0 (r.part.getD 0xFF) serial 0

def execLoadDone (s : State) : Host.Outcome State Fault Refusal := ok (s.live (fun s => if s.fwRuns then s.loadDone else s))

end Sys2Proof.Machine
end

