-- ==== Sys2Proof/Machine/Repairs.lean ====
section
/-! DEFINITION. Failures and repairs in service: clusters, routers, die controllers, the ring, memory errors and poisoned lines (01 R30, R36;
07 R219 to R228; 08 R265; 16 R447 to R449). -/
namespace Sys2Proof.Machine

/-! ## PARTITION_DOWN from a failure (01 R30, R36; 07 R226, R227) -/

/-- The partition goes down at its next tick, or at once when no tick is coming. -/
def State.fall (s : State) (p : Nat) : State :=
  let q := s.part p
  if !q.defined || q.state == .down then s
  else if q.next = 0 then s.downPart p s.time
  else s.modPart p (fun q => { q with goDown := true })

def State.fallAll (s : State) (which : Part → Nat → Bool) : State :=
  s.each (s.partList.filter (fun p => which (s.part p) p)) State.fall

/-! ## Clusters (R219, R220) -/

/-- A cluster that belongs to no partition is out of use; a repair that had reserved it takes another spare. -/
def State.spareGone (s : State) (g : Nat) (st : ClState) : State :=
  let s1 := s.modCluster g (fun k => { k with state := st, part := 0 })
  s1.each s1.partList (fun s p =>
    let old := (s.part p).repairs.find? (fun r => r.spare = some g && decide (r.step < 4))
    match old with
    | none => s
    | some r =>
      let sp := chooseSpare s r.old (s.cluster r.old).widths
      let s1 := match sp with
        | some x => s.modCluster x (fun k => { k with state := .loading, part := BitVec.ofNat 6 p })
        | none => s
      (s1.modPart p (fun q => { q with repairs := q.repairs.map (fun x =>
        if x = r then { x with spare := sp, step := if sp.isNone then 1 else x.step } else x) })).modCfg
          (fun c => { c with rprNew := BitVec.ofNat 10 (sp.getD 0) }))

/-- The cluster belongs to a partition's cluster list. -/
def inPartition (s : State) (g : Nat) : Bool :=
  match partOfCluster s g with | some p => (s.part p).defined && (s.part p).clusters.contains g | none => false

/-- A cluster's sequencer reports it failed; one of no partition becomes FAILED and enters the repair record. -/
def State.failCluster (s : State) (g : Nat) : State :=
  if inPartition s g then
    let s1 := s.modCluster g (fun k => { k with failed := true })
    if s.cfg.auto && s.fwServes then s1.askRepair g true else s1
  else ((s.spareGone g .failed).repairAdd [.failedCluster g]).charge 0

def execClusterFailure (g : Nat) (s : State) : Host.Outcome State Fault Refusal :=
  ok (s.live (fun s => if g < 640 then s.failCluster g else s))

/-! ## Steps 2 to 4 of a repair (R221, R223, R224) -/

/-- Shelf and core stores of `g` to spare `x`, less what cannot be read. -/
def State.copyCluster (s : State) (g x : Nat) : State :=
  (s.copyMem (shelfOf g) (shelfOf x) 0x400000).copyMem (coreBase (16 * g)) (coreBase (16 * x)) 0x200000

/-- Lines lost, by number: 0 to 0xFFFF of the shelf, 0x10000 to 0x17FFF of the core stores. What the spare holds there is open. -/
def State.loseLines (s : State) (x : Nat) (lost : List Nat) : State :=
  (s.each lost (fun s i =>
    let a := if i < 0x10000 then shelfOf x + 64 * i else coreBase (16 * x) + 64 * (i - 0x10000)
    s.wr a ((List.range 64).map (fun j => Config.raceByte s.draw (64 * i + j))))).drawNext

/-- Queues with an end on this position of the partition. -/
def Queue.touches (q : Queue) (pos : Nat) : Bool := q.prod / 16 = pos || q.cons / 16 = pos

/-- The spare takes the cluster's place, and the old cluster leaves the partition. -/
def State.swapCluster (s : State) (p g x : Nat) (failed : Bool) : State :=
  let pos := (s.part p).clusters.idxOf g
  let w := narrowed s x (s.cluster g).widths
  let s1 := (s.sampleGroups.dropRoutes p g).modPart p (fun q =>
    { q with clusters := q.clusters.set pos x, widths := q.widths.set pos w, relocs := q.relocs ++ [(g, x)] })
  let s2 := s1.loadCluster x p w .assigned false
  let st : ClState := if failed then .failed else if s.cfg.routerBad.contains g then .routerFault else .unassigned
  let s3 := s2.modCluster g (fun _ => { state := st })
  if failed then s3.repairAdd [.failedCluster g] else s3

/-- Commands open in a partition that a lost line poisons. -/
def openCmds (s : State) (p : Nat) : List (Nat × BitVec 16) :=
  (streamNos s p).flatMap (fun n => ((s.stream n).cmds.filter (fun c => c.open && opOf c ≠ 0xA)).map (fun c => (n, c.seq)))

def State.repairWith (s : State) (p x : Nat) (lines : List Nat) (countsLost : Bool) (r : Repair) : State :=
  let lost := lines.length
  let pos := (s.part p).clusters.idxOf r.old
  let s1 := (s.copyCluster r.old x).swapCluster p r.old x r.failed
  let s2 := if lost = 0 then s1 else (s1.loseLines x lines).event 0x0015 0 lost
  let t := s2.time
  let s3 := s2.modPart p (fun q =>
    { q with repairs := q.repairs.map (fun y => if y.old = r.old then { y with step := 4, after := t } else y),
             doomed := if lost = 0 then q.doomed else q.doomed ++ openCmds s2 p,
             queues := if countsLost && decide (0 < lost) then q.queues.map (fun e => (e.1, if e.2.touches pos then e.2.reset else e.2)) else q.queues })
  let s4 := s3.modCfg (fun c =>
    { c with rprStatus := .ok, rprPhase := .done, rprLost := decide (0 < lost), rprFailed := r.failed, rprOld := BitVec.ofNat 10 r.old,
             rprNew := BitVec.ofNat 10 x, rprLines := BitVec.ofNat 28 (Min.min lost (2 ^ 28 - 1)) })
  (s4.event 0x0013 0 x).charge 0

/-- The cluster a repair waits for has drained (R221 step 1). -/
def repairReady (s : State) (r : Repair) : Bool :=
  r.step = 2 && (s.cluster r.old).state == .drained && !(s.cluster r.old).frameOn

def State.repairCopy (s : State) (p : Nat) (lost : List Nat) (countsLost : Bool) : State :=
  match (s.part p).repairs.find? (repairReady s) with
  | some r => (match r.spare with
    | some x => s.repairWith p x ((lost.filter (fun i => decide (i < 0x18000))).eraseDups) countsLost r
    | none => s)
  | none => s

def execRepairCopy (p : Nat) (lost : List Nat) (countsLost : Bool) (s : State) : Host.Outcome State Fault Refusal :=
  ok (s.live (fun s => if s.fwRuns && (s.part p).defined then s.repairCopy p lost countsLost else s))

/-! ## Routers, die controllers, the ring (R227; 01 R30, R36) -/

def State.failRouter (s : State) (g : Nat) : State :=
  let s1 := (s.modCfg (fun c =>
    { c with rtfVal := true, rtfRouter := if c.rtfVal then c.rtfRouter else BitVec.ofNat 10 g, routerBad := c.routerBad ++ [g] })).event 0x0016 0 g
  let s2 := if inPartition s1 g then s1.modCluster g (fun k => { k with state := .routerFault }) else s1.spareGone g .routerFault
  (s2.fallAll (fun _ p => usesRouter s2 p g)).charge 0

def execRouterFault (g : Nat) (s : State) : Host.Outcome State Fault Refusal :=
  ok (s.live (fun s => if decide (g < 640) && !s.cfg.routerBad.contains g then s.failRouter g else s))

/-- The controller of CDd fails (01 R36, R41): ALIVE reads 0, and the partitions homed there go down. -/
def State.failDie (s : State) (d : Nat) : State :=
  (s.modMgt (d + 1) (fun m => { m with alive := false, dead := true })).fallAll (fun q _ => q.home = d)

def execDieControllerFailure (d : Nat) (s : State) : Host.Outcome State Fault Refusal :=
  ok (s.live (fun s => if d < 4 then s.failDie d else s))

/-- A partition that uses a ring member (R30): a cluster of its list, or the controller of its home die. -/
def usesMember (q : Part) (m : Nat) : Bool :=
  (decide (0x1000 ≤ m) && q.clusters.contains (m - 0x1000)) || (decide (0x100 ≤ m) && decide (m < 0x1000) && q.home = m - 0x100)

def State.breakRing (s : State) (member : Nat) (ccw : Bool) (isolated : List Nat) : State :=
  let second := (s.mgtOf 0).breaks ≠ 0
  let s1 := s.each [0, 1, 2, 3, 4] (fun s d => s.modMgt d (fun m =>
    { m with breaks := satAdd m.breaks 1, ccwCut := m.ccwCut || ccw, cwCut := m.cwCut || !ccw, ccwOk := m.ccwOk && !ccw, cwOk := m.cwOk && ccw }))
  let s2 := s1.event 0x0003 member (b2n ccw)
  if second then s2.fallAll (fun q _ => isolated.any (usesMember q)) else s2

def execRingBreak (member : Nat) (ccw : Bool) (isolated : List Nat) (s : State) : Host.Outcome State Fault Refusal :=
  ok (s.live (fun s => s.breakRing member ccw isolated))

/-! ## Memory errors (16 R447 to R449, R466) -/

/-- Source and value of codes 0x0022 and 0x0023; the manual gives the controller and the engine of a compute die none, and the model takes 0
(DESIGN CHOICE, notes/assumptions/78.md). -/
def eccKey : EccPlace → Nat × Nat
  | .hbm a => (32 * stackOf a + pchOf (a / pageSize), a / pageSize)
  | .coreStore c => (0x1000 + clusterOfCore c, coreBase c / pageSize)
  | .shelf g off => (0x1000 + g, (shelfOf g + off % 0x400000) / pageSize)
  | .dieController _ => (0, 0)
  | .mpMemory | .ldSram => (0x2000, 0)
  | .schedule c => (0x1000 + clusterOfCore c, 0)
  | .bankMap g => (0x1000 + g, 0)
  | .tlb g _ page => if g < 640 then (0x1000 + g, page) else (0, page)

/-- The places whose correctable errors AUD_ECCPOL counts: pseudo-channels and clusters (R449). -/
def ceCounted : EccPlace → Bool
  | .hbm _ | .coreStore _ | .shelf _ _ => true
  | _ => false

/-- Places with parity have no correctable errors (R447). -/
def hasParity : EccPlace → Bool
  | .schedule _ | .bankMap _ | .tlb _ _ _ => true
  | _ => false

/-- Correctable errors of one place within CEWIN seconds have reached CETHR. -/
def State.countCe (s : State) (k : Nat) : Bool × State :=
  let l := (tget [] s.aud.ceTimes k ++ [s.time]).filter (fun t => decide (s.time ≤ t + s.aud.cewin.toNat * 1200000000))
  let hit := decide (s.aud.cethr.toNat ≤ l.length)
  (hit, s.modAud (fun a => { a with ceTimes := tset [] a.ceTimes k (if hit then [] else l) }))

/-- What Bubarus does when a place has reached CETHR (R449). -/
def State.cePolicy (s : State) (at_ : EccPlace) : State :=
  match at_ with
  | .hbm a => s.askRetire (stackOf a) (pchOf (a / pageSize))
  | .coreStore c => if s.aud.sramrep then s.askRepair (clusterOfCore c) false else s
  | .shelf g _ => if s.aud.sramrep then s.askRepair g false else s
  | _ => s

def State.eccCorrect (s : State) (at_ : EccPlace) : State :=
  let k := eccKey at_
  let s1 := s.event 0x0022 k.1 k.2
  if !ceCounted at_ then s1
  else
    let r := s1.countCe k.1
    if r.1 && r.2.fwServes then r.2.cePolicy at_ else r.2

/-- The place lies in the machine. -/
def eccPlaceOk : EccPlace → Bool
  | .hbm a => decide (a < hbmEnd)
  | .coreStore c => decide (c < 10240)
  | .shelf g _ => decide (g < 640)
  | .dieController d => decide (d < 4)
  | .mpMemory | .ldSram => true
  | .schedule c => decide (c < 10240)
  | .bankMap g => decide (g < 640)
  | .tlb g _ _ => decide (g < 644)

def execEccCorrectable (at_ : EccPlace) (s : State) : Host.Outcome State Fault Refusal :=
  ok (s.live (fun s => if eccPlaceOk at_ && !hasParity at_ then s.eccCorrect at_ else s))

/-- What an uncorrectable error does to the unit it lies in (R448, R449). An entry under parity is discarded and read again (R447): a TLB's is
walked anew, and of the others the model shows no delay (notes/assumptions/78.md). -/
def State.eccPlace (s : State) (at_ : EccPlace) : State :=
  match at_ with
  | .hbm a => if s.aud.ueret && s.fwServes then s.askRetire (stackOf a) (pchOf (a / pageSize)) else s
  | .coreStore c => if (s.cluster (clusterOfCore c)).frameOn then s.failCluster (clusterOfCore c) else s
  | .shelf g _ => if (s.cluster g).frameOn then s.failCluster g else s
  | .dieController d => s.failDie d
  | .mpMemory => s.modPwr (fun w => { w with mpDown := match w.mpDown with | some t => some t | none => some s.time })
  | .ldSram | .schedule _ | .bankMap _ => s
  | .tlb g p page => s.dropTlb g p page

/-- A core fetch read bad data: its buffer fails (04 R113). -/
def State.badFetch (s : State) (c loff lines : Nat) (slot : BitVec 6) (shelf : Bool) : State :=
  ((s.markBuffer c (bufSpans c loff lines { loc := shelf }) true).event 0x0A34 c (64 * loff)).markBusErr c slot

/-- The command an engine would start next reads bad data as it starts: an UPDATE is interrupted before its flip (13 R397), any other ends
with BUS_ERROR, an IMPORT before its header write (12 R366). -/
def State.badQueued (s : State) (d : Nat) : State :=
  match (s.updOf d).queue.findSome? (fun j => ((cmdOf s j.stream j.seq).filter (engineTurn s d j.stream)).map (fun c => (j, c))) with
  | none => s
  | some (j, c) =>
    let s1 := (s.dropQueued j.stream j.seq).startCmd j.stream j.seq
    match opOf c with
    | 3 => s1.updInterrupt d j .busError
    | 5 => (s1.endCmd j.stream j.seq .busError 0x0F 0).event 0x0624 j.part (s.rdN (bytesN c.bytes 8 8 + 4) 4)
    | _ => s1.endCmd j.stream j.seq .busError 0 0

/-- An engine read bad data: a program stops with BUS_ERROR (05 R156), any other phase is interrupted (13 R397). -/
def State.badEngine (s : State) (d : Nat) : State :=
  match updRunning (s.updOf d) with
  | none => s.badQueued d
  | some j =>
    let program := (cmdOf s j.stream j.seq).any (fun c => byteAt c.bytes 0x28 = 0)
    if program && j.flip.isNone then (s.progStop d .busError).updFail d j .busError Status.stopped.code else s.updInterrupt d j .busError

/-- A copy met a bad line (08 R265). -/
def State.badCopy (s : State) (page part line : Nat) : State :=
  s.each [0, 1, 2, 3] (fun s d => s.modMig d (fun m =>
    { m with running := m.running.map (fun c => if c.page = page ∧ c.part = part ∧ !c.bad.contains line then { c with bad := c.bad ++ [line] } else c) }))

/-- What the reader of bad data at address `a` makes of it (R448). -/
def State.badRead (s : State) (by_ : EccReader) (a : Nat) : State :=
  match by_ with
  | .none => s
  | .coreFetch c loff lines slot shelf => if c < 10240 then s.badFetch c loff lines slot shelf else s
  | .dma ch => if ch < 256 then s.dmaMeets ch a else s
  | .engine d => if d < 4 then s.badEngine d else s
  | .migration page part => s.badCopy page part (a % pageSize / 64)
  | .stream n completion => s.faultStream n (if completion then 2 else 1)
  | .host => s.modHlk (fun h => { h with reply := [], aborted := true })
  | .peer => s.peerNak true
  | .peerQueue q => if q < 16 then s.meeting a (fun s => s.startEntry q (if s.rdN (queueEntryAt (s.pq q)) 1 = 3 then 3 else 1) []) else s
  | .ingest e => if e < 4 then s.meeting a (fun s => s.ingNext e) else s

/-- The address of a place, for the reader. -/
def eccAddr : EccPlace → Nat
  | .hbm a => a
  | .coreStore c => coreBase c
  | .shelf g off => shelfOf g + off % 0x400000
  | _ => 0

def State.eccBad (s : State) (at_ : EccPlace) (by_ : EccReader) : State :=
  let k := eccKey at_
  ((s.event 0x0023 k.1 k.2).eccPlace at_).badRead by_ (eccAddr at_)

def execEccUncorrectable (at_ : EccPlace) (by_ : EccReader) (s : State) : Host.Outcome State Fault Refusal :=
  ok (s.live (fun s => if eccPlaceOk at_ then s.eccBad at_ by_ else s))

/-- What has become due is done. -/
def State.mpWork (s : State) : MpWork → State
  | .repair g failed => s.requestRepair g failed
  | .retire stack pch => s.retirePch stack pch

/-- Bubarus runs again `ms` milliseconds after the error, and does what waited for it (R448). -/
def execMpRestart (ms : Nat) (s : State) : Host.Outcome State Fault Refusal :=
  ok (s.live (fun s =>
    match s.pwr.mpDown with
    | some t =>
      let s1 := ((s.advanceTo (t + 1200000 * ms)).modPwr (fun w => { w with mpDown := none })).event 0x0006 0 ms
      s1.aud.due.foldl State.mpWork (s1.modAud (fun a => { a with due := [] }))
    | none => s))

/-- A patrol scrub pass over a stack ends (R449); SCRUB 0 means none. -/
def execPatrolScrub (stack corrected : Nat) (s : State) : Host.Outcome State Fault Refusal :=
  ok (s.live (fun s => if stack < 16 ∧ s.aud.scrub ≠ 0 then s.event 0x0025 stack corrected else s))

/-! ## Poisoned lines of a board expander (08 R265) -/

/-- Source and value of code 0x020B: partition and page, or port and frame number outside pages. -/
def poisonKey (s : State) (b : Nat) : Nat × Nat :=
  let v := tget 0 s.bAlloc b
  if v = 0 || v = engineKey then (b / portFrames, b) else (ownerPart v, ownerPage v)

def State.poisoned (s : State) (a : Nat) (by_ : EccReader) : State :=
  let b := (a - boardBase) / pageSize
  let k := poisonKey s b
  let s1 := (s.event 0x020B k.1 k.2).modBmp (b / portFrames) (fun q => { q with poison := satAdd q.poison 1 })
  s1.badRead by_ a

def execPoisonedLine (addr : Nat) (by_ : EccReader) (s : State) : Host.Outcome State Fault Refusal :=
  ok (s.live (fun s => if boardBase ≤ addr ∧ addr < boardEnd ∧ boardPresent s ((addr - boardBase) / pageSize) then s.poisoned addr by_ else s))

end Sys2Proof.Machine
end

