-- ==== Sys2Proof/Machine/Dispatch.lean ====
section
/-! DEFINITION. One arm per command: a direct call of its meaning. -/
namespace Sys2Proof.Machine

def exec (i : Instr) (s : State) : Host.Outcome State Fault Refusal :=
  match i with
  | .p42vStart mv => Sys2Proof.Machine.execP42vStart mv s
  | .railsInRegulation => Sys2Proof.Machine.execRailsInRegulation s
  | .p42vOutOfRange mv => Sys2Proof.Machine.execP42vOutOfRange mv s
  | .lossOf42v => Sys2Proof.Machine.execLossOf42v s
  | .railFault => Sys2Proof.Machine.execRailFault s
  | .thermalTrip => Sys2Proof.Machine.execThermalTrip s
  | .modResetAssert => Sys2Proof.Machine.execModResetAssert s
  | .modResetDeassert goodUs assertedUs refStable => Sys2Proof.Machine.execModResetDeassert goodUs assertedUs refStable s
  | .romIdentity derived certified => Sys2Proof.Machine.execRomIdentity derived certified s
  | .fwVerify a b => Sys2Proof.Machine.execFwVerify a b s
  | .recorderRestore snapA snapB repA repB okKeys okHelper => Sys2Proof.Machine.execRecorderRestore snapA snapB repA repB okKeys okHelper s
  | .arraySelfTest bad => Sys2Proof.Machine.execArraySelfTest bad s
  | .hbmTraining failed => Sys2Proof.Machine.execHbmTraining failed s
  | .linkTraining ports => Sys2Proof.Machine.execLinkTraining ports s
  | .readyEntry => Sys2Proof.Machine.execReadyEntry s
  | .smbWrite addr val => Sys2Proof.Machine.execSmbWrite addr val s
  | .smbSetReadAddress addr => Sys2Proof.Machine.execSmbSetReadAddress addr s
  | .smbRead => Sys2Proof.Machine.execSmbRead s
  | .ppsInEdge => Sys2Proof.Machine.execPpsInEdge s
  | .ppsOutPulse => Sys2Proof.Machine.execPpsOutPulse s
  | .ppsOutEnd => Sys2Proof.Machine.execPpsOutEnd s
  | .throttleUpdate temps => Sys2Proof.Machine.execThrottleUpdate temps s
  | .powerTermUpdate avgW => Sys2Proof.Machine.execPowerTermUpdate avgW s
  | .currentGuardHold ma => Sys2Proof.Machine.execCurrentGuardHold ma s
  | .guardHoldExpiry ma => Sys2Proof.Machine.execGuardHoldExpiry ma s
  | .registerWrite addr width val => Sys2Proof.Machine.execRegisterWrite addr width val s
  | .hostRequest r => Sys2Proof.Machine.execHostRequest r s
  | .hostWriteAck stream n => Sys2Proof.Machine.execHostWriteAck stream n s
  | .hostReset => Sys2Proof.Machine.execHostReset s
  | .hostLinkDownTimeout => Sys2Proof.Machine.execHostLinkDownTimeout s
  | .hostLinkUp lanes => Sys2Proof.Machine.execHostLinkUp lanes s
  | .hostLinkRetrain us => Sys2Proof.Machine.execHostLinkRetrain us s
  | .hostLaneFailure lane => Sys2Proof.Machine.execHostLaneFailure lane s
  | .linkReplay port flits => Sys2Proof.Machine.execLinkReplay port flits s
  | .hlkRetrain => Sys2Proof.Machine.execHlkRetrain s
  | .handshake epoch => Sys2Proof.Machine.execHandshake epoch s
  | .holdBaseWrite val => Sys2Proof.Machine.execHoldBaseWrite val s
  | .frmCalWrite val => Sys2Proof.Machine.execFrmCalWrite val s
  | .groupBaseTick g => Sys2Proof.Machine.execGroupBaseTick g s
  | .admissionCut p => Sys2Proof.Machine.execAdmissionCut p s
  | .decisionPoint p => Sys2Proof.Machine.execDecisionPoint p s
  | .frameStart p => Sys2Proof.Machine.execFrameStart p s
  | .moduleAuditPoint => Sys2Proof.Machine.execModuleAuditPoint s
  | .clusterFrameDone g => Sys2Proof.Machine.execClusterFrameDone g s
  | .drainRequest g => Sys2Proof.Machine.execDrainRequest g s
  | .resume p => Sys2Proof.Machine.execResume p s
  | .clrslk p => Sys2Proof.Machine.execClrslk p s
  | .commandTailDoorbell stream index => Sys2Proof.Machine.execCommandTailDoorbell stream index s
  | .completionHeadDoorbell stream index => Sys2Proof.Machine.execCompletionHeadDoorbell stream index s
  | .commandFetch stream => Sys2Proof.Machine.execCommandFetch stream s
  | .commandReread stream => Sys2Proof.Machine.execCommandReread stream s
  | .scmdSetStream stream => Sys2Proof.Machine.execScmdSetStream stream s
  | .arm stream => Sys2Proof.Machine.execArm stream s
  | .halt stream => Sys2Proof.Machine.execHalt stream s
  | .disarm stream => Sys2Proof.Machine.execDisarm stream s
  | .reload stream => Sys2Proof.Machine.execReload stream s
  | .query stream => Sys2Proof.Machine.execQuery stream s
  | .reservedAction stream action => Sys2Proof.Machine.execReservedAction stream action s
  | .stmTableBaseWrite val => Sys2Proof.Machine.execStmTableBaseWrite val s
  | .stmArgBaseWrite val => Sys2Proof.Machine.execStmArgBaseWrite val s
  | .nop stream => Sys2Proof.Machine.execNop stream s
  | .run stream => Sys2Proof.Machine.execRun stream s
  | .dma stream => Sys2Proof.Machine.execDma stream s
  | .update stream => Sys2Proof.Machine.execUpdate stream s
  | .exportShard stream => Sys2Proof.Machine.execExportShard stream s
  | .importShard stream => Sys2Proof.Machine.execImportShard stream s
  | .map stream => Sys2Proof.Machine.execMap stream s
  | .unmap stream => Sys2Proof.Machine.execUnmap stream s
  | .place stream => Sys2Proof.Machine.execPlace stream s
  | .evict stream => Sys2Proof.Machine.execEvict stream s
  | .dropb stream => Sys2Proof.Machine.execDropb stream s
  | .attr stream => Sys2Proof.Machine.execAttr stream s
  | .copy stream => Sys2Proof.Machine.execCopy stream s
  | .fence stream => Sys2Proof.Machine.execFence stream s
  | .signal stream => Sys2Proof.Machine.execSignal stream s
  | .wait stream => Sys2Proof.Machine.execWait stream s
  | .waitTimeout stream => Sys2Proof.Machine.execWaitTimeout stream s
  | .loadBitstream stream => Sys2Proof.Machine.execLoadBitstream stream s
  | .tieSum stream => Sys2Proof.Machine.execTieSum stream s
  | .ingest stream => Sys2Proof.Machine.execIngest stream s
  | .load => Sys2Proof.Machine.execLoad s
  | .flash => Sys2Proof.Machine.execFlash s
  | .abort => Sys2Proof.Machine.execAbort s
  | .keyreg x => Sys2Proof.Machine.execKeyreg x s
  | .loadVerify body path => Sys2Proof.Machine.execLoadVerify body path s
  | .loadApply => Sys2Proof.Machine.execLoadApply s
  | .loadDone => Sys2Proof.Machine.execLoadDone s
  | .repairStart cluster spare => Sys2Proof.Machine.execRepairStart cluster spare s
  | .clusterFailure g => Sys2Proof.Machine.execClusterFailure g s
  | .repairCopy p lost countsLost => Sys2Proof.Machine.execRepairCopy p lost countsLost s
  | .routerFault g => Sys2Proof.Machine.execRouterFault g s
  | .dieControllerFailure d => Sys2Proof.Machine.execDieControllerFailure d s
  | .ringBreak member ccw isolated => Sys2Proof.Machine.execRingBreak member ccw isolated s
  | .eccCorrectable at_ => Sys2Proof.Machine.execEccCorrectable at_ s
  | .eccUncorrectable at_ by_ => Sys2Proof.Machine.execEccUncorrectable at_ by_ s
  | .mpRestart ms => Sys2Proof.Machine.execMpRestart ms s
  | .patrolScrub stack corrected => Sys2Proof.Machine.execPatrolScrub stack corrected s
  | .retire d stack pch => Sys2Proof.Machine.execRetire d stack pch s
  | .clrlate p => Sys2Proof.Machine.execClrlate p s
  | .footprintPin stream => Sys2Proof.Machine.execFootprintPin stream s
  | .migrationCopyDone d p page us => Sys2Proof.Machine.execMigrationCopyDone d p page us s
  | .dirtyRequest p page => Sys2Proof.Machine.execDirtyRequest p page s
  | .tlbWalk g page cycles => Sys2Proof.Machine.execTlbWalk g page cycles s
  | .tlbInvalidate g p page => Sys2Proof.Machine.execTlbInvalidate g p page s
  | .invalidateAck g p page => Sys2Proof.Machine.execInvalidateAck g p page s
  | .bmpRetrain n => Sys2Proof.Machine.execBmpRetrain n s
  | .boardPortRetrain n us => Sys2Proof.Machine.execBoardPortRetrain n us s
  | .boardPortDown n => Sys2Proof.Machine.execBoardPortDown n s
  | .poisonedLine addr by_ => Sys2Proof.Machine.execPoisonedLine addr by_ s
  | .mac c h f rep parity => Sys2Proof.Machine.execMac c h f rep parity s
  | .drainWord c h f rep => Sys2Proof.Machine.execDrainWord c h f rep s
  | .fetch c h f => Sys2Proof.Machine.execFetch c h f s
  | .fetchWithDrainFlag c h f => Sys2Proof.Machine.execFetchWithDrainFlag c h f s
  | .drain c h f => Sys2Proof.Machine.execDrain c h f s
  | .addw c h f => Sys2Proof.Machine.execAddw c h f s
  | .maxm c h f => Sys2Proof.Machine.execMaxm c h f s
  | .fetchComplete c late => Sys2Proof.Machine.execFetchComplete c late s
  | .drainComplete c => Sys2Proof.Machine.execDrainComplete c s
  | .synSignal c h f => Sys2Proof.Machine.execSynSignal c h f s
  | .synWait c h f => Sys2Proof.Machine.execSynWait c h f s
  | .tokenIncrementArrival c ctr val => Sys2Proof.Machine.execTokenIncrementArrival c ctr val s
  | .qput c h f => Sys2Proof.Machine.execQput c h f s
  | .qget c h f => Sys2Proof.Machine.execQget c h f s
  | .qrel c h f => Sys2Proof.Machine.execQrel c h f s
  | .queueAnnounceArrival p qid val => Sys2Proof.Machine.execQueueAnnounceArrival p qid val s
  | .queueCreditArrival p qid val => Sys2Proof.Machine.execQueueCreditArrival p qid val s
  | .cbar c h f => Sys2Proof.Machine.execCbar c h f s
  | .conversionDone c => Sys2Proof.Machine.execConversionDone c s
  | .vecNop u x => Sys2Proof.Machine.execVecNop u x s
  | .add u x => Sys2Proof.Machine.execAdd u x s
  | .sub u x => Sys2Proof.Machine.execSub u x s
  | .mul u x => Sys2Proof.Machine.execMul u x s
  | .fma u x => Sys2Proof.Machine.execFma u x s
  | .fnma u x => Sys2Proof.Machine.execFnma u x s
  | .min u x => Sys2Proof.Machine.execMin u x s
  | .max u x => Sys2Proof.Machine.execMax u x s
  | .clamp u x => Sys2Proof.Machine.execClamp u x s
  | .abs u x => Sys2Proof.Machine.execAbs u x s
  | .neg u x => Sys2Proof.Machine.execNeg u x s
  | .sign u x => Sys2Proof.Machine.execSign u x s
  | .div u x => Sys2Proof.Machine.execDiv u x s
  | .sqrt u x => Sys2Proof.Machine.execSqrt u x s
  | .rsqrt u x => Sys2Proof.Machine.execRsqrt u x s
  | .rcp u x => Sys2Proof.Machine.execRcp u x s
  | .exp2 u x => Sys2Proof.Machine.execExp2 u x s
  | .log2 u x => Sys2Proof.Machine.execLog2 u x s
  | .exp u x => Sys2Proof.Machine.execExp u x s
  | .tanh u x => Sys2Proof.Machine.execTanh u x s
  | .erf u x => Sys2Proof.Machine.execErf u x s
  | .sel u x => Sys2Proof.Machine.execSel u x s
  | .mov u x => Sys2Proof.Machine.execMov u x s
  | .ceq u x => Sys2Proof.Machine.execCeq u x s
  | .cne u x => Sys2Proof.Machine.execCne u x s
  | .clt u x => Sys2Proof.Machine.execClt u x s
  | .cle u x => Sys2Proof.Machine.execCle u x s
  | .mand u x => Sys2Proof.Machine.execMand u x s
  | .mor u x => Sys2Proof.Machine.execMor u x s
  | .mxor u x => Sys2Proof.Machine.execMxor u x s
  | .mnot u x => Sys2Proof.Machine.execMnot u x s
  | .mfirst u x => Sys2Proof.Machine.execMfirst u x s
  | .mcnt u x => Sys2Proof.Machine.execMcnt u x s
  | .mflag u x => Sys2Proof.Machine.execMflag u x s
  | .rsum u x => Sys2Proof.Machine.execRsum u x s
  | .rsumsq u x => Sys2Proof.Machine.execRsumsq u x s
  | .rmax u x => Sys2Proof.Machine.execRmax u x s
  | .rmin u x => Sys2Proof.Machine.execRmin u x s
  | .ramax u x => Sys2Proof.Machine.execRamax u x s
  | .bcast u x => Sys2Proof.Machine.execBcast u x s
  | .iota u x => Sys2Proof.Machine.execIota u x s
  | .f2i u x => Sys2Proof.Machine.execF2i u x s
  | .i2f u x => Sys2Proof.Machine.execI2f u x s
  | .ld u x => Sys2Proof.Machine.execLd u x s
  | .st u x => Sys2Proof.Machine.execSt u x s
  | .ldb u x => Sys2Proof.Machine.execLdb u x s
  | .ldq u x => Sys2Proof.Machine.execLdq u x s
  | .stq u x => Sys2Proof.Machine.execStq u x s
  | .sld u x => Sys2Proof.Machine.execSld u x s
  | .sst u x => Sys2Proof.Machine.execSst u x s
  | .cvtb u x => Sys2Proof.Machine.execCvtb u x s
  | .sli u x => Sys2Proof.Machine.execSli u x s
  | .sadd u x => Sys2Proof.Machine.execSadd u x s
  | .ssub u x => Sys2Proof.Machine.execSsub u x s
  | .smul u x => Sys2Proof.Machine.execSmul u x s
  | .sfadd u x => Sys2Proof.Machine.execSfadd u x s
  | .sfmul u x => Sys2Proof.Machine.execSfmul u x s
  | .sfdiv u x => Sys2Proof.Machine.execSfdiv u x s
  | .br u x => Sys2Proof.Machine.execBr u x s
  | .bz u x => Sys2Proof.Machine.execBz u x s
  | .bnz u x => Sys2Proof.Machine.execBnz u x s
  | .blt u x => Sys2Proof.Machine.execBlt u x s
  | .call u x => Sys2Proof.Machine.execCall u x s
  | .ret u x => Sys2Proof.Machine.execRet u x s
  | .programHalt u x => Sys2Proof.Machine.execProgramHalt u x s
  | .dmaStart ch => Sys2Proof.Machine.execDmaStart ch s
  | .dmaDescriptor ch preempted => Sys2Proof.Machine.execDmaDescriptor ch preempted s
  | .dmaRetry ch => Sys2Proof.Machine.execDmaRetry ch s
  | .dmaStop ch => Sys2Proof.Machine.execDmaStop ch s
  | .updatePass2 d => Sys2Proof.Machine.execUpdatePass2 d s
  | .groupTimeout d stream => Sys2Proof.Machine.execGroupTimeout d stream s
  | .updAbort d => Sys2Proof.Machine.execUpdAbort d s
  | .updConfigWrite d off val => Sys2Proof.Machine.execUpdConfigWrite d off val s
  | .ingestRecord e => Sys2Proof.Machine.execIngestRecord e s
  | .ingestTailPoll e => Sys2Proof.Machine.execIngestTailPoll e s
  | .batchDeadline e => Sys2Proof.Machine.execBatchDeadline e s
  | .ingestAbort e => Sys2Proof.Machine.execIngestAbort e s
  | .peerWrite q => Sys2Proof.Machine.execPeerWrite q s
  | .peerRead q data => Sys2Proof.Machine.execPeerRead q data s
  | .peerAddw q => Sys2Proof.Machine.execPeerAddw q s
  | .note q => Sys2Proof.Machine.execNote q s
  | .peerEntryDone q failed moved => Sys2Proof.Machine.execPeerEntryDone q failed moved s
  | .peerRequest r => Sys2Proof.Machine.execPeerRequest r s
  | .peerFlitForward f => Sys2Proof.Machine.execPeerFlitForward f s
  | .queueTailWrite q tail => Sys2Proof.Machine.execQueueTailWrite q tail s
  | .queueBell addr word => Sys2Proof.Machine.execQueueBell addr word s
  | .queueStop q => Sys2Proof.Machine.execQueueStop q s
  | .queueEnable q val => Sys2Proof.Machine.execQueueEnable q val s
  | .plkRetrain n => Sys2Proof.Machine.execPlkRetrain n s
  | .peerPortRetrain n us => Sys2Proof.Machine.execPeerPortRetrain n us s
  | .peerPortDown n => Sys2Proof.Machine.execPeerPortDown n s
  | .timeMasterSet => Sys2Proof.Machine.execTimeMasterSet s
  | .timingFlitExchange port master hops skews second => Sys2Proof.Machine.execTimingFlitExchange port master hops skews second s
  | .timeAnnouncement port master hops shared period groups => Sys2Proof.Machine.execTimeAnnouncement port master hops shared period groups s
  | .throttleLevelReport module_ group level index => Sys2Proof.Machine.execThrottleLevelReport module_ group level index s
  | .recon pool target => Sys2Proof.Machine.execRecon pool target s
  | .dump => Sys2Proof.Machine.execDump s
  | .dumpDone => Sys2Proof.Machine.execDumpDone s
  | .snap => Sys2Proof.Machine.execSnap s
  | .periodicSnapshot => Sys2Proof.Machine.execPeriodicSnapshot s
  | .clear x => Sys2Proof.Machine.execClear x s
  | .clrmax => Sys2Proof.Machine.execClrmax s
  | .fwupd x => Sys2Proof.Machine.execFwupd x s
  | .quote => Sys2Proof.Machine.execQuote s
  | .quoteDone => Sys2Proof.Machine.execQuoteDone s
  | .pwrLimitWrite val => Sys2Proof.Machine.execPwrLimitWrite val s
  | .p42vBelow30V => Sys2Proof.Machine.execP42vBelow30V s
  | .supportEnd => Sys2Proof.Machine.execSupportEnd s
  | .bmpEnable n en => Sys2Proof.Machine.execBmpEnable n en s
  | .plkEnable n en => Sys2Proof.Machine.execPlkEnable n en s

end Sys2Proof.Machine
end

