-- ==== Sys2Proof/Machine/Idle.lean ====
section
/-! DEFINITION. What happens when no command waits: the clock advances. -/
namespace Sys2Proof.Machine

/-- One arithmetic-clock cycle with no command (06 R159; DESIGN CHOICE, notes/assumptions/1.md): the time base advances
by one unless the module is unpowered or in reset. -/
def idleCycle (s : State) : State := if s.alive then s.advanceTo (s.time + 1) else s

end Sys2Proof.Machine
end

