-- ==== Sys2Proof/Safety.lean ====
section
/-! DEFINITION. What a sound state is, and the terms in which claims speak of one. -/
namespace Sys2Proof.Machine

/-- The canonical form of a memory: addresses strictly rising, and no entry equal to what an unlisted address reads as. -/
def Memory.wf (m : Mem) : Bool := twf 0 m

/-- Device memory and module flash are in canonical form. -/
def State.MemOk (s : State) : Prop := Memory.wf s.mem = true ∧ Memory.wf s.flash = true

/-- One byte of memory (00 R4). -/
def State.byte (s : State) (a : Nat) : Byte := tget 0 s.mem a

/-- Every byte of memory outside `[a, a + n)` reads as before. -/
def State.MemSameBut (s t : State) (a n : Nat) : Prop := ∀ x, x < a ∨ a + n ≤ x → t.byte x = s.byte x

/-! ## Terms of the statements -/

/-- The address of scratch register `n` of die code `k` (0 LD, 1 to 4 CD0 to CD3; 01 R41, R44). -/
def scratchAt (k n : Nat) : Nat := regBase + k * 0x1000000 + 0x40 + 8 * n

/-- No stream has a record to write or an interrupt to raise. -/
def quietStreams (s : State) : Prop := ∀ n, (s.stream n).cmds = [] ∧ (s.stream n).irqWant = false ∧ (s.stream n).irqBatches = []

/-- No line of `[a, a + n)` waits for a board port that trains (08 R264). -/
def noPortWaits (s : State) (a n : Nat) : Prop := ∀ x, a ≤ x → x < a + n → boardWaits s x = false

/-- Every byte of the table entry of stream `n` lies in memory (09 R269). -/
def entryThere (s : State) (n : Nat) : Prop := ∀ k, k < 64 → locate s (entryAddr s n + k) = .mem

/-- Every partition that is not down has a tick coming. -/
def tickComes (s : State) : Prop := ∀ p ∈ s.partList, (s.part p).state = .down ∨ (s.part p).next ≠ 0

/-- What a decision point judges: the state after deferred requests, the ledger's sums and the steps of loads (R168, R443). -/
def judged (s : State) (p : Nat) : State :=
  let t := (s.part p).next
  let s0 := if (s.part p).cut then s.batchDeadlines p else s.cutDoorbells p
  (((((s0.advanceTo (t - 1200)).sampleGroups).atDecision p t).endWait p).takeDrain p).force p t

/-- Where the next completion record of a stream goes (09 R298). -/
def recordAt (s : State) (n : Nat) : Nat := (s.stream n).pring.toNat + 32 * (s.stream n).ptail.toNat

/-- Stream `n` lies in a range and is RUNNING with the one admitted command `c`, which holds no pin; its completion ring has room and lies in module
memory, away from the stream's table entry; no write of the stream is unacknowledged and no record is held. -/
def loneCommand (s : State) (n : Nat) (c : Cmd) : Prop :=
  let x := s.stream n
  s.alive = true ∧ x.state = .running ∧ x.inRange = true ∧ x.cmds = [c] ∧ c.bytes.length = 64 ∧ c.pins = [] ∧ c.ringWait = none ∧ x.inflight = [] ∧ x.unacked = [] ∧ x.heldUnacked = 0
    ∧ c.lost = false
    ∧ x.plog2 ≤ 16 ∧ x.ptail.toNat < 2 ^ x.plog2 ∧ (x.ptail.toNat + 1) % 2 ^ x.plog2 ≠ x.phead.toNat
    ∧ recordAt s n < hostBase ∧ locate s (recordAt s n) = .mem
    ∧ (recordAt s n + 32 ≤ entryAddr s n ∨ entryAddr s n + 64 ≤ recordAt s n)

/-- From `s` to `t` the command `c` of stream `n` has completed with this status and result at its admission tick: its record stands at
PTAIL, PTAIL and LSEQ have advanced, its credit is back, and the stream is ARMED. -/
def recorded (s t : State) (n : Nat) (c : Cmd) (st : Status) (result : W64) : Prop :=
  let x := s.stream n
  let y := t.stream n
  t.rd (recordAt s n) 32 = recordBytes n x.rph c st 0 result c.tick ∧ y.cmds = [] ∧ y.state = .armed ∧ y.lseq = c.seq
    ∧ y.completed = x.completed + 1 ∧ y.ptail.toNat = (x.ptail.toNat + 1) % 2 ^ x.plog2
    ∧ (t.part x.part.toNat).credFree = (s.part x.part.toNat).credFree + 1
    ∧ t = { s with mem := t.mem, stm := t.stm, parts := t.parts, hlk := t.hlk, evr := t.evr }

/-- The admitted command `c` of stream `n` is a HINT `h` of one page `g` of partition `p` (paged mode), whose leaf entry is `l` at `a`. -/
def hintAt (s : State) (n : Nat) (c : Cmd) (h : Hint) (p g a : Nat) (l : Leaf) : Prop :=
  s.alive = true ∧ nextOf s n 6 = some c ∧ h = hintOf ((c.bytes.drop 8).take 32) ∧ h.count = 1 ∧ p = (s.stream n).part.toNat
    ∧ pinsDue s p c.tick = false ∧ g = pageOf h.base ∧ leafAddr s (s.part p).ptBase.toNat g = some a ∧ readLeaf s p g = some l
    ∧ c.hWait = [] ∧ c.hDone = 0 ∧ c.hRef = 0 ∧ c.hDef = 0 ∧ (s.part p).mode = false

/-- The command `c` of stream `n` has ended in `t`, to complete at the next tick, with this status and result. -/
def endedWith (t : State) (n : Nat) (c : Cmd) (st : Status) (result : W64) : Prop :=
  ∃ d ∈ (t.stream n).cmds, d.seq = c.seq ∧ d.phase = .ended st 0 result

/-- The leaf entry at `a` holds `l` in `t`, and every other byte of memory is as in `s`. -/
def leafSet (s t : State) (a : Nat) (l : Leaf) : Prop := t.rdN a 8 = l.w0 ∧ t.rdN (a + 8) 8 = l.w1 ∧ s.MemSameBut t a 16

/-- Between two commands no access is under way: none is made on behalf of a stream, and no line is met as bad. -/
def State.Between (s : State) : Prop := s.bus = none ∧ s.badLine = none

/-- A word with header `h` reaches core `c`, which runs a frame and has no stream loaded (log entry 11), and no fetch it needs is incomplete (04
R110). -/
def wordReaches (s : State) (c : Nat) (h : WordHdr) : Prop :=
  runsWords s c = true ∧ (s.core c).compute = [] ∧ needsFetch (s.core c) h.offset.toNat = false

/-- Such a word's predicate holds (05 R130). -/
def delivered (s : State) (c : Nat) (h : WordHdr) : Prop := wordReaches s c h ∧ predOk (s.core c) h = true

/-- The cycle of a delivered word's issue is reached, and its registers and row are free (05 R129, R150, R154): what the word does, it does here. -/
def issueAt (s : State) (c : Nat) (h : WordHdr) (w : Word) : State := s.reachIssue c h w h.offset.toNat true

/-- From `s` to `t` core `c` makes one issue, which a hold may delay: it changes as `f` says and no other core changes, beside what an issue notes,
that is its number and cycle, and the cycles from which others may follow or its results may be read. -/
def issuedHeld (s t : State) (c : Nat) (f : Core → Core) : Prop :=
  let k := t.core c
  (∀ b, b ≠ c → t.core b = s.core b) ∧
  k = { f (s.core c) with issues := (s.core c).issues + 1, lastAt := k.lastAt, doneAt := k.doneAt, classAt := k.classAt, ready := k.ready,
                          rowAt := k.rowAt, fresh := k.fresh, made := k.made } ∧
  (∃ off, k.made = (off, (s.core c).issues + 1, k.doneAt) :: (s.core c).made) ∧ s.time ≤ t.time ∧ t.time ≤ k.lastAt

/-- The same of an issue that nothing holds: it takes place now. -/
def issuedIn (s t : State) (c : Nat) (f : Core → Core) : Prop := issuedHeld s t c f ∧ (t.core c).lastAt = t.time

/-- An issue touches the cores, the time, and what counts events and names free values; nothing else. -/
def coresOnly (s t : State) : Prop := t = { s with cores := t.cores, time := t.time, aud := t.aud, evr := t.evr, draw := t.draw }

/-- From `s` to `t` core `c` issues a reserved encoding (05 R157): code 0x0A40 with its cycle offset, BAD_OPCODE for its slot's command, no other
effect: it waits for its flag alone. -/
def reservedIssue (s t : State) (c : Nat) (h : WordHdr) (w : Word) : Prop :=
  issuedIn s t c id ∧ t.parts = (s.markBadOp c h.slot).parts ∧
  t.evr = ((s.reachIssue c h w h.offset.toNat false).event 0x0A40 c h.offset.toNat).evr ∧
  t = { s with cores := t.cores, parts := t.parts, time := t.time, aud := t.aud, evr := t.evr, draw := t.draw }

/-- The word has no reserved encoding and drives one array in solo, unsplit, with whole precision (05 R131). -/
def soloMac (s : State) (c : Nat) (f : MacArgs) : Prop :=
  macReserved s c f = false ∧ f.arrg = arrSolo ∧ f.split = 0 ∧ f.side = false ∧ f.pmode = 0 ∧ f.rcnt = 0

/-- The drain word has no reserved encoding and drains one row of one array, started in solo and unsplit, as FP32, with finite coarse scales
and no running maximum (05 R135). -/
def soloDrain (s : State) (c : Nat) (h : WordHdr) (f : DrainArgs) : Prop :=
  let k := s.core c
  let info := tget {} k.rows (rowKey f.asel.toNat f.rbase.toNat)
  let cs := (tget 0 k.sreg f.csreg.toNat).toNat
  drainReserved s c h f 0 = false ∧ info.started = true ∧ info.split = 0 ∧ info.arrg = arrSolo ∧ f.arrg = arrSolo ∧ f.dfmt = 0
    ∧ f.maxr = 4 ∧ f.side = false ∧ f.rcnt = 0 ∧ goodScale (BitVec.ofNat 32 cs) = true ∧ goodScale (BitVec.ofNat 32 (cs / 2 ^ 32)) = true

/-! ## Vector units -/

/-- The registers of a vector unit. -/
def unitRegs (s : State) : VUnit → VRegs
  | .core c _ => coreRegs (s.core c)
  | .engine d => engRegs (s.updOf d)

/-- A vector instruction reaches its unit: a core with its predicate true, or an engine whose program runs and waits on no write. -/
def unitReady (s : State) : VUnit → Prop
  | .core c h => delivered s c h
  | .engine d => s.alive = true ∧ d < 4 ∧ (s.updOf d).ended = none ∧ (s.updOf d).writeFrom = none

/-- The unit has gone on to its next instruction: nothing but its registers, an engine's PC and count, and what a core notes of an issue may
differ. -/
def unitStep (s t : State) : VUnit → Prop
  | .core c _ => issuedIn s t c (fun k => { k with v := (t.core c).v, m := (t.core c).m, sreg := (t.core c).sreg, f := (t.core c).f }) ∧
      coresOnly s t
  | .engine d => (∀ e, e ≠ d → t.updOf e = s.updOf e) ∧
      t.updOf d = { s.updOf d with v := (t.updOf d).v, m := (t.updOf d).m, sreg := (t.updOf d).sreg,
                                   pc := (s.updOf d).pc + 8, issued := (s.updOf d).issued + 1 } ∧
      t = { s with upd := t.upd }

/-- Vd takes `f` in the active lanes, +0 in the others with MZ; every other register stays (05 R148). -/
def lanesSet (s t : State) (u : VUnit) (x : VArgs) (f : Nat → F32) : Prop :=
  let r := unitRegs s u
  let q := unitRegs t u
  unitStep s t u ∧ q.m = r.m ∧ q.s = r.s ∧ q.f = r.f
    ∧ (∀ i, i < r.vl → q.lane x.vd i = if r.act x i then f i else if x.mz then 0 else r.lane x.vd i)
    ∧ ∀ (g : BitVec 5) i, g ≠ x.vd → i < 256 → q.lane g i = r.lane g i

/-- Mask register Vd takes `f` in the active lanes, 0 in the others with MZ; M0 stays all ones (05 R147, R148). -/
def maskSet (s t : State) (u : VUnit) (x : VArgs) (f : Nat → Bool) : Prop :=
  let r := unitRegs s u
  let q := unitRegs t u
  unitStep s t u ∧ q.v = r.v ∧ q.s = r.s ∧ q.f = r.f
    ∧ (∀ i, i < r.vl → (q.mask x.vd.toNat).getLsbD i =
        if x.vd = 0 then true else if r.act x i then f i else if x.mz then false else (r.mask x.vd.toNat).getLsbD i)
    ∧ ∀ g, g ≠ x.vd.toNat → q.mask g = r.mask g

/-- Scalar register `g` takes `v`; every other register stays. -/
def scalarSet (s t : State) (u : VUnit) (g : BitVec 5) (v : W64) : Prop :=
  let r := unitRegs s u
  let q := unitRegs t u
  unitStep s t u ∧ q.v = r.v ∧ q.m = r.m ∧ q.f = r.f ∧ q.sget g = v ∧ ∀ k, k ≠ g → q.sget k = r.sget k

/-- Lane-wise arithmetic and comparisons (05 R150). -/
def vecLaneRows : List (Nat × (VUnit → VArgs → Instr)) :=
  [(0x00, .vecNop), (0x01, .add), (0x02, .sub), (0x03, .mul), (0x04, .fma), (0x05, .fnma), (0x06, .min), (0x07, .max), (0x08, .clamp),
   (0x09, .abs), (0x0A, .neg), (0x0B, .sign), (0x0C, .div), (0x0D, .sqrt), (0x0E, .rsqrt), (0x0F, .rcp), (0x10, .exp2), (0x11, .log2),
   (0x12, .exp), (0x13, .tanh), (0x14, .erf), (0x15, .sel), (0x16, .mov), (0x20, .ceq), (0x21, .cne), (0x22, .clt), (0x23, .cle)]

/-- Masks, reductions, broadcasts and conversions (05 R150). -/
def vecMaskRows : List (Nat × (VUnit → VArgs → Instr)) :=
  [(0x28, .mand), (0x29, .mor), (0x2A, .mxor), (0x2B, .mnot), (0x2C, .mfirst), (0x2D, .mcnt), (0x2E, .mflag), (0x30, .rsum),
   (0x31, .rsumsq), (0x32, .rmax), (0x33, .rmin), (0x34, .ramax), (0x35, .bcast), (0x36, .iota), (0x38, .f2i), (0x39, .i2f)]

/-- Loads, stores, scalars and control flow (05 R150). -/
def vecScalarRows : List (Nat × (VUnit → VArgs → Instr)) :=
  [(0x40, .ld), (0x41, .st), (0x42, .ldb), (0x43, .ldq), (0x44, .stq), (0x45, .sld), (0x46, .sst), (0x48, .cvtb), (0x50, .sli),
   (0x51, .sadd), (0x52, .ssub), (0x53, .smul), (0x54, .sfadd), (0x55, .sfmul), (0x56, .sfdiv), (0x60, .br), (0x61, .bz), (0x62, .bnz),
   (0x63, .blt), (0x64, .call), (0x65, .ret), (0x66, .programHalt)]

/-- The rows of the vector instruction set, each with its OPC (05 R150). -/
def vecRows : List (Nat × (VUnit → VArgs → Instr)) := vecLaneRows ++ vecMaskRows ++ vecScalarRows

end Sys2Proof.Machine
end

