-- ==== Sys2Proof/WellFormed.lean ====
section
/-! DEFINITION. Which commands are well formed: every number an operand carries names a part that the module has (00 R1 to R6,
01 R10 to R15), and the operands agree with each other. `exec` has a meaning for every command, well formed or not. -/
namespace Sys2Proof

/-! ## How many there are of each part -/

def clusterCount : Nat := 640
/-- TLBs that hold translations: one of each cluster, then one of each update engine (04 R120, 13 R371). -/
def tlbCount : Nat := 644
def coreCount : Nat := 10240
def arrayCount : Nat := 40960
def computeDies : Nat := 4
def streamCount : Nat := 16384
def partitionCount : Nat := 64
def groupCount : Nat := 16
def channelCount : Nat := 256
def peerQueueCount : Nat := 16
/-- Pages of the unified range (08 R240). -/
def pageCount : Nat := 0x800000
/-- Device addresses have 48 bits (00 R5). -/
def addressEnd : Nat := 0x1000000000000

/-! ## Operands -/

/-- The core or engine a vector instruction runs in, with the count of such parts. -/
def VUnit.target : VUnit → Nat × Nat
  | .core c _ => (c, coreCount)
  | .engine d => (d, computeDies)

/-- The part of a memory error, with the count of such parts. -/
def EccPlace.target : EccPlace → Nat × Nat
  | .hbm addr => (addr, addressEnd)
  | .coreStore c => (c, coreCount)
  | .shelf g _ => (g, clusterCount)
  | .dieController d => (d, computeDies)
  | .mpMemory => (0, 1)
  | .ldSram => (0, 1)
  | .schedule c => (c, coreCount)
  | .bankMap g => (g, clusterCount)
  | .tlb g _ _ => (g, clusterCount + computeDies)

/-- The reader of bad data exists. -/
def EccReader.ok : EccReader → Bool
  | .none => true
  | .coreFetch c _ _ _ _ => decide (c < coreCount)
  | .dma ch => decide (ch < channelCount)
  | .engine d => decide (d < computeDies)
  | .migration page p => decide (page < pageCount) && decide (p < partitionCount)
  | .stream n _ => decide (n < streamCount)
  | .host | .peer => true
  | .peerQueue q => decide (q < 16)
  | .ingest e => decide (e < 4)

/-- A host request carries or asks for at least one byte, within the fixed page or the window (10 R305, R306). -/
def HostReq.ok : HostReq → Bool
  | .writePage off data => decide (0 < data.length) && decide (off + data.length ≤ 0x10000)
  | .readPage off len => decide (0 < len) && decide (off + len ≤ 0x10000)
  | .writeWindow off data => decide (0 < data.length) && decide (off + data.length ≤ 0x10000000)
  | .readWindow off len => decide (0 < len) && decide (off + len ≤ 0x10000000)

/-- A peer request lies in the address space (15 R426). -/
def PeerReq.ok : PeerReq → Bool
  | .write addr data => decide (0 < data.length) && decide (addr + data.length ≤ addressEnd)
  | .read addr len => decide (0 < len) && decide (addr + len ≤ addressEnd)
  | .addw addr data => decide (0 < data.length) && decide (addr + data.length ≤ addressEnd)
  | .count addr _ => decide (addr % 8 = 0) && decide (addr < addressEnd)

/-! ## Commands -/

/-- The numbers by which a command names parts of the module, each with the count of such parts. -/
def Instr.targets (i : Instr) : List (Nat × Nat) :=
  match i with
  | .p42vStart _ => []
  | .railsInRegulation => []
  | .p42vOutOfRange _ => []
  | .lossOf42v => []
  | .railFault => []
  | .thermalTrip => []
  | .modResetAssert => []
  | .modResetDeassert _ _ _ => []
  | .romIdentity _ _ => []
  | .fwVerify _ _ => []
  | .recorderRestore _ _ _ _ _ _ => []
  | .arraySelfTest _ => []
  | .hbmTraining _ => []
  | .linkTraining _ => []
  | .readyEntry => []
  | .smbWrite addr _ => [(addr, addressEnd)]
  | .smbSetReadAddress addr => [(addr, addressEnd)]
  | .smbRead => []
  | .ppsInEdge => []
  | .ppsOutPulse => []
  | .ppsOutEnd => []
  | .throttleUpdate _ => []
  | .powerTermUpdate _ => []
  | .currentGuardHold _ => []
  | .guardHoldExpiry _ => []
  | .registerWrite addr _ _ => [(addr, addressEnd)]
  | .hostRequest _ => []
  | .hostWriteAck stream _ => [(stream, streamCount)]
  | .hostReset => []
  | .hostLinkDownTimeout => []
  | .hostLinkUp _ => []
  | .hostLinkRetrain _ => []
  | .hostLaneFailure lane => [(lane, 4)]
  | .linkReplay _ _ => []
  | .hlkRetrain => []
  | .handshake _ => []
  | .holdBaseWrite _ => []
  | .frmCalWrite _ => []
  | .groupBaseTick g => [(g, groupCount)]
  | .admissionCut p => [(p, partitionCount)]
  | .decisionPoint p => [(p, partitionCount)]
  | .frameStart p => [(p, partitionCount)]
  | .moduleAuditPoint => []
  | .clusterFrameDone g => [(g, clusterCount)]
  | .drainRequest g => [(g, clusterCount)]
  | .resume p => [(p, partitionCount)]
  | .clrslk p => [(p, partitionCount)]
  | .commandTailDoorbell stream index => [(stream, streamCount), (index, 65536)]
  | .completionHeadDoorbell stream index => [(stream, streamCount), (index, 65536)]
  | .commandFetch stream => [(stream, streamCount)]
  | .commandReread stream => [(stream, streamCount)]
  | .scmdSetStream stream => [(stream, streamCount)]
  | .arm stream => [(stream, streamCount)]
  | .halt stream => [(stream, streamCount)]
  | .disarm stream => [(stream, streamCount)]
  | .reload stream => [(stream, streamCount)]
  | .query stream => [(stream, streamCount)]
  | .reservedAction stream _ => [(stream, streamCount)]
  | .stmTableBaseWrite _ => []
  | .stmArgBaseWrite _ => []
  | .nop stream => [(stream, streamCount)]
  | .run stream => [(stream, streamCount)]
  | .dma stream => [(stream, streamCount)]
  | .update stream => [(stream, streamCount)]
  | .exportShard stream => [(stream, streamCount)]
  | .importShard stream => [(stream, streamCount)]
  | .map stream => [(stream, streamCount)]
  | .unmap stream => [(stream, streamCount)]
  | .place stream => [(stream, streamCount)]
  | .evict stream => [(stream, streamCount)]
  | .dropb stream => [(stream, streamCount)]
  | .attr stream => [(stream, streamCount)]
  | .copy stream => [(stream, streamCount)]
  | .fence stream => [(stream, streamCount)]
  | .signal stream => [(stream, streamCount)]
  | .wait stream => [(stream, streamCount)]
  | .waitTimeout stream => [(stream, streamCount)]
  | .loadBitstream stream => [(stream, streamCount)]
  | .tieSum stream => [(stream, streamCount)]
  | .ingest stream => [(stream, streamCount)]
  | .load => []
  | .flash => []
  | .abort => []
  | .keyreg _ => []
  | .loadVerify _ _ => []
  | .loadApply => []
  | .loadDone => []
  | .repairStart _ _ => []
  | .clusterFailure g => [(g, clusterCount)]
  | .repairCopy p _ _ => [(p, partitionCount)]
  | .routerFault g => [(g, clusterCount)]
  | .dieControllerFailure d => [(d, computeDies)]
  | .ringBreak member _ _ => [(member, 5)]
  | .eccCorrectable at_ => [at_.target]
  | .eccUncorrectable at_ _ => [at_.target]
  | .mpRestart _ => []
  | .patrolScrub stack _ => [(stack, 16)]
  | .retire d _ _ => [(d, computeDies)]
  | .clrlate p => [(p, partitionCount)]
  | .footprintPin stream => [(stream, streamCount)]
  | .migrationCopyDone d p page _ => [(d, computeDies), (p, partitionCount), (page, pageCount)]
  | .dirtyRequest p page => [(p, partitionCount), (page, pageCount)]
  | .tlbWalk g page _ => [(g, clusterCount), (page, pageCount)]
  | .tlbInvalidate g p page => [(g, tlbCount), (p, partitionCount), (page, pageCount)]
  | .invalidateAck g p page => [(g, tlbCount), (p, partitionCount), (page, pageCount)]
  | .bmpRetrain n => [(n, 4)]
  | .boardPortRetrain n _ => [(n, 4)]
  | .boardPortDown n => [(n, 4)]
  | .poisonedLine addr _ => [(addr, addressEnd)]
  | .mac c _ _ _ _ => [(c, coreCount)]
  | .drainWord c _ _ _ => [(c, coreCount)]
  | .fetch c _ _ => [(c, coreCount)]
  | .fetchWithDrainFlag c _ _ => [(c, coreCount)]
  | .drain c _ _ => [(c, coreCount)]
  | .addw c _ _ => [(c, coreCount)]
  | .maxm c _ _ => [(c, coreCount)]
  | .fetchComplete c _ => [(c, coreCount)]
  | .drainComplete c => [(c, coreCount)]
  | .synSignal c _ _ => [(c, coreCount)]
  | .synWait c _ _ => [(c, coreCount)]
  | .tokenIncrementArrival c _ _ => [(c, coreCount)]
  | .qput c _ _ => [(c, coreCount)]
  | .qget c _ _ => [(c, coreCount)]
  | .qrel c _ _ => [(c, coreCount)]
  | .queueAnnounceArrival p qid _ => [(p, partitionCount), (qid, 64)]
  | .queueCreditArrival p qid _ => [(p, partitionCount), (qid, 64)]
  | .cbar c _ _ => [(c, coreCount)]
  | .conversionDone c => [(c, coreCount)]
  | .vecNop u _ => [u.target]
  | .add u _ => [u.target]
  | .sub u _ => [u.target]
  | .mul u _ => [u.target]
  | .fma u _ => [u.target]
  | .fnma u _ => [u.target]
  | .min u _ => [u.target]
  | .max u _ => [u.target]
  | .clamp u _ => [u.target]
  | .abs u _ => [u.target]
  | .neg u _ => [u.target]
  | .sign u _ => [u.target]
  | .div u _ => [u.target]
  | .sqrt u _ => [u.target]
  | .rsqrt u _ => [u.target]
  | .rcp u _ => [u.target]
  | .exp2 u _ => [u.target]
  | .log2 u _ => [u.target]
  | .exp u _ => [u.target]
  | .tanh u _ => [u.target]
  | .erf u _ => [u.target]
  | .sel u _ => [u.target]
  | .mov u _ => [u.target]
  | .ceq u _ => [u.target]
  | .cne u _ => [u.target]
  | .clt u _ => [u.target]
  | .cle u _ => [u.target]
  | .mand u _ => [u.target]
  | .mor u _ => [u.target]
  | .mxor u _ => [u.target]
  | .mnot u _ => [u.target]
  | .mfirst u _ => [u.target]
  | .mcnt u _ => [u.target]
  | .mflag u _ => [u.target]
  | .rsum u _ => [u.target]
  | .rsumsq u _ => [u.target]
  | .rmax u _ => [u.target]
  | .rmin u _ => [u.target]
  | .ramax u _ => [u.target]
  | .bcast u _ => [u.target]
  | .iota u _ => [u.target]
  | .f2i u _ => [u.target]
  | .i2f u _ => [u.target]
  | .ld u _ => [u.target]
  | .st u _ => [u.target]
  | .ldb u _ => [u.target]
  | .ldq u _ => [u.target]
  | .stq u _ => [u.target]
  | .sld u _ => [u.target]
  | .sst u _ => [u.target]
  | .cvtb u _ => [u.target]
  | .sli u _ => [u.target]
  | .sadd u _ => [u.target]
  | .ssub u _ => [u.target]
  | .smul u _ => [u.target]
  | .sfadd u _ => [u.target]
  | .sfmul u _ => [u.target]
  | .sfdiv u _ => [u.target]
  | .br u _ => [u.target]
  | .bz u _ => [u.target]
  | .bnz u _ => [u.target]
  | .blt u _ => [u.target]
  | .call u _ => [u.target]
  | .ret u _ => [u.target]
  | .programHalt u _ => [u.target]
  | .dmaStart ch => [(ch, channelCount)]
  | .dmaDescriptor ch _ => [(ch, channelCount)]
  | .dmaRetry ch => [(ch, channelCount)]
  | .dmaStop ch => [(ch, channelCount)]
  | .updatePass2 d => [(d, computeDies)]
  | .groupTimeout d stream => [(d, computeDies), (stream, streamCount)]
  | .updAbort d => [(d, computeDies)]
  | .updConfigWrite d _ _ => [(d, computeDies)]
  | .ingestRecord e => [(e, computeDies)]
  | .ingestTailPoll e => [(e, computeDies)]
  | .batchDeadline e => [(e, computeDies)]
  | .ingestAbort e => [(e, computeDies)]
  | .peerWrite q => [(q, peerQueueCount)]
  | .peerRead q _ => [(q, peerQueueCount)]
  | .peerAddw q => [(q, peerQueueCount)]
  | .note q => [(q, peerQueueCount)]
  | .peerEntryDone q _ _ => [(q, peerQueueCount)]
  | .peerRequest r => [(r.port, 2)]
  | .peerFlitForward f => [(f.port, 2)]
  | .queueTailWrite q _ => [(q, peerQueueCount)]
  | .queueBell addr _ => [(addr, addressEnd)]
  | .queueStop q => [(q, peerQueueCount)]
  | .queueEnable q _ => [(q, peerQueueCount)]
  | .plkRetrain n => [(n, 2)]
  | .peerPortRetrain n _ => [(n, 2)]
  | .peerPortDown n => [(n, 2)]
  | .timeMasterSet => []
  | .timingFlitExchange port _ _ _ _ => [(port, 2)]
  | .timeAnnouncement port _ _ _ _ _ => [(port, 2)]
  | .throttleLevelReport _ group _ _ => [(group, groupCount)]
  | .recon _ _ => []
  | .dump => []
  | .dumpDone => []
  | .snap => []
  | .periodicSnapshot => []
  | .clear _ => []
  | .clrmax => []
  | .fwupd _ => []
  | .quote => []
  | .quoteDone => []
  | .pwrLimitWrite _ => []
  | .p42vBelow30V => []
  | .supportEnd => []
  | .bmpEnable n _ => [(n, 4)]
  | .plkEnable n _ => [(n, 2)]

/-- The operands of a command agree with each other. -/
def Instr.agree (i : Instr) : Bool :=
  match i with
  | .p42vStart _ => true
  | .railsInRegulation => true
  | .p42vOutOfRange _ => true
  | .lossOf42v => true
  | .railFault => true
  | .thermalTrip => true
  | .modResetAssert => true
  | .modResetDeassert _ _ _ => true
  | .romIdentity _ _ => true
  | .fwVerify _ _ => true
  | .recorderRestore _ _ _ _ _ _ => true
  | .arraySelfTest bad => bad.all (fun e => decide (e.1 < arrayCount) && decide (e.2 < 16))
  | .hbmTraining failed => failed.all (fun e => decide (e.1 < 16) && decide (e.2 < 32))
  | .linkTraining _ => true
  | .readyEntry => true
  | .smbWrite _ _ => true
  | .smbSetReadAddress _ => true
  | .smbRead => true
  | .ppsInEdge => true
  | .ppsOutPulse => true
  | .ppsOutEnd => true
  | .throttleUpdate temps => temps.all (fun t => decide (t.die < 5))
  | .powerTermUpdate _ => true
  | .currentGuardHold _ => true
  | .guardHoldExpiry _ => true
  | .registerWrite addr width _ => decide (addr % width = 0) && (width = 4 || width = 8)
  | .hostRequest r => r.ok
  | .hostWriteAck _ _ => true
  | .hostReset => true
  | .hostLinkDownTimeout => true
  | .hostLinkUp _ => true
  | .hostLinkRetrain _ => true
  | .hostLaneFailure _ => true
  | .linkReplay _ _ => true
  | .hlkRetrain => true
  | .handshake _ => true
  | .holdBaseWrite _ => true
  | .frmCalWrite _ => true
  | .groupBaseTick _ => true
  | .admissionCut _ => true
  | .decisionPoint _ => true
  | .frameStart _ => true
  | .moduleAuditPoint => true
  | .clusterFrameDone _ => true
  | .drainRequest _ => true
  | .resume _ => true
  | .clrslk _ => true
  | .commandTailDoorbell _ _ => true
  | .completionHeadDoorbell _ _ => true
  | .commandFetch _ => true
  | .commandReread _ => true
  | .scmdSetStream _ => true
  | .arm _ => true
  | .halt _ => true
  | .disarm _ => true
  | .reload _ => true
  | .query _ => true
  | .reservedAction _ _ => true
  | .stmTableBaseWrite _ => true
  | .stmArgBaseWrite _ => true
  | .nop _ => true
  | .run _ => true
  | .dma _ => true
  | .update _ => true
  | .exportShard _ => true
  | .importShard _ => true
  | .map _ => true
  | .unmap _ => true
  | .place _ => true
  | .evict _ => true
  | .dropb _ => true
  | .attr _ => true
  | .copy _ => true
  | .fence _ => true
  | .signal _ => true
  | .wait _ => true
  | .waitTimeout _ => true
  | .loadBitstream _ => true
  | .tieSum _ => true
  | .ingest _ => true
  | .load => true
  | .flash => true
  | .abort => true
  | .keyreg _ => true
  | .loadVerify _ _ => true
  | .loadApply => true
  | .loadDone => true
  | .repairStart _ _ => true
  | .clusterFailure _ => true
  | .repairCopy _ lost _ => lost.all (fun l => decide (l < 0x18000))
  | .routerFault _ => true
  | .dieControllerFailure _ => true
  | .ringBreak _ _ isolated => isolated.all (fun m => decide (m < 5))
  | .eccCorrectable _ => true
  | .eccUncorrectable _ by_ => by_.ok
  | .mpRestart _ => true
  | .patrolScrub _ _ => true
  | .retire _ _ _ => true
  | .clrlate _ => true
  | .footprintPin _ => true
  | .migrationCopyDone _ _ _ _ => true
  | .dirtyRequest _ _ => true
  | .tlbWalk _ _ _ => true
  | .tlbInvalidate _ _ _ => true
  | .invalidateAck _ _ _ => true
  | .bmpRetrain _ => true
  | .boardPortRetrain _ _ => true
  | .boardPortDown _ => true
  | .poisonedLine _ by_ => by_.ok
  | .mac _ h _ rep parity => decide (rep ≤ h.reps.toNat) && parity.all (fun e => decide (e.1 < 4) && decide (e.2.1 < 16) && decide (e.2.2 < 1024))
  | .drainWord _ h _ rep => decide (rep ≤ h.reps.toNat)
  | .fetch _ _ _ => true
  | .fetchWithDrainFlag _ _ _ => true
  | .drain _ _ _ => true
  | .addw _ _ _ => true
  | .maxm _ _ _ => true
  | .fetchComplete _ _ => true
  | .drainComplete _ => true
  | .synSignal _ _ _ => true
  | .synWait _ _ _ => true
  | .tokenIncrementArrival _ _ _ => true
  | .qput _ _ _ => true
  | .qget _ _ _ => true
  | .qrel _ _ _ => true
  | .queueAnnounceArrival _ _ _ => true
  | .queueCreditArrival _ _ _ => true
  | .cbar _ _ _ => true
  | .conversionDone _ => true
  | .vecNop _ _ => true
  | .add _ _ => true
  | .sub _ _ => true
  | .mul _ _ => true
  | .fma _ _ => true
  | .fnma _ _ => true
  | .min _ _ => true
  | .max _ _ => true
  | .clamp _ _ => true
  | .abs _ _ => true
  | .neg _ _ => true
  | .sign _ _ => true
  | .div _ _ => true
  | .sqrt _ _ => true
  | .rsqrt _ _ => true
  | .rcp _ _ => true
  | .exp2 _ _ => true
  | .log2 _ _ => true
  | .exp _ _ => true
  | .tanh _ _ => true
  | .erf _ _ => true
  | .sel _ _ => true
  | .mov _ _ => true
  | .ceq _ _ => true
  | .cne _ _ => true
  | .clt _ _ => true
  | .cle _ _ => true
  | .mand _ _ => true
  | .mor _ _ => true
  | .mxor _ _ => true
  | .mnot _ _ => true
  | .mfirst _ _ => true
  | .mcnt _ _ => true
  | .mflag _ _ => true
  | .rsum _ _ => true
  | .rsumsq _ _ => true
  | .rmax _ _ => true
  | .rmin _ _ => true
  | .ramax _ _ => true
  | .bcast _ _ => true
  | .iota _ _ => true
  | .f2i _ _ => true
  | .i2f _ _ => true
  | .ld _ _ => true
  | .st _ _ => true
  | .ldb _ _ => true
  | .ldq _ _ => true
  | .stq _ _ => true
  | .sld _ _ => true
  | .sst _ _ => true
  | .cvtb _ _ => true
  | .sli _ _ => true
  | .sadd _ _ => true
  | .ssub _ _ => true
  | .smul _ _ => true
  | .sfadd _ _ => true
  | .sfmul _ _ => true
  | .sfdiv _ _ => true
  | .br _ _ => true
  | .bz _ _ => true
  | .bnz _ _ => true
  | .blt _ _ => true
  | .call _ _ => true
  | .ret _ _ => true
  | .programHalt _ _ => true
  | .dmaStart _ => true
  | .dmaDescriptor _ _ => true
  | .dmaRetry _ => true
  | .dmaStop _ => true
  | .updatePass2 _ => true
  | .groupTimeout _ _ => true
  | .updAbort _ => true
  | .updConfigWrite _ off _ => decide (off % 8 = 0)
  | .ingestRecord _ => true
  | .ingestTailPoll _ => true
  | .batchDeadline _ => true
  | .ingestAbort _ => true
  | .peerWrite _ => true
  | .peerRead _ _ => true
  | .peerAddw _ => true
  | .note _ => true
  | .peerEntryDone _ _ _ => true
  | .peerRequest r => r.req.ok
  | .peerFlitForward _ => true
  | .queueTailWrite _ _ => true
  | .queueBell _ _ => true
  | .queueStop _ => true
  | .queueEnable _ _ => true
  | .plkRetrain _ => true
  | .peerPortRetrain _ _ => true
  | .peerPortDown _ => true
  | .timeMasterSet => true
  | .timingFlitExchange _ _ _ skews _ => skews.all (fun e => decide (e.1 < groupCount))
  | .timeAnnouncement _ _ _ _ _ groups => groups.all (fun g => decide (g.group < groupCount))
  | .throttleLevelReport _ _ _ _ => true
  | .recon _ _ => true
  | .dump => true
  | .dumpDone => true
  | .snap => true
  | .periodicSnapshot => true
  | .clear _ => true
  | .clrmax => true
  | .fwupd _ => true
  | .quote => true
  | .quoteDone => true
  | .pwrLimitWrite _ => true
  | .p42vBelow30V => true
  | .supportEnd => true
  | .bmpEnable _ _ => true
  | .plkEnable _ _ => true

/-- A well-formed command. -/
def Instr.wf (i : Instr) : Bool := i.targets.all (fun x => decide (x.1 < x.2)) && i.agree

end Sys2Proof
end

