-- ==== Sys2Proof/Certificates/Slice0/Obligations.lean ====
section
/-! DEFINITION. The statements for the provers. Each says what a rule of the specification says of the commands it names. -/
open Sys2Proof Sys2Proof.Machine

/-! ## The machine as a whole -/

/-- A step takes the command at the front of the queue and is `exec` of it on the state with the queue's rest; an empty queue
lets one cycle pass (log entry 1). -/
def Obligations.StepRunsFrontCommand : Prop :=
  (∀ (s : State) (c : Instr) (rest : List Instr), s.pending = c :: rest → step s = exec c { s with pending := rest }) ∧
  (∀ s : State, s.pending = [] → step s = .next (idleCycle s))

/-- What reset leaves: time base 0 and stage ROM (00 R12, 06 R159, 17 R477, R485), and no command waiting. The rest is the model's choice: rails up and
not in reset (log entry 20), memory with nothing listed (log entry 3), and no stream, partition, cluster or core with state of its own (log
entry 2). -/
def Obligations.ResetState : Prop :=
  State.reset.time = 0 ∧ State.reset.pwr.stage = .rom ∧ State.reset.alive = true ∧ State.reset.mem = [] ∧ State.reset.pending = []
    ∧ (∀ n, State.reset.stream n = {}) ∧ (∀ p, State.reset.part p = {}) ∧ (∀ g, State.reset.cluster g = {})
    ∧ (∀ c, State.reset.core c = {}) ∧ State.reset.MemOk ∧ State.reset.Between

/-- Every step keeps device memory and module flash in canonical form. -/
def Obligations.StepKeepsMemoryForm : Prop :=
  ∀ s t : State, s.MemOk → step s = .next t → t.MemOk

/-- No command touches the queue of the commands that wait behind it, and none leaves an access under way. -/
def Obligations.ExecKeepsQueue : Prop :=
  ∀ (c : Instr) (s t : State), exec c s = .next t → t.pending = s.pending ∧ (s.Between → t.Between)

/-- Every command goes on: in every state each has a next state, which keeps the queue of those behind it, and so has every step. No command
ends in a fault, none is refused. That a command changes nothing in a state in which the event it stands for cannot happen is the model's choice
(log entry 4). -/
def Obligations.EveryCommandGoesOn : Prop :=
  (∀ (c : Instr) (s : State), ∃ t, exec c s = .next t ∧ t.pending = s.pending) ∧ ∀ s : State, ∃ t, step s = .next t

/-! ## 17: power, reset, start-up -/

/-- P42V above 38.0 V starts the rails, unless a latch holds; the last rail releases PWR_GOOD, with the module in reset; a
deassertion of MOD_RESET_N under the timing rule starts stage ROM at time base 0, and one that breaks the rule is ignored
until the next assertion (R467, R475, R477).

A loss of 42 V, a rail fault, a thermal trip and an assertion of MOD_RESET_N put every register at its reset value; flash
and memory outside the module stay. A rail fault and a trip latch until P42V falls below 30 V; THERM_TRIP_N stays asserted
as long (R467, R471, R476, R477; 00 R12). Rails that are down stay down at a trip, which still asserts THERM_TRIP_N while the bias supply is there
(R471); with the rails down PPS_OUT is released and PWR_GOOD low (R478, R480).

That memory inside the module is emptied by a reset, as `outsideMem` has it, is the model's choice (log entry 3); so is that the voltage last
reported stays known through it, and that the bias supply is there from 30 V on (log entry 71). -/
def Obligations.PowerSequence : Prop :=
  ((∀ (s : State) (mv : Nat), s.pwr.railsUp = false → s.pwr.latched = false → 38000 < mv → mv ≤ 48000 →
     exec (.p42vStart mv) s = .next { s with pwr := { s.pwr with starting := true, bias := true, p42v := BitVec.ofNat 16 mv } }) ∧
   (∀ s : State, s.pwr.starting = true → exec .railsInRegulation s =
     .next { s with pwr := { s.pwr with railsUp := true, starting := false, inReset := true, lockedOut := false } }) ∧
   (∀ (s : State) (good asserted : Nat), s.pwr.railsUp = true → s.pwr.inReset = true → s.pwr.lockedOut = false →
     (1000 ≤ good → 20000 ≤ asserted → let up : State := { s with time := 0, pwr := { s.pwr with inReset := false, stage := .rom } }
       (38000 ≤ s.pwr.p42v.toNat → s.pwr.p42v.toNat ≤ 46000 → exec (.modResetDeassert good asserted true) s = .next up) ∧
       (s.pwr.p42v.toNat < 38000 ∨ 46000 < s.pwr.p42v.toNat → exec (.modResetDeassert good asserted true) s =
         .next ((up.alert 1).event 0x0902 0 s.pwr.p42v.toNat))) ∧
     (∀ stable, good < 1000 ∨ asserted < 20000 ∨ stable = false → exec (.modResetDeassert good asserted stable) s =
       .next { s with pwr := { s.pwr with lockedOut := true } })) ∧
   (∀ (s : State) (good asserted : Nat) (stable : Bool), s.pwr.lockedOut = true →
     exec (.modResetDeassert good asserted stable) s = .next s)) ∧
  (let off (s : State) (w : Pwr) : State :=
     { State.reset with flash := s.flash, mem := outsideMem s.mem, pending := s.pending, draw := s.draw, pwr := w }
   (∀ s : State, s.pwr.railsUp = true ∨ s.pwr.starting = true → exec .lossOf42v s =
     .next (off s { p42v := s.pwr.p42v, bias := s.pwr.bias, railsUp := false, inReset := true, latched := s.pwr.latched,
                    tripped := s.pwr.tripped })) ∧
   (∀ s : State, s.pwr.railsUp = true ∨ s.pwr.starting = true → exec .railFault s =
     .next (off s { p42v := s.pwr.p42v, bias := s.pwr.bias, railsUp := false, inReset := true, latched := true, tripped := s.pwr.tripped })) ∧
   (∀ s : State, s.pwr.railsUp = true ∨ s.pwr.starting = true → exec .thermalTrip s =
     .next (off s { p42v := s.pwr.p42v, bias := s.pwr.bias, railsUp := false, inReset := true, latched := true, tripped := true })) ∧
   (∀ s : State, s.pwr.railsUp = false → s.pwr.starting = false → s.pwr.bias = true → exec .thermalTrip s =
     .next { s with pwr := { s.pwr with latched := true, tripped := true } }) ∧
   (∀ s t : State, s.pwr.railsUp = true ∨ s.pwr.starting = true → exec .lossOf42v s = .next t ∨ exec .railFault s = .next t ∨
     exec .thermalTrip s = .next t ∨ exec .p42vBelow30V s = .next t →
     ppsPinLow t = false ∧ goodPinLow t = true ∧ alertPin t = false ∧ (exec .thermalTrip s = .next t → tripPin t = true)) ∧
   (∀ s : State, s.pwr.railsUp = true → exec .modResetAssert s =
     .next (off s { p42v := s.pwr.p42v, bias := s.pwr.bias, railsUp := true, inReset := true, latched := s.pwr.latched,
                    tripped := s.pwr.tripped })) ∧
   (∀ s : State, s.pwr.railsUp = false → s.pwr.starting = false → exec .p42vBelow30V s =
     .next { s with pwr := { s.pwr with latched := false, tripped := false, bias := false } }) ∧
   (∀ s : State, s.pwr.railsUp = true ∨ s.pwr.starting = true → exec .p42vBelow30V s =
     .next (off s { p42v := s.pwr.p42v, bias := false, railsUp := false, inReset := true })) ∧
   (∀ (s : State) (mv : Nat), let now := { s.pwr with p42v := BitVec.ofNat 16 mv, bias := decide (30000 ≤ mv) }
     (s.alive = true → mv < 38000 ∨ 46000 < mv → exec (.p42vOutOfRange mv) s =
       .next ((({ s with pwr := { now with mv := BitVec.ofNat 16 mv } }.alert 1).event 0x0902 0 mv).charge 0)) ∧
     (s.alive = true → 38000 ≤ mv → mv ≤ 46000 → exec (.p42vOutOfRange mv) s =
       .next ({ s with pwr := { now with mv := BitVec.ofNat 16 mv } }.charge 0)) ∧
     (s.alive = false → exec (.p42vOutOfRange mv) s = .next { s with pwr := now })))

/-- The start-up stages follow each other in order: ROM, FW, RESTORE, SELFTEST, HBM, LINKS, READY; with no valid copy of
Bubarus the module stops in NOIMAGE (R484, R485). What SM2 makes of a copy's or a record's signature, the outcomes of self-test and of training,
and the bytes of a copy that no update has written are taken from outside (log entry 10).

What start-up leaves alone: the time base, every partition, cluster, core and stream, and the engines; only stage LINKS and
a record of failed pseudo-channels write flash, and only READY writes memory (the bit-stream's copy in the boot range). -/
def Obligations.StartUp : Prop :=
  ((∀ (s : State) (d e : BitVec 512), s.alive = true → s.pwr.stage = .rom → ∃ t, exec (.romIdentity d e) s = .next t ∧
     t.pwr.stage = .fw ∧ t.pwr.pubKey = d ∧ t.pwr.idok = decide (d = e) ∧ (d ≠ e → t.pwr.alert = s.pwr.alert ||| 32)) ∧
   (∀ (s : State) (x y : Seal), s.alive = true → s.pwr.stage = .fw → let a := fwCopyOk s false x; let b := fwCopyOk s true y
     ∃ t, exec (.fwVerify x y) s = .next t ∧
     ((a || b) = true → t.pwr.stage = .restore ∧
       (t.pwr.bootcopy = true ↔ b = true ∧ (a = true → fwSeqAt s false < fwSeqAt s true))) ∧
     ((a || b) = false → t.pwr.stage = .noimage ∧ t.pwr.alert = s.pwr.alert ||| 16)) ∧
   (∀ (s : State) (a b c d : Option SigFact) (e f : Bool), s.alive = true → s.pwr.stage = .restore → ∃ t,
     exec (.recorderRestore a b c d e f) s = .next t ∧ t.pwr.stage = .selftest ∧ t.evr.restored = true) ∧
   (∀ (s : State) (bad : List (Nat × Nat)), s.alive = true → s.pwr.stage = .selftest → ∃ t, exec (.arraySelfTest bad) s = .next t ∧
     t.pwr.stage = .hbm ∧ ∀ b ∈ bad, b ∈ t.cfg.badCols) ∧
   (∀ (s : State) (l : List (Nat × Nat)), s.alive = true → s.pwr.stage = .hbm → ∃ t, exec (.hbmTraining l) s = .next t ∧
     t.pwr.stage = .links ∧ ∀ f ∈ l, f.2 < 32 → pchOut t f.1 f.2 = true) ∧
   (∀ (s : State) (l : List PortUp), s.alive = true → s.pwr.stage = .links → ∃ t, exec (.linkTraining l) s = .next t ∧
     t.pwr.stage = .links ∧ t.aud.linksInit = true ∧
     ∀ i, i < 30 → (tget {} t.aud.links i).free = (tget {} t.aud.links i).total) ∧
   (∀ s : State, s.alive = true → s.pwr.stage = .links → s.aud.linksInit = true → ∃ t, exec .readyEntry s = .next t ∧
     t.pwr.stage = .ready ∧ t.pwr.alert = s.pwr.alert ||| 16)) ∧
  ((∀ (s t : State) (d e : BitVec 512), exec (.romIdentity d e) s = .next t →
     t = { s with pwr := t.pwr, mgt := t.mgt, evr := t.evr }) ∧
   (∀ (s t : State) (a b : Seal), exec (.fwVerify a b) s = .next t → t = { s with pwr := t.pwr, mgt := t.mgt, evr := t.evr }) ∧
   (∀ (s t : State) (a b c d : Option SigFact) (e f : Bool), exec (.recorderRestore a b c d e f) s = .next t →
     t = { s with pwr := t.pwr, evr := t.evr, cfg := t.cfg, draw := t.draw }) ∧
   (∀ (s t : State) (l : List (Nat × Nat)), exec (.arraySelfTest l) s = .next t →
     t = { s with pwr := t.pwr, mgt := t.mgt, evr := t.evr, cfg := t.cfg }) ∧
   (∀ (s t : State) (l : List (Nat × Nat)), exec (.hbmTraining l) s = .next t →
     t = { s with pwr := t.pwr, mgt := t.mgt, mig := t.mig, evr := t.evr, cfg := t.cfg, flash := t.flash, draw := t.draw }) ∧
   (∀ (s t : State) (l : List PortUp), exec (.linkTraining l) s = .next t →
     t = { s with pwr := t.pwr, hlk := t.hlk, plk := t.plk, bmp := t.bmp, aud := t.aud, evr := t.evr, cfg := t.cfg, flash := t.flash,
                  draw := t.draw }) ∧
   (∀ s t : State, exec .readyEntry s = .next t → t = { s with pwr := t.pwr, evr := t.evr, cfg := t.cfg, mem := t.mem }))

/-- The throttle level of a die is the largest of the die term, the stack term, ℓ_P and FLOOR; the die term is n for
95 + n ≤ T < 96 + n °C, 0 below 96 °C and 15 from 110 °C on (temperatures in 0.1 °C); ℓ_P rises by 1, up to 15, while the 1 ms
average exceeds PWR_LIMIT, and falls by 1, down to 0, while it is below 95 % of it (R469).

At 39.6 A the current guard holds issue for 1,200 cycles, raises ℓ_P by 1 and alert GUARD, and repeats the hold while the
current stays there (R470). -/
def Obligations.ThrottleAndGuard : Prop :=
  ((∀ (s : State) (x : DieTemp), s.alive = true → x.die < 4 → ∃ t, exec (.throttleUpdate [x]) s = .next t ∧
     tget 0 t.frm.throt x.die =
       BitVec.ofNat 4 (Nat.max (Nat.max (tempTerm 950 x.tj) (tempTerm 850 x.hbm)) (Nat.max s.pwr.lp.toNat s.pwr.floor.toNat)) ∧
     (∀ e, e < 4 → e ≠ x.die → let last := tget {} s.pwr.temps e
       tget 0 t.frm.throt e = BitVec.ofNat 4 (Nat.max (Nat.max (tempTerm 950 last.tj.toInt) (tempTerm 850 last.hbm.toInt))
         (Nat.max s.pwr.lp.toNat s.pwr.floor.toNat))) ∧
     (∀ e, 4 ≤ e → tget 0 t.frm.throt e = tget 0 s.frm.throt e) ∧ t.pwr.lp = s.pwr.lp ∧
     t = { s with frm := t.frm, pwr := t.pwr, evr := t.evr, aud := t.aud }) ∧
   (∀ (b x : Int) (n : Nat), (x < b + 10 → tempTerm b x = 0) ∧ (b + 150 ≤ x → tempTerm b x = 15) ∧
     (1 ≤ n → n ≤ 14 → b + 10 * n ≤ x → x < b + 10 * n + 10 → tempTerm b x = n)) ∧
   (∀ (s : State) (avg : Nat), s.alive = true → ∃ t, exec (.powerTermUpdate avg) s = .next t ∧ t.pwr.pavg = BitVec.ofNat 16 avg ∧
     (s.pwr.limit.toNat < avg → t.pwr.lp.toNat = Nat.min 15 (s.pwr.lp.toNat + 1)) ∧
     (avg * 100 < 95 * s.pwr.limit.toNat → t.pwr.lp.toNat = s.pwr.lp.toNat - 1) ∧
     (avg ≤ s.pwr.limit.toNat → 95 * s.pwr.limit.toNat ≤ avg * 100 → t.pwr.lp = s.pwr.lp) ∧
     t = { s with pwr := t.pwr, evr := t.evr })) ∧
  ((∀ (s : State) (ma : Nat), s.alive = true → s.pwr.guardHeld = false → 39600 ≤ ma → ∃ t, exec (.currentGuardHold ma) s = .next t ∧
     t.pwr.guardHeld = true ∧ t.pwr.guardEnd = s.time + 1200 ∧ t.pwr.lp.toNat = Nat.min 15 (s.pwr.lp.toNat + 1) ∧
     t.pwr.alert = s.pwr.alert ||| 8 ∧ t = { s with pwr := t.pwr, evr := t.evr }) ∧
   (∀ (s : State) (ma : Nat), s.alive = true → s.pwr.guardHeld = true → ∃ t, exec (.guardHoldExpiry ma) s = .next t ∧
     t.time = Nat.max s.time s.pwr.guardEnd ∧ (39600 ≤ ma → t.pwr.guardHeld = true ∧ t.pwr.guardEnd = t.time + 1200) ∧
     (ma < 39600 → t.pwr.guardHeld = false) ∧ t = { s with time := t.time, aud := t.aud, pwr := t.pwr, evr := t.evr }))

/-- A rising edge of PPS_IN captures shared time; shared time's crossing of a multiple of 1,200,000,000 releases PPS_OUT for
100 ms (R436, R482); calendar time that reaches SUPPORT_END ends the SUPPORT condition (R451, R484). CLRMAX clears the largest
power average, and PWR_LIMIT takes 600 to 1,500 W and ignores the rest (R493). -/
def Obligations.PpsSupportAndPowerRegisters : Prop :=
  (∀ s : State, s.alive = true → s.plk.locked = true → exec .ppsInEdge s =
    .next { s with plk := { s.plk with pps := BitVec.ofNat 64 ((s.time : Int) + s.plk.toffset).toNat } }) ∧
  (∀ s : State, s.alive = true → s.plk.locked = true → 0 ≤ (s.time : Int) + s.plk.toffset → ∃ t, exec .ppsOutPulse s = .next t ∧
    t.pwr.ppsOut = true ∧ t.pwr.ppsOutEnd = t.time + 120000000 ∧ (sharedTime t) % 1200000000 = 0 ∧
    s.time ≤ t.time ∧ t.time < s.time + 1200000000) ∧
  (∀ s : State, s.alive = true → s.pwr.ppsOut = true → ∃ t, exec .ppsOutEnd s = .next t ∧ t.pwr.ppsOut = false ∧
    t.time = Nat.max s.time s.pwr.ppsOutEnd) ∧
  (∀ s : State, s.alive = true → s.frm.calSet = true → s.frm.calTb.toNat ≤ s.time → ∃ t, exec .supportEnd s = .next t ∧
    s.pwr.supportEnd.toNat ≤ calNs t t.time ∧ t.aud.cond.toNat < 8 ∧ t.mem = s.mem ∧ t.pwr = s.pwr) ∧
  (∀ s : State, s.alive = true → exec .clrmax s = .next { s with pwr := { s.pwr with pmax := 0 } }) ∧
  (∀ (s : State) (v : W64), s.alive = true →
    (600 ≤ v.toNat % 2048 → v.toNat % 2048 ≤ 1500 → ∃ t, exec (.pwrLimitWrite v) s = .next t ∧ t.pwr.limit.toNat = v.toNat % 2048 ∧
      t = { s with pwr := { s.pwr with limit := t.pwr.limit } }) ∧
    (v.toNat % 2048 < 600 ∨ 1500 < v.toNat % 2048 → exec (.pwrLimitWrite v) s = .next s))

/-! ## 00, 10, 17: registers, host requests, SMBus -/

/-- Register accesses (R9, R10): a 64-bit write of an RW register is what a read then returns; a 32-bit write replaces the
addressed half; a misaligned access, one of another width, or one to an absent block writes nothing, is counted under code
0x0002, and the first on the die is latched in MGT_ERRADDR. Values are stated where no request waits for a port: a write after which one need not
wait carries it out as well (08 R264). -/
def Obligations.RegisterWrites : Prop :=
  (∀ (s : State) (k n : Nat) (v : W64), s.alive = true → s.hlk.heldReqs = [] → k < 5 → n < 4 → ∃ t,
    exec (.registerWrite (scratchAt k n) 8 v) s = .next t ∧ (t.regRead1 (scratchAt k n) 8).1 = leBytes 8 v.toNat ∧
    (∀ a, a ≠ scratchAt k n → a % 8 = 0 → regBase ≤ a → a < regEnd → (t.regRead1 a 8).1 = (s.regRead1 a 8).1) ∧
    t = { s with mgt := t.mgt }) ∧
  (∀ (s : State) (k n : Nat) (v : W64), s.alive = true → s.hlk.heldReqs = [] → k < 5 → n < 4 → v.toNat < 2 ^ 32 → ∃ t,
    exec (.registerWrite (scratchAt k n + 4) 4 v) s = .next t ∧
    (t.regRead1 (scratchAt k n + 4) 4).1 = leBytes 4 v.toNat ∧
    (t.regRead1 (scratchAt k n) 4).1 = (s.regRead1 (scratchAt k n) 4).1 ∧ t = { s with mgt := t.mgt }) ∧
  (∀ (s : State) (addr width : Nat) (v : W64), s.alive = true → s.hlk.heldReqs = [] → regBase ≤ addr → addr < regEnd → width ≤ 64 →
    regAccessOk addr width = false → ∃ t, exec (.registerWrite addr width v) s = .next t ∧
    (t.mgtOf (dieCode (regDie addr))).errVal = true ∧
    (∀ k, k ≠ dieCode (regDie addr) ∨ (s.mgtOf k).errVal = true → t.mgtOf k = s.mgtOf k) ∧
    ((s.mgtOf (dieCode (regDie addr))).errVal = false → (t.mgtOf (dieCode (regDie addr))).errAddr = BitVec.ofNat 48 addr) ∧
    t.evr = (s.event 0x0002 (dieCode (regDie addr)) (addr % 2 ^ 32)).evr ∧ t = { s with mgt := t.mgt, evr := t.evr })

/-- Host requests through the window, while the link is not down: a request within one line of memory stores its bytes, or
returns the bytes there; one that reaches no location writes nothing, ends in Completer Abort, is counted under code 0x0403 and
latched (R306, R307; the same of a window address in host memory's range); a link that trains again holds the request (R314). One to a board port
that trains waits (08 R264).

SMBus (R481): from stage FW on, command 0x10 stores 64 bits, 0x11 sets the read address and 0x12 returns the 64 bits there. -/
def Obligations.HostWindowAndSmbus : Prop :=
  ((∀ (s : State) (off : Nat) (data : List Byte), s.alive = true → s.hlk.state ≠ .down → linkHolds s = false → s.hlk.heldReqs = [] →
     boardWaits s (s.hlk.winBase.toNat + off) = false → 0 < data.length → off + data.length ≤ windowBytes → (s.hlk.winBase.toNat + off) % 64 + data.length ≤ 64 →
     s.hlk.winBase.toNat + off < hostBase → locate s (s.hlk.winBase.toNat + off) = .mem →
     exec (.hostRequest (.writeWindow off data)) s = .next (s.wr (s.hlk.winBase.toNat + off) data)) ∧
   (∀ (s : State) (off n : Nat), s.alive = true → s.hlk.state ≠ .down → linkHolds s = false → s.hlk.heldReqs = [] →
     boardWaits s (s.hlk.winBase.toNat + off) = false → 0 < n → off + n ≤ windowBytes →
     (s.hlk.winBase.toNat + off) % 64 + n ≤ 64 → s.hlk.winBase.toNat + off < hostBase →
     locate s (s.hlk.winBase.toNat + off) = .mem → exec (.hostRequest (.readWindow off n)) s =
       .next { s with hlk := { s.hlk with reply := s.rd (s.hlk.winBase.toNat + off) n, aborted := false } }) ∧
   (∀ (s : State) (off n : Nat), s.alive = true → s.hlk.state ≠ .down → linkHolds s = false → s.hlk.heldReqs = [] → 0 < n →
     off + n ≤ windowBytes → (s.hlk.winBase.toNat + off) % 64 + n ≤ 64 →
     hostBase ≤ s.hlk.winBase.toNat + off ∨ locate s (s.hlk.winBase.toNat + off) = .none ∨ locate s (s.hlk.winBase.toNat + off) = .uni →
     ∃ t, exec (.hostRequest (.readWindow off n)) s = .next t ∧ t.hlk.aborted = true ∧ t.hlk.errVal = true ∧
       t.evr = (s.event 0x0403 0 (fieldNat (s.hlk.winBase.toNat + off) 47 21)).evr ∧ t = { s with hlk := t.hlk, evr := t.evr }) ∧
   (∀ (s : State) (r : HostReq), s.alive = true → linkHolds s = true → exec (.hostRequest r) s =
     .next { s with hlk := { s.hlk with heldReqs := s.hlk.heldReqs ++ [.host r] } }) ∧
   (∀ (s : State) (off : Nat) (data : List Byte), s.alive = true → s.hlk.state ≠ .down → linkHolds s = false → 0 < data.length →
     (s.hlk.winBase.toNat + off) % 64 + data.length ≤ 64 → s.hlk.winBase.toNat + off < hostBase →
     locate s (s.hlk.winBase.toNat + off) = .mem → boardWaits s (s.hlk.winBase.toNat + off) = true →
     exec (.hostRequest (.writeWindow off data)) s =
       .next { s with hlk := { s.hlk with heldReqs := s.hlk.heldReqs ++ [.host (.writeWindow off data)] } })) ∧
  ((∀ (s : State) (a : Nat) (v : W64), s.alive = true → s.Between → s.pwr.stage ≠ .rom → a % 8 = 0 → locate s a = .mem →
     boardWaits s a = false →
     exec (.smbWrite a v) s = .next (s.wr a (leBytes 8 v.toNat))) ∧
   (∀ (s : State) (a : Nat), s.alive = true → s.pwr.stage ≠ .rom →
     exec (.smbSetReadAddress a) s = .next { s with pwr := { s.pwr with smbAddr := BitVec.ofNat 64 a } }) ∧
   (∀ s : State, s.alive = true → s.Between → s.pwr.stage ≠ .rom → s.pwr.smbAddr.toNat % 8 = 0 → locate s s.pwr.smbAddr.toNat = .mem →
     boardWaits s s.pwr.smbAddr.toNat = false → exec .smbRead s = .next { s with pwr := { s.pwr with smbData := BitVec.ofNat 64 (s.rdN s.pwr.smbAddr.toNat 8) } }))

/-! ## 10: the host link -/

/-- A loss of the host link (R316 to R318): EPOCH rises by one, NEEDHS is set, CAUSE and the time are latched, and every
host-bound stream that is ARMED, RUNNING or HALTED enters HOST_LOST. Cause 1 is a host reset, cause 2 a link down for 10 ms.

The host link trains to four lanes or to one pair, records its retrains and replays, and leaves UP when software asks for a
retrain (R314, R315, R320); it trains from stage LINKS on, unless the ledger holds it down (16 R446, 17 R484). The 10 ms and a retrain run from when the link left UP or began to train. Values are stated for a link that holds
no request: one that does carries them out as well (R314). -/
def Obligations.HostLink : Prop :=
  (∀ (s : State) (l : BitVec 4) (us lane : Nat), s.alive = true → mayTrain s 8 = false →
     exec (.hostLinkUp l) s = .next s ∧ exec (.hostLinkRetrain us) s = .next s ∧ exec (.hostLaneFailure lane) s = .next s) ∧
  (let lost (s t : State) (cause : Nat) : Prop :=
     t.hlk.epoch = s.hlk.epoch + 1 ∧ t.hlk.needhs = true ∧ t.hlk.cause = BitVec.ofNat 4 cause ∧
     (∀ n, (s.stream n).hostBound = true → (s.stream n).live = true ∨ (s.stream n).state = .halted →
       (t.stream n).state = .hostLost) ∧
     (∀ n, (s.stream n).hostBound = false ∨ (s.stream n).state = .idle → (t.stream n).state = (s.stream n).state)
   (∀ s : State, s.alive = true → s.hlk.heldReqs = [] → ∃ t, exec .hostReset s = .next t ∧ lost s t 1 ∧
     t.hlk.lossTime = BitVec.ofNat 64 s.time ∧ t.hlk.state = s.hlk.state ∧ t.time = s.time) ∧
   (∀ s : State, s.alive = true → s.hlk.heldReqs = [] → s.hlk.state ≠ .down ∨ s.hlk.downAt.isSome = true → ∃ t,
     exec .hostLinkDownTimeout s = .next t ∧ lost s t 2 ∧ t.hlk.state = .down ∧ t.hlk.lanes = 0 ∧
     t.time = Nat.max s.time ((if s.hlk.state = .up then s.time else s.hlk.downAt.getD s.time) + 12000000) ∧
     t.hlk.lossTime = BitVec.ofNat 64 t.time)) ∧
  ((∀ s : State, s.alive = true → s.hlk.state ≠ .up → mayTrain s 8 = true → s.hlk.width = 0 → lanesOut s .hlk = 0 → s.hlk.heldReqs = [] → quietStreams s → ∃ t,
     exec (.hostLinkUp 0xF) s = .next t ∧ t.hlk.state = .up ∧ t.hlk.lanes = 0xF ∧ t.hlk.downAt = none ∧
     t.hlk.retrains = (if s.hlk.trainAt.isSome then satAdd s.hlk.retrains 1 else s.hlk.retrains) ∧
     t.hlk.msix = (if s.hlk.needhs && s.hlk.irqEn then s.hlk.irqVec :: s.hlk.msix else s.hlk.msix) ∧ t = { s with hlk := t.hlk, evr := t.evr }) ∧
   (∀ (s : State) (us : Nat), s.alive = true → us < 10000 → s.hlk.state ≠ .down → mayTrain s 8 = true → s.hlk.width = 0 → lanesOut s .hlk = 0 →
     s.hlk.heldReqs = [] → quietStreams s → ∃ t,
     exec (.hostLinkRetrain us) s = .next t ∧ t.hlk.state = .up ∧ t.hlk.lanes = 0xF ∧ t.hlk.retrains = satAdd s.hlk.retrains 1 ∧
     t.time = Nat.max s.time (s.hlk.trainAt.getD s.time + 1200 * us) ∧ t = { s with hlk := t.hlk, evr := t.evr, aud := t.aud, time := t.time }) ∧
   (∀ (s : State) (lane : Nat), s.alive = true → lane < 4 → mayTrain s 8 = true → s.hlk.width = 0 → lanesOut s .hlk = 0 → s.hlk.heldReqs = [] → quietStreams s → ∃ t,
     exec (.hostLaneFailure lane) s = .next t ∧ t.hlk.state = .up ∧ t.hlk.lanes = (if lane < 2 then 0xC else 0x3) ∧
     t = { s with hlk := t.hlk, evr := t.evr, cfg := t.cfg, pwr := t.pwr, flash := t.flash, draw := t.draw }) ∧
   (∀ (s : State) (flits : Nat), s.alive = true → ∃ t, exec (.linkReplay .hlk flits) s = .next t ∧
     t.hlk.replays = satAdd s.hlk.replays flits ∧ t = { s with hlk := t.hlk, evr := t.evr }) ∧
   (∀ s : State, s.alive = true → s.hlk.state = .up → exec .hlkRetrain s =
     .next { s with hlk := { s.hlk with state := .training, lanes := 0, downAt := some s.time, trainAt := some s.time } }))

/-- The handshake (R320): with NEEDHS set and the link up, a write of EPOCH clears NEEDHS and is counted under 0x0404; any other
write is counted under 0x0408 and changes nothing else. HLK_HOLD_BASE is written only while no stream is HOST_LOST (R319); a
write of FRM_CAL takes the calendar value and the time base with it (R161); acknowledged host writes are outstanding no more
(R313), and the acknowledgement of a record in host memory is what completes its command (R319). -/
def Obligations.HandshakeAndHost : Prop :=
  (∀ s : State, s.alive = true → s.hlk.needhs = true → s.hlk.state = .up → exec (.handshake s.hlk.epoch) s =
    .next (({ s with hlk := { s.hlk with needhs := false } }).event 0x0404 0 s.hlk.epoch.toNat)) ∧
  (∀ (s : State) (e : BitVec 16), s.alive = true → s.hlk.needhs = false ∨ s.hlk.state ≠ .up ∨ e ≠ s.hlk.epoch →
    exec (.handshake e) s = .next (s.event 0x0408 0 e.toNat)) ∧
  (∀ (s : State) (v : W64), s.alive = true → (∀ e ∈ s.stm.streams, e.2.state ≠ .hostLost) → exec (.holdBaseWrite v) s =
    .next { s with hlk := { s.hlk with holdBase := BitVec.ofNat 48 (v.toNat % 2 ^ 48 / 2 ^ 27 * 2 ^ 27) } }) ∧
  (∀ (s : State) (v : W64), s.alive = true → ∃ t, exec (.frmCalWrite v) s = .next t ∧ t.frm.cal = v ∧
    t.frm.calTb = BitVec.ofNat 64 s.time ∧ t.frm.calSet = true ∧ t = { s with frm := t.frm, aud := t.aud, evr := t.evr }) ∧
  (∀ (s : State) (n k m : Nat) (q : BitVec 16) (rest : List (BitVec 16 × Nat × Nat)), s.alive = true → s.hlk.needhs = false →
    linkHolds s = false → k ≤ 65536 →
    (s.stream n).unacked = (q, m, 0) :: rest →
    (k < m → ∃ t, exec (.hostWriteAck n k) s = .next t ∧ (t.stream n).unacked = (q, m - k, 0) :: rest) ∧
    (k = m → 0 < m → ∃ t, exec (.hostWriteAck n k) s = .next t ∧ (t.stream n).unacked = rest)) ∧
  (∀ (s : State) (n : Nat) (c : Cmd) (e : Flying), s.alive = true → s.hlk.needhs = false → linkHolds s = false →
    (s.stream n).unacked = [] → (s.stream n).inRange = true →
    (s.stream n).inflight = [e] → (s.stream n).cmds = [c] → (s.stream n).heldUnacked = 0 → (s.stream n).state = .running → ∃ t,
    exec (.hostWriteAck n 1) s = .next t ∧ (t.stream n).inflight = [] ∧ (t.stream n).cmds = [] ∧ (t.stream n).lseq = c.seq ∧
    (t.stream n).state = .armed ∧ (t.stream n).completed = (s.stream n).completed + 1 ∧
    (t.part (s.stream n).part.toNat).credFree = (s.part (s.stream n).part.toNat).credFree + 1)

/-! ## 06: the frame tick -/

/-- A group base tick (R163 to R166): the level that applies is the highest throttle level among the dies of the members, as sampled at the
tick's decision point, 1,200 cycles before it, and the next group base tick follows after FRM_PERIOD and a gap of that level's sixteenths of
it. -/
def Obligations.GroupBaseTicks : Prop :=
  ∀ (s : State) (g : Nat), s.alive = true → g < 16 → (s.group g).hasSeq = true → (s.group g).xmod = false → ∃ t,
    let level := (s.group g).samp.getD (levelOf s (membersOf s g))
    exec (.groupBaseTick g) s = .next t ∧ t.time = Nat.max s.time (s.group g).next ∧
    (t.group g).index = (s.group g).index + 1 ∧ (t.group g).level = level ∧ (t.group g).samp = none ∧
    (t.group g).next = (s.group g).next + s.frm.period.toNat + s.frm.period.toNat * level.toNat / 16 ∧
    (∀ k, k ≠ g → t.group k = s.group k) ∧ t.stm = s.stm ∧ t.mem = s.mem ∧ t.clusters = s.clusters ∧ t.cores = s.cores

/-- The decision point of a partition (R168, R178, R179), judged on the state after the ledger's sums: with its frame done it gets
GO; a first or second overrun in a row leaves it LATE and counts; the third halts it. A tick that had HOLD passes first, which is read by inference
(log entry 43, DEDUCED). -/
def Obligations.DecisionPoints : Prop :=
  ∀ (s : State) (p : Nat), s.alive = true → ticking ((s.passHeld p).part p) = true →
    let u := judged (s.passHeld p) p
    ((u.part p).state = .running ∨ (u.part p).state = .late) → (u.part p).goDown = false →
    (frameIsDone u p = true → (u.part p).drainReq = false → (u.part p).locked = false →
      (∀ r ∈ (u.part p).repairs, r.step = 4 ∧ r.after + 1200 ≤ u.time) → ∃ t, exec (.decisionPoint p) s = .next t ∧
      (t.part p).state = .running ∧ (t.part p).consec = 0 ∧ (t.part p).verdict = some (.go (levelOf u [p]))) ∧
    (frameIsDone u p = false → (u.part p).consec ≠ 2 → (∀ r ∈ (u.part p).repairs, r.step ≠ 1) → ∃ t,
      exec (.decisionPoint p) s = .next t ∧ (t.part p).state = .late ∧ (t.part p).consec = (u.part p).consec + 1 ∧
      (t.part p).overruns = satAdd (u.part p).overruns 1 ∧ (t.part p).verdict = some (.hold (levelOf u [p]))) ∧
    (frameIsDone u p = false → (u.part p).consec = 2 → (∀ r ∈ (u.part p).repairs, r.step ≠ 1) → ∃ t,
      exec (.decisionPoint p) s = .next t ∧ (t.part p).state = .halted ∧ (t.part p).halts = (u.part p).halts + 1 ∧
      (t.part p).verdict = some (.hold (levelOf u [p])))

/-- The admission cut takes the tails in force and lies 2,400 cycles before the tick (R167); GO starts the frame at the tick, with the
frame number one higher, and the next tick follows after the period's multiple and the gap of the level sampled (R163, R165, R170). That a tick which
had HOLD passes before its successor's cut is read by inference (log entry 43, DEDUCED). -/
def Obligations.CutAndFrameStart : Prop :=
  (∀ (s : State) (p : Nat), s.alive = true → ticking ((s.passHeld p).part p) = true → ((s.passHeld p).part p).cut = false → ∃ t,
    exec (.admissionCut p) s = .next t ∧ (t.part p).cut = true ∧ ((s.passHeld p).part p).next - 2400 ≤ t.time ∧
    ∀ n, (t.stream n).inRange = true → (t.stream n).part.toNat = p → (t.stream n).cutTail = (t.stream n).tail) ∧
  (∀ (s : State) (p : Nat) (level : BitVec 4), s.alive = true → (s.part p).verdict = some (.go level) → ∃ t,
    exec (.frameStart p) s = .next t ∧ t.time = Nat.max s.time (s.part p).next ∧ (t.part p).frame = (s.part p).frame + 1 ∧
    (t.part p).running = true ∧ (t.part p).lastTick = (s.part p).next ∧ (t.part p).verdict = none ∧
    ((s.part p).locked = false → (t.part p).next = (s.part p).next + (s.part p).m * s.frm.period.toNat
      + (s.part p).m * s.frm.period.toNat * level.toNat / 16) ∧
    (∀ k, k ≠ p → (t.part k).frame = (s.part k).frame ∧ (t.part k).next = (s.part k).next ∧ (t.part k).state = (s.part k).state))

/-- A cluster whose cores are done reports frame-done (04 R124), one asked to drain and quiet is drained at the tick at which the request takes
effect and not before (R125), RESUME is taken only by a
halted partition without a ledger stop (R180), and CLRSLK sets the least slack to all ones (R188). -/
def Obligations.FrameDoneDrainResume : Prop :=
  (∀ (s : State) (g p : Nat), s.alive = true → partOfCluster s g = some p → (s.part p).running = true → (s.cluster g).frameOn = true →
    (s.cluster g).failed = false → (∀ k ∈ coresOf s g, coreDone k = true) → ∃ t, exec (.clusterFrameDone g) s = .next t ∧
    (t.cluster g).frameOn = false ∧ (t.part p).doneAt = t.time ∧ t.time = Nat.max s.time (maxOf (((s.part p).lastTick + 1200) :: (coresOf s g).map (·.lastAt))) ∧
    (∀ h, h ≠ g → t.cluster h = s.cluster h) ∧
    t = { s with time := t.time, aud := t.aud, evr := t.evr, clusters := t.clusters, parts := t.parts }) ∧
  (∀ (s : State) (g p : Nat), s.alive = true → partOfCluster s g = some p → (s.cluster g).drainReq = true →
    (s.cluster g).frameOn = false → (s.cluster g).state = .assigned → (∀ k ∈ coresOf s g, portQuiet k = true) → ∃ t,
    exec (.drainRequest g) s = .next t ∧ (t.cluster g).state = .drained ∧ (t.cluster g).drainReq = false ∧
    t.time = Nat.max s.time (s.part p).drainAt ∧ (∀ h, h ≠ g → t.cluster h = s.cluster h) ∧
    t = { s with time := t.time, aud := t.aud, evr := t.evr, clusters := t.clusters, parts := t.parts }) ∧
  (∀ (s : State) (p : Nat), s.alive = true → ((s.part p).defined = true → (s.part p).state = .halted → (s.part p).cons = false →
      exec (.resume p) s = .next (s.modPart p (fun q => { q with resumeAt := some s.time }))) ∧
    ((s.part p).state ≠ .halted ∨ (s.part p).cons = true → exec (.resume p) s = .next s)) ∧
  (∀ (s : State) (p : Nat), s.alive = true → exec (.clrslk p) s = .next (s.modPart p (fun q => { q with slackMin := 0xFFFFFFFF })))

/-- A module audit point (16 R443, R446) falls at the next multiple of FRM_PERIOD, and freezes the channels of a die whose DMA pool
does not add up. -/
def Obligations.ModuleAuditPoints : Prop :=
  ∀ s : State, s.alive = true → (∀ d, d < 5 → bufferHolders s d = []) →
    (∀ l, l < 30 → ((tget {} s.aud.links l).free.toNat + (tget {} s.aud.links l).occ.toNat + (tget {} s.aud.links l).inflight.toNat)
      = (tget {} s.aud.links l).total.toNat) → ∃ t, exec .moduleAuditPoint s = .next t ∧
    t.time = (s.time / (if s.frm.period = 0 then 1200000 else s.frm.period.toNat) + 1)
      * (if s.frm.period = 0 then 1200000 else s.frm.period.toNat) ∧
    (∀ d, d < 5 → (tget {} s.aud.dma d).skew ≠ 0 → (tget {} t.aud.dma d).frozen = true) ∧
    ((∀ d, d < 5 → (tget {} s.aud.dma d).skew = 0) → (∀ e ∈ s.stm.streams, e.2.inRange = true ∧ (s.part e.2.part.toNat).defined = true) →
      t.aud.dma = s.aud.dma ∧ t.aud.mismatches = s.aud.mismatches)

/-! ## 09: streams -/

/-- Command doorbells (R281): with N = 2^CLOG2, pending = (INDEX − HEAD) mod N and old pending = (TAIL − HEAD) mod N, INDEX becomes TAIL
when the stream is not IDLE, INDEX is below N and pending is at least old pending; every other command doorbell is ignored and counted
under event code 0x0300 with the stream number. An accepted one uncovers no command. Each uses the stream's entry (R270), and an accepted
one is written back to it. -/
def Obligations.CommandDoorbell : Prop :=
  ∀ (s : State) (n i : Nat), s.alive = true → n < 16384 → i < 65536 →
    let x := s.stream n
    let N := 2 ^ x.clog2
    let pending := (i + N - x.head.toNat) % N
    let old := (x.tail.toNat + N - x.head.toNat) % N
    (x.state ≠ .idle ∧ i < N ∧ old ≤ pending → ∃ t, exec (.commandTailDoorbell n i) s = .next t ∧
      (t.stream n).tail = BitVec.ofNat 16 i ∧ (t.stream n).head = x.head ∧ (t.stream n).state = x.state ∧
      old ≤ ((t.stream n).tail.toNat + N - (t.stream n).head.toNat) % N ∧
      (t.stream n).cmds = x.cmds ∧ (t.stream n).fetched = x.fetched ∧
      s.MemSameBut t (entryAddr s n) 64 ∧ (entryThere s n → t.evr = s.evr) ∧ t = { s with stm := t.stm, mem := t.mem, evr := t.evr }) ∧
    (¬ (x.state ≠ .idle ∧ i < N ∧ old ≤ pending) → exec (.commandTailDoorbell n i) s = .next ((s.useEntry n).event 0x0300 n i))

/-- Completion doorbells and the full ring (R282): INDEX becomes PHEAD when the stream is not IDLE and INDEX is below 2^PLOG2; every
other is counted under 0x0300. The ring is full when (PTAIL + 1) mod 2^PLOG2 is PHEAD, and no record is written into a full ring: the operation
that writes a stream's records then writes nothing, and a command that completes is kept, its credit with it. -/
def Obligations.CompletionDoorbell : Prop :=
  (∀ (s : State) (n i : Nat), s.alive = true → n < 16384 → i < 65536 →
    ((s.stream n).state ≠ .idle → i < 2 ^ (s.stream n).plog2 → ∃ t, exec (.completionHeadDoorbell n i) s = .next t ∧
      (t.stream n).phead = BitVec.ofNat 16 i ∧ (t.stream n).ptail = (s.stream n).ptail ∧ (t.stream n).state = (s.stream n).state ∧
      s.MemSameBut t (entryAddr s n) 64 ∧ (entryThere s n → t.evr = s.evr) ∧ t = { s with stm := t.stm, mem := t.mem, evr := t.evr }) ∧
    ((s.stream n).state = .idle ∨ 2 ^ (s.stream n).plog2 ≤ i →
      exec (.completionHeadDoorbell n i) s = .next ((s.useEntry n).event 0x0300 n i))) ∧
  (∀ (s : State) (n : Nat), (s.stream n).state ≠ .hostLost → (s.stream n).inflight = [] →
    ((s.stream n).ptail.toNat + 1) % 2 ^ (s.stream n).plog2 = (s.stream n).phead.toNat → let t := s.records n
    t.mem = s.mem ∧ (t.stream n).ptail = (s.stream n).ptail ∧ (t.stream n).inflight = [] ∧ (t.stream n).lseq = (s.stream n).lseq ∧
    (t.stream n).cmds.length = (s.stream n).cmds.length ∧ t.parts = s.parts) ∧
  (∀ (s : State) (n : Nat) (c : Cmd), s.alive = true → nextOf s n 0 = some c → (s.stream n).cmds = [c] → (s.stream n).inflight = [] →
    (s.stream n).unacked = [] → (s.stream n).heldUnacked = 0 → (s.stream n).state = .running →
    ((s.stream n).ptail.toNat + 1) % 2 ^ (s.stream n).plog2 = (s.stream n).phead.toNat → ∃ t, exec (.nop n) s = .next t ∧
    t.mem = s.mem ∧ (t.stream n).cmds.length = 1 ∧ (t.stream n).lseq = (s.stream n).lseq ∧ t.parts = s.parts)

/-- Fetch (R283, R284): a covered command that passes the sequence and phase check is kept, a DMA command with its descriptors (11 R329), an INGEST
with what its heads come to (14 R417); one
that fails is read again, up to 8 times 1 µs apart, and then event 0x0301 is recorded and fetching stops with TAIL kept. -/
def Obligations.FetchAndRereads : Prop :=
  (∀ (s : State) (n k : Nat) (b : List Byte), s.alive = true → (s.stream n).stuck = false → (s.stream n).retrying = false →
    fetchPlace (s.stream n) = some k →
    readMem s none ((s.stream n).cring.toNat + 64 * (((s.stream n).head.toNat + k) % 2 ^ (s.stream n).clog2)) 64 = .ok b →
    (seqPhaseOk (s.stream n) k b = true → (s.takeUp b).isSome = true → ∃ (t : State) (f : Fetched), exec (.commandFetch n) s = .next t ∧
      f.bytes = b ∧ f.o = 0 ∧ (byteAt b 0 ≠ 2 → byteAt b 0 ≠ 0xC → f = { bytes := b } ∧ t.evr = s.evr) ∧
      (t.stream n).fetched = (s.stream n).fetched ++ [f] ∧ (t.stream n).tail = (s.stream n).tail ∧ t = { s with stm := t.stm, evr := t.evr }) ∧
    (seqPhaseOk (s.stream n) k b = false → ∃ t, exec (.commandFetch n) s = .next t ∧ (t.stream n).retrying = true ∧
      (t.stream n).rereads = 0 ∧ (t.stream n).readAt = s.time ∧ (t.stream n).fetched = (s.stream n).fetched ∧
      t = { s with stm := t.stm })) ∧
  (∀ (s : State) (n k : Nat) (b : List Byte), s.alive = true → (s.stream n).stuck = false → (s.stream n).retrying = true →
    fetchPlace (s.stream n) = some k →
    readMem s none ((s.stream n).cring.toNat + 64 * (((s.stream n).head.toNat + k) % 2 ^ (s.stream n).clog2)) 64 = .ok b →
    seqPhaseOk (s.stream n) k b = false → ∃ t, exec (.commandReread n) s = .next t ∧
    t.time = Nat.max s.time ((s.stream n).readAt + 1200) ∧ (t.stream n).tail = (s.stream n).tail ∧
    ((s.stream n).rereads < 7 → (t.stream n).retrying = true ∧ (t.stream n).rereads = (s.stream n).rereads + 1) ∧
    (7 ≤ (s.stream n).rereads → (t.stream n).stuck = true ∧ (t.stream n).retrying = false))

/-- STM_SCMD actions (R274 to R276, R302), with the stream's entry in memory. ARM that passes R275's checks arms the stream, from IDLE with
TAIL = HEAD and PHEAD = PTAIL; one that fails them ends BAD_STREAM with the stream's state kept; HALT halts a live stream; DISARM makes an idle
stream of one that is not RUNNING and has no admitted command; RELOAD sets CREDITS, with no more commands admitted than before, and takes up the
entry's other fields, which an admission window of the stream then puts in force; RELOAD of an IDLE stream, and every action not allowed, fails with
BOUND; QUERY shows what the stream may have admitted now, and neither it nor STREAM changes a stream's state. That a refused ARM sets ERROR to 0x0300
and writes it into the entry is log entry 54, and that RELOAD holds the lower limit and the old fields until the next window log entry 67 (both
DEDUCED). -/
def Obligations.StreamActions : Prop :=
  (∀ (s : State) (n : Nat), s.alive = true → n < 16384 → (s.stream n).state = .idle → locate s (entryAddr s n) = .mem →
    (armOk s n (s.rd (entryAddr s n) 64) = true → ∃ t, exec (.arm n) s = .next t ∧ (t.stream n).state = .armed ∧
      (t.stream n).tail = (t.stream n).head ∧ (t.stream n).phead = (t.stream n).ptail ∧ (t.stream n).cmds = [] ∧
      (t.stream n).head = BitVec.ofNat 16 (bytesN (s.rd (entryAddr s n) 64) 0x14 2) ∧ t.stm.status = .ok ∧
      s.MemSameBut t (entryAddr s n) 64) ∧
    (armOk s n (s.rd (entryAddr s n) 64) = false → ∃ t, exec (.arm n) s = .next t ∧ (t.stream n).state = .idle ∧
      t.stm.status = .badStream ∧ (t.stream n).error = 0x0300 ∧ t.parts = s.parts ∧ s.MemSameBut t (entryAddr s n + 0x28) 2)) ∧
  (∀ (s : State) (n : Nat), s.alive = true → n < 16384 → (s.stream n).live = true → ∃ t, exec (.halt n) s = .next t ∧
    (t.stream n).state = .halted ∧ (t.stream n).cmds = (s.stream n).cmds ∧ (t.stream n).fetched = [] ∧ t.stm.status = .ok ∧
    s.MemSameBut t (entryAddr s n) 64 ∧ t.parts = s.parts) ∧
  (∀ (s : State) (n : Nat), s.alive = true → n < 16384 → (s.stream n).state ≠ .idle → (s.stream n).state ≠ .running →
    (s.stream n).cmds = [] → ∃ t, exec (.disarm n) s = .next t ∧ (t.stream n).state = .idle ∧
    t.stm.status = .ok ∧ s.MemSameBut t (entryAddr s n) 64) ∧
  (∀ (s : State) (n : Nat), s.alive = true → n < 16384 → (s.stream n).cmds ≠ [] → ∃ t, exec (.disarm n) s = .next t ∧
    (t.stream n).state = (s.stream n).state ∧ t.stm.status = .bound) ∧
  (∀ (s : State) (n : Nat), s.alive = true → n < 16384 → (s.stream n).state ≠ .idle → locate s (entryAddr s n) = .mem →
    let e := s.rd (entryAddr s n) 64
    byteAt e 6 ≠ 0 → byteAt e 3 < 4 → fieldNat (bytesN e 0x12 2) 14 11 = 0 → (s.stream n).cmds.length ≤ byteAt e 6 → ∃ t,
    exec (.reload n) s = .next t ∧ (t.stream n).credits = BitVec.ofNat 8 (byteAt e 6) ∧ (t.stream n).limit ≤ (s.stream n).limit ∧
    (t.stream n).prio = (s.stream n).prio ∧ (t.stream n).gang = (s.stream n).gang ∧ (t.stream n).state = (s.stream n).state ∧
    t.stm.status = .ok ∧ t = { s with stm := t.stm, parts := t.parts } ∧
    let u := (t.takeReload n).stream n
    u.credits = BitVec.ofNat 8 (byteAt e 6) ∧ u.limit = byteAt e 6 ∧ u.prio = BitVec.ofNat 2 (byteAt e 3) ∧ u.gang = BitVec.ofNat 16 (bytesN e 4 2) ∧
    u.msixEn = bitAt (bytesN e 0x12 2) 15 ∧ u.vector = BitVec.ofNat 11 (bytesN e 0x12 2)) ∧
  (∀ (s : State) (n : Nat), s.alive = true → n < 16384 → (s.stream n).state = .idle → ∃ t, exec (.reload n) s = .next t ∧
    t.stm.status = .bound ∧ (t.stream n).state = .idle) ∧
  (∀ (s : State) (n : Nat), s.alive = true → n < 16384 → (s.stream n).cmds.length < 256 → (∀ r, rangeOf s n = some r → r.part < 64) →
    ∃ t, exec (.query n) s = .next t ∧ t.stm.status = .ok ∧
    t.stm.sinfo.toNat / 2 ^ 56 = (s.stream n).state.code ∧ t.stm.sinfo.toNat / 2 ^ 32 % 16384 = n ∧
    t.stm.sinfo.toNat / 2 ^ 16 % 256 = (s.stream n).limit ∧ t.stm.sinfo.toNat % 65536 = (s.stream n).head.toNat ∧ (∀ k, (t.stream k).state = (s.stream k).state) ∧ t = { s with stm := t.stm }) ∧
  (∀ (s : State) (n : Nat), s.alive = true → n < 16384 →
    exec (.scmdSetStream n) s = .next { s with stm := { s.stm with stream := BitVec.ofNat 14 n } } ∧
    ∀ a : BitVec 4, 6 ≤ a.toNat → exec (.reservedAction n a) s =
      .next { s with stm := { s.stm with stream := BitVec.ofNat 14 n, status := .bound } })

/-- Entry s of the stream table lies at STM_TABLE_BASE + 64 s (R269). STM_TABLE_BASE, aligned to 1 MiB, is written only while every stream is
IDLE, and STM_ARG_BASE likewise; a write at any other time is counted under 0x0307 and changes nothing. -/
def Obligations.StreamBases : Prop :=
  (∀ (s : State) (n : Nat), entryAddr s n = s.stm.tableBase.toNat + 64 * n) ∧
  (∀ (s : State) (v : W64), s.alive = true → (∀ e ∈ s.stm.streams, e.2.state = .idle) →
    (∃ t, exec (.stmTableBaseWrite v) s = .next t ∧ t.stm.tableBase.toNat = v.toNat / 2 ^ 20 * 2 ^ 20 % 2 ^ 48 ∧
      (∀ n, (t.stream n).state = (s.stream n).state) ∧ t = { s with stm := t.stm }) ∧
    (∃ t, exec (.stmArgBaseWrite v) s = .next t ∧ t.stm.argBase.toNat = v.toNat / 2 ^ 18 * 2 ^ 18 % 2 ^ 48 ∧ t = { s with stm := t.stm })) ∧
  (∀ (s : State) (v : W64), s.alive = true → (∃ e ∈ s.stm.streams, e.2.state ≠ .idle) →
    exec (.stmTableBaseWrite v) s = .next (s.event 0x0307 0 0) ∧ exec (.stmArgBaseWrite v) s = .next (s.event 0x0307 0 0))

/-! ## 09, 08: the commands of a stream -/

/-- NOP, FENCE, SIGNAL and an accepted WAIT complete at their admission tick (R286, R293, R294): their record of R298 is written at PTAIL,
with OK, or STOPPED for a WAIT that timed out, and the counter read as the RESULT of a WAIT; the credit returns. A SIGNAL has added VALUE to
its counter modulo 2^64; one whose counter reaches no location ends with BUS_ERROR (08 R233).

A command that ends with its INTERRUPT flag, or with a status other than OK, raises the stream's vector once its record is written, if the
stream has MSIX.EN and its vector has not fired in this interval (R300). -/
def Obligations.CommandCompletions : Prop :=
  (∀ (s : State) (n : Nat) (c : Cmd), loneCommand s n c → c.phase = .admitted →
     (opOf c = 0 → ∃ t, exec (.nop n) s = .next t ∧ recorded s t n c .ok 0 ∧
       ∀ x, (x < recordAt s n ∨ recordAt s n + 32 ≤ x) → (x < entryAddr s n ∨ entryAddr s n + 64 ≤ x) → t.byte x = s.byte x) ∧
     (opOf c = 7 → ∃ t, exec (.fence n) s = .next t ∧ recorded s t n c .ok 0 ∧
       ∀ x, (x < recordAt s n ∨ recordAt s n + 32 ≤ x) → (x < entryAddr s n ∨ entryAddr s n + 64 ≤ x) → t.byte x = s.byte x) ∧
     (opOf c = 9 → c.timedOut = false → ∃ t, exec (.wait n) s = .next t ∧ recorded s t n c .ok c.waitVal ∧
       ∀ x, (x < recordAt s n ∨ recordAt s n + 32 ≤ x) → (x < entryAddr s n ∨ entryAddr s n + 64 ≤ x) → t.byte x = s.byte x) ∧
     (opOf c = 9 → c.timedOut = true → ∃ t, exec (.waitTimeout n) s = .next t ∧ recorded s t n c .stopped c.waitVal ∧
       ∀ x, (x < recordAt s n ∨ recordAt s n + 32 ≤ x) → (x < entryAddr s n ∨ entryAddr s n + 64 ≤ x) → t.byte x = s.byte x) ∧
     (opOf c = 8 →
       let k := bytesN c.bytes 8 8
       locate s k = .mem → (k + 8 ≤ recordAt s n ∨ recordAt s n + 32 ≤ k) → (k + 8 ≤ entryAddr s n ∨ entryAddr s n + 64 ≤ k) →
       ∃ t, exec (.signal n) s = .next t ∧ recorded s t n c .ok 0 ∧ t.rdN k 8 = (s.rdN k 8 + bytesN c.bytes 0x10 8) % 2 ^ 64 ∧
       ∀ x, (x < recordAt s n ∨ recordAt s n + 32 ≤ x) → (x < entryAddr s n ∨ entryAddr s n + 64 ≤ x) → (x < k ∨ k + 8 ≤ x) →
         t.byte x = s.byte x) ∧
     (opOf c = 8 → locate s (bytesN c.bytes 8 8) = .none → ∃ t, exec (.signal n) s = .next t ∧ recorded s t n c .busError 0 ∧
       ∀ x, (x < recordAt s n ∨ recordAt s n + 32 ≤ x) → (x < entryAddr s n ∨ entryAddr s n + 64 ≤ x) → t.byte x = s.byte x)) ∧
  (∀ (s : State) (n : Nat) (c : Cmd), loneCommand s n c → c.phase = .admitted → (s.stream n).msixEn = true → (s.stream n).irqDone = false →
     (s.stream n).irqWant = false → (s.stream n).irqBatches = [] → s.hlk.needhs = false → linkHolds s = false →
     (opOf c = 0 → ∃ t, exec (.nop n) s = .next t ∧
       t.hlk.msix = (if bitAt (byteAt c.bytes 1) 0 then [(s.stream n).vector] else []) ++ s.hlk.msix ∧
       (t.stream n).irqDone = bitAt (byteAt c.bytes 1) 0) ∧
     (opOf c = 9 → c.timedOut = true → ∃ t, exec (.waitTimeout n) s = .next t ∧ t.hlk.msix = (s.stream n).vector :: s.hlk.msix))

/-- RUN starts its program and writes the slot's argument block of R288 at STM_ARG_BASE + 4,096 p + 64 slot; its footprint takes, in its turn
by admission, one stacked-tier pin of a page with a stacked frame and sets LAST_USE (08 R252); LOAD_BITSTREAM queues its load (R295); DMA joins
the queue of its channel at its admission, behind those there, and may start from its tick on (11 R325). -/
def Obligations.RunDmaLoadStart : Prop :=
  (∀ (s : State) (n : Nat) (c : Cmd) (u : SlotUse), s.alive = true → nextOf s n 1 = some c → c.bytes.length = 64 →
    (s.part (s.stream n).part.toNat).slots.find? (fun u => u.stream = n && u.seq = c.seq) = some u →
    let a := s.stm.argBase.toNat + 4096 * (s.stream n).part.toNat + 64 * u.slot
    locate s a = .mem → ∃ t, exec (.run n) s = .next t ∧ t.rd a 64 = argBlock n u.slot c ∧ s.MemSameBut t a 64 ∧
    (∃ d ∈ (t.stream n).cmds, d.seq = c.seq ∧ d.phase = .started) ∧ t = { s with mem := t.mem, stm := t.stm }) ∧
  (∀ (s : State) (n a : Nat) (c : Cmd) (g : Program) (e : Nat × Bool) (l : Leaf), s.alive = true →
    (s.stream n).cmds.find? Cmd.unpinned = some c → nextPin s (s.stream n).part.toNat = some c.adm → programOf s (s.stream n).part.toNat (byteAt c.bytes 8) = some g →
    footprint s g = [e] → leafAddr s (s.part (s.stream n).part.toNat).ptBase.toNat e.1 = some a →
    readLeaf s (s.stream n).part.toNat e.1 = some l → l.state = 1 ∨ l.state = 3 ∨ l.state = 4 → l.pinS < 127 → ∃ t,
    exec (.footprintPin n) s = .next t ∧
    leafSet s t a { l with lastUse := (s.part (s.stream n).part.toNat).frame.toNat % 65536, pinS := l.pinS + 1 } ∧
    (∃ d ∈ (t.stream n).cmds, d.seq = c.seq ∧ d.pins = [(e.1, true)] ∧ d.pinned = true) ∧ t = { s.advanceTo c.tick with mem := t.mem, stm := t.stm }) ∧
  (∀ (s : State) (n : Nat) (c : Cmd), s.alive = true → nextOf s n 0xA = some c → waitingLoads s < 8 → ∃ t,
    exec (.loadBitstream n) s = .next t ∧
    t.cfg = { s.cfg with queue := s.cfg.queue ++ [{ src := bytesN c.bytes 8 8, len := bytesN c.bytes 0x10 8,
                                                    force := bitAt (byteAt c.bytes 0x18) 0, cmd := some (n, c.seq) }] } ∧
    (∃ d ∈ (t.stream n).cmds, d.seq = c.seq ∧ d.phase = .started) ∧ t = { s with cfg := t.cfg, stm := t.stm }) ∧
  (∀ (s : State) (n : Nat) (c : Cmd), let t := s.queueDma n c
    (∃ r : DmaRun, (t.chan (byteAt c.bytes 0x10)).queue = (s.chan (byteAt c.bytes 0x10)).queue ++ [r] ∧ r.stream = n ∧ r.seq = c.seq ∧
      r.addr = bytesN c.bytes 8 8 ∧ r.prio.toNat = byteAt c.bytes 0x11 % 4 ∧ r.tick = c.tick ∧ r.descs = c.descs ∧ r.here = false) ∧
    (∀ k, k ≠ byteAt c.bytes 0x10 → t.chan k = s.chan k) ∧ t = { s with chans := t.chans }) ∧
  (∀ (s : State) (n : Nat) (c : Cmd), s.alive = true → nextOf s n 2 = some c → ∃ t, exec (.dma n) s = .next t ∧
    (t.chan (byteAt c.bytes 0x10)).queue = (s.chan (byteAt c.bytes 0x10)).queue.map (fun r =>
      if r.stream = n ∧ r.seq = c.seq then { r with here := true } else r) ∧
    (t.chan (byteAt c.bytes 0x10)).run = (s.chan (byteAt c.bytes 0x10)).run ∧
    (∀ k, k ≠ byteAt c.bytes 0x10 → t.chan k = s.chan k) ∧
    (∃ d ∈ (t.stream n).cmds, d.seq = c.seq ∧ d.phase = .started) ∧ t = { s with chans := t.chans, stm := t.stm })

/-- Hints that settle at once (08 R246, R258): MAP of an UNMAPPED page takes a zeroed frame of the home stack and the page is STACKED; UNMAP of a
STACKED page without pins empties its entry; EVICT of a BOTH_CLEAN page leaves it BOARD and DROPB of a BOTH one leaves it STACKED, with the
board frame free, at once or with the last acknowledgement of an invalidation of the page that is under way (04 R121); ATTR sets RETAIN and STAY. Each page counts as done.

Hints that wait or are put off (08 R238, R246 to R248): with all eight places of the engine taken, PLACE of a BOARD page makes it PROMOTING and
queues its copy, and COPY queues its own; PLACE of a page with a stacked frame is done as it is; an EVICT that a pin stops is listed
and counted as deferred; a hint on a page in no state it applies to is refused. The RESULT holds the pages done, deferred and refused (R259). That
refusal, and what counts as a deferral, are read by inference (log entry 31, DEDUCED). -/
def Obligations.PageHints : Prop :=
  (∀ (s : State) (n p g a : Nat) (c : Cmd) (h : Hint) (l : Leaf), hintAt s n c h p g a l →
     (∀ (f home : Nat) (s1 : State), h.op = 1 → l.state = 0 → bitAt h.flags 0 = false → mapStack s p g h = some home →
       s.promoFrame p g home = some (f, s1) → ∃ t, exec (.map n) s = .next t ∧ endedWith t n c .ok 1 ∧
       t.mem = ((s1.zero (sAddr f) pageSize).writeLeaf p g
         { state := 1, sframe := f, hstack := home, retain := fieldNat h.flags 3 2, stay := bitAt h.flags 1 }).mem ∧
       tget 0 t.sAlloc f = ownerKey p g ∧ t.bAlloc = s.bAlloc ∧ t = { s.advanceTo c.tick with mem := t.mem, stm := t.stm, sAlloc := t.sAlloc, mig := t.mig }) ∧
     (h.op = 2 → l.state = 1 → l.pinS = 0 → l.pinB = 0 → ∃ t, exec (.unmap n) s = .next t ∧ endedWith t n c .ok 1 ∧ leafSet s t a {} ∧
       tget 0 t.sAlloc l.sframe = (if ackers s p g = [] then 0 else engineKey) ∧
       t = { s.advanceTo c.tick with mem := t.mem, stm := t.stm, sAlloc := t.sAlloc, mig := t.mig }) ∧
     (h.op = 4 → l.state = 3 → l.pinS = 0 → l.stay = false → ∃ t, exec (.evict n) s = .next t ∧ endedWith t n c .ok 1 ∧
       leafSet s t a { l with state := 2 } ∧ tget 0 t.sAlloc l.sframe = (if ackers s p g = [] then 0 else engineKey) ∧
       t = { s.advanceTo c.tick with mem := t.mem, stm := t.stm, sAlloc := t.sAlloc, mig := t.mig }) ∧
     (h.op = 5 → l.state = 3 ∨ l.state = 4 → l.pinB = 0 → l.stay = false → ∃ t, exec (.dropb n) s = .next t ∧ endedWith t n c .ok 1 ∧
       leafSet s t a { l with state := 1 } ∧
       tget 0 t.bAlloc l.bframe = (if (s.migOf (l.hstack / 4)).inval.any (fun i => i.1 = p && i.2.1 = g) then engineKey else 0) ∧
       t = { s.advanceTo c.tick with mem := t.mem, stm := t.stm, bAlloc := t.bAlloc, mig := t.mig }) ∧
     (h.op = 6 → l.state ≠ 0 → (bitAt h.flags 1 = true → l.state = 1) → ∃ t, exec (.attr n) s = .next t ∧ endedWith t n c .ok 1 ∧
       leafSet s t a { l with retain := fieldNat h.flags 3 2, stay := bitAt h.flags 1 } ∧ t = { s.advanceTo c.tick with mem := t.mem, stm := t.stm })) ∧
  (∀ (s : State) (n p g a : Nat) (c : Cmd) (h : Hint) (l : Leaf), hintAt s n c h p g a l →
     (h.op = 3 → l.state = 2 → 8 ≤ (s.migOf (l.hstack / 4)).running.length → ∃ t, exec (.place n) s = .next t ∧
       leafSet s t a { l with state := 5 } ∧ (t.migOf (l.hstack / 4)).running = (s.migOf (l.hstack / 4)).running ∧
       (t.migOf (l.hstack / 4)).waiting = (s.migOf (l.hstack / 4)).waiting ++ [{ part := p, page := g, kind := .promote }] ∧
       t = { s.advanceTo c.tick with mem := t.mem, stm := t.stm, mig := t.mig }) ∧
     (h.op = 3 → l.state = 1 ∨ l.state = 3 ∨ l.state = 4 → ∃ t, exec (.place n) s = .next t ∧ endedWith t n c .ok 1 ∧
       t = { s.advanceTo c.tick with stm := t.stm, mig := t.mig }) ∧
     (h.op = 7 → 8 ≤ (s.migOf (l.hstack / 4)).running.length → ∃ t, exec (.copy n) s = .next t ∧
       (t.migOf (l.hstack / 4)).waiting
         = (s.migOf (l.hstack / 4)).waiting ++ [{ part := p, page := g, kind := .hint (pageOf h.dest) n c.seq }] ∧
       (∃ d ∈ (t.stream n).cmds, d.seq = c.seq ∧ d.phase = .started ∧ d.hWait = [g]) ∧ t = { s.advanceTo c.tick with stm := t.stm, mig := t.mig }) ∧
     (h.op = 4 → l.state = 3 → l.pinS ≠ 0 → l.stay = false → ⟨p, g, .evict⟩ ∉ (s.migOf (l.hstack / 4)).dlist →
       (s.migOf (l.hstack / 4)).dlist.length < 4096 → ∃ t, exec (.evict n) s = .next t ∧ endedWith t n c .ok (2 ^ 30) ∧
       (t.migOf (l.hstack / 4)).dlist = (s.migOf (l.hstack / 4)).dlist ++ [⟨p, g, .evict⟩] ∧
       (t.part p).deferred = satAdd (s.part p).deferred 1 ∧ t = { s.advanceTo c.tick with stm := t.stm, mig := t.mig, parts := t.parts, evr := t.evr }) ∧
     ((h.op = 4 ∨ h.op = 5) → l.state = 0 → l.stay = false →
       let run := if h.op = 4 then exec (.evict n) s else exec (.dropb n) s
       ∃ t, run = .next t ∧ endedWith t n c .bound (2 ^ 47) ∧
       (t.part p).refused = satAdd (s.part p).refused 1 ∧ t = { s.advanceTo c.tick with stm := t.stm, parts := t.parts }))

/-! ## 07: loads of bit-streams -/

/-- CFG_CTL (R208, R212, R217, 17 R487): LOAD queues a load of CFG_SRC, and a load that finds eight waiting is refused with reason 0x10; FLASH
copies the bit-stream in module flash into a boot range and queues that, or is refused like another with nothing copied; ABORT stops the load at the head with reason 0x11, unless it has
reached APPLY; a key record whose signature or chain fails changes no key, one without an identity is refused with SIGNATURE whatever it holds (17
R489), and an accepted one stores the key or empties the slot. What SM2 and X.509 make of the record's SIG and CHAIN bytes is the command's operand
(log entry 10), and the status of a refused record stands in the measurement log alone (log entry 37). -/
def Obligations.LoadCommands : Prop :=
  (∀ s : State, s.alive = true → waitingLoads s < 8 → exec .load s = .next { s with cfg := { s.cfg with
    queue := s.cfg.queue ++ [{ src := s.cfg.src.toNat, len := s.cfg.len.toNat, force := s.cfg.force }] } }) ∧
  (∀ s : State, s.alive = true → 8 ≤ waitingLoads s → ∃ t, exec .load s = .next t ∧ t.cfg.queue = s.cfg.queue ∧ t.cfg.status = .bound ∧
    t.cfg.reason = 0x10 ∧ t.cfg.phase = s.cfg.phase ∧ t = { s with cfg := t.cfg, pwr := t.pwr, evr := t.evr }) ∧
  (∀ (s : State) (a : Nat), s.alive = true → s.MemOk → bootRange s = some a → waitingLoads s < 8 → ∃ t, exec .flash s = .next t ∧
    let len := Nat.min (leNat (s.flRd (bitBase + 8) 8)) (flashSize - bitBase)
    t.cfg.queue = s.cfg.queue ++ [{ src := a, len := len, flash := true }] ∧ t.cfg.bootRange = s.cfg.bootRange ∧
    (∀ i, i < len → t.byte (a + i) = tget 0 s.flash (bitBase + i)) ∧ s.MemSameBut t a len ∧ t = { s with mem := t.mem, cfg := t.cfg }) ∧
  (∀ (s : State) (a : Nat), s.alive = true → bootRange s = some a → 8 ≤ waitingLoads s → ∃ t, exec .flash s = .next t ∧
    t.cfg.queue = s.cfg.queue ∧ t.cfg.status = .bound ∧ t.cfg.reason = 0x10 ∧ t.mem = s.mem ∧ t.cfg.bootRange = s.cfg.bootRange) ∧
  (∀ (s : State) (r : LoadReq) (rest : List LoadReq), s.alive = true → s.cfg.queue = r :: rest →
    (r.phase ≠ .apply → r.part = none → r.cmd = none → ∃ t, exec .abort s = .next t ∧ t.cfg.queue = rest ∧ t.cfg.phase = .failed ∧
      t.cfg.status = .stopped ∧ t.cfg.reason = 0x11 ∧ t = { s with cfg := t.cfg, pwr := t.pwr, evr := t.evr }) ∧
    (r.phase = .apply → exec .abort s = .next s)) ∧
  (∀ (s : State), s.alive = true →
    let l := s.rd s.cfg.src.toNat 0x70
    let sec := s.section_ (s.cfg.src.toNat + 0x70)
    let anchor := byteAt sec 1
    (∀ x : Seal, s.pwr.idok = false → exec (.keyreg x) s = .next (({ s with cfg := { s.cfg with keyReq := false } } : State).measure 4 .signature [] 0)) ∧
    (∀ x : Seal, sealCovers x l sec = false ∨ sealAnchored x s.cfg.keys anchor sec = false → ∃ t, exec (.keyreg x) s = .next t ∧
      t.cfg.keys = s.cfg.keys ∧ t.flash = s.flash ∧ t.mem = s.mem) ∧
    (∀ x : Seal, signedAt s s.cfg.src.toNat 0x70 = true → l.take 4 = [0x51, 0x46, 0x4B, 0x52] → byteAt l 4 ≤ 3 →
      byteAt l 5 = 1 ∨ (byteAt l 5 = 2 ∧ isZero ((l.drop 0x28).take 64) = true) → isZero ((l.drop 6).take 2) = true →
      isZero ((l.drop 0x68).take 8) = true → sealCovers x l sec = true → sealAnchored x s.cfg.keys anchor sec = true → anchor ≠ byteAt l 4 + 1 →
      s.pwr.idok = true → (l.drop 8).take 32 = moduleDigest s → ∃ t, exec (.keyreg x) s = .next t ∧
      tget none t.cfg.keys (byteAt l 4) =
        (if byteAt l 5 = 1 then some (BitVec.ofNat 512 (beNat ((l.drop 0x28).take 64))) else none) ∧
      (∀ k, k ≠ byteAt l 4 → tget none t.cfg.keys k = tget none s.cfg.keys k) ∧
      t = { s with cfg := t.cfg, flash := t.flash, pwr := t.pwr, evr := t.evr }))

/-- The steps of a load (R212 to R217). VERIFY ends a load that fails a check with its reason and leaves the configuration in force; one that
passes, which takes a signature over the bytes before it and a chain to its anchor, goes to WAIT (a partial load of a defined partition) or DRAIN.
What SM2 and X.509 make of the SIG and CHAIN bytes is the command's operand (log entry 10).

APPLY and DONE (R213 to R215, R218, R221; 06 R164). A full load that passes R263's checks puts its timing, spares, stream ranges and routes in
force, less the routes that name a cluster a spare has replaced, and the boot range of one from flash (17 R487); a load with DELETE removes the partition and
its ranges; an image that cannot be read again fails. That APPLY reads the image again, and cancels the copies that wait, is the model's (log entry
52). DONE starts a loaded partition and takes the load off the queue; DONE of a full load begins the module epoch and stage RUNNING. -/
def Obligations.LoadSteps : Prop :=
  (∀ (s : State) (r : LoadReq) (x : Seal), s.fwRuns = true → s.cfg.queue = [r] → r.phase = .idle → repairing s = false →
     (∀ e, verifyLoad s r x = .error e → r.cmd = none → ∃ t, exec (.loadVerify x.body x.path) s = .next t ∧
       t.cfg.queue = [] ∧ t.cfg.phase = .failed ∧ t.cfg.status = reasonStatus e.1 ∧ t.cfg.reason = BitVec.ofNat 8 e.1 ∧
       t = { s with cfg := t.cfg, pwr := t.pwr, evr := t.evr } ∧ t.cfg.ranges = s.cfg.ranges ∧ t.cfg.routes = s.cfg.routes) ∧
     (∀ i, verifyLoad s r x = .ok i → i.isPartial = true → ∃ t, exec (.loadVerify x.body x.path) s = .next t ∧
       (let k := if (s.part i.part).defined then LoadPhase.wait else LoadPhase.drain
        t.cfg.queue = [{ r with part := some i.part, phase := k }] ∧ t.cfg.phase = k) ∧ t = { s with cfg := t.cfg }) ∧
     (∀ i, verifyLoad s r x = .ok i → i.isPartial = false → ∃ t, exec (.loadVerify x.body x.path) s = .next t ∧
       t.cfg.queue = [{ r with phase := .drain }] ∧ t.cfg.phase = .drain ∧ t = { s with cfg := t.cfg }) ∧
     (∀ i, verifyLoad s r x = .ok i → let sec := s.section_ (r.src + i.sigOff)
       sealCovers x (s.rd r.src i.sigOff) sec = true ∧ sealAnchored x s.cfg.keys i.anchor sec = true)) ∧
  ((∀ (s : State) (r : LoadReq) (rest : List LoadReq), s.fwRuns = true → s.cfg.queue = r :: rest → applyReady s r = true →
     (∀ e, readImage s r.src r.len = .error e → r.part = none → r.cmd = none → ∃ t, exec .loadApply s = .next t ∧
       t.cfg.queue = rest ∧ t.cfg.phase = .failed ∧ t.cfg.status = reasonStatus e.1 ∧
       t = { s with cfg := t.cfg, pwr := t.pwr, evr := t.evr }) ∧
     (∀ i, readImage s r.src r.len = .ok i → i.isPartial = false → i.delete = false →
       let touched := (s.partList ++ i.parts.map (·.1)).eraseDups
       let s1 := (touched.foldl State.cancelCopies s.sampleGroups).headPhase .apply
       copiesRun s1 touched = false → tablesOk s1 i.parts = true → ∃ t, exec .loadApply s = .next t ∧
       t.frm.period = BitVec.ofNat 24 i.period ∧ t.cfg.spares = i.spares ∧ (∀ x ∈ t.cfg.routes, x ∈ i.routes) ∧
       (s.cfg.repRec = [] → s.cfg.badCols = [] → t.cfg.routes = i.routes) ∧ t.cfg.ranges = i.ranges ∧
       (r.part = none → t.cfg.bootRange = if r.flash then some r.src else none) ∧
       (∃ q l, t.cfg.queue = q :: l ∧ q.applied = true ∧ l = rest)) ∧
     (∀ i, readImage s r.src r.len = .ok i → i.isPartial = true → i.delete = true → copiesRun s [i.part] = false → ∃ t, exec .loadApply s = .next t ∧
       (t.part i.part).defined = false ∧ (t.part i.part).serial = (s.part i.part).serial ∧
       t.cfg.ranges = s.cfg.ranges.filter (fun x => x.part ≠ i.part))) ∧
   (∀ (s : State) (r : LoadReq) (rest : List LoadReq), s.fwRuns = true → s.cfg.queue = r :: rest → r.applied = true → r.cmd = none →
     (∀ p, r.part = some p → (s.part p).defined = true → (s.part p).goDown = false → ∃ t, exec .loadDone s = .next t ∧
       (t.part p).state = .running ∧ (t.part p).serial = headerSerial s r ∧ t.cfg.queue = rest ∧ t.cfg.phase = .done ∧ t.cfg.status = .ok ∧
       (∀ g ∈ (s.part p).clusters, (s.cluster g).state = .loading → (t.cluster g).state = .assigned) ∧ t.mem = s.mem) ∧
     (r.part = none → ∃ t, exec .loadDone s = .next t ∧ t.pwr.stage = .running ∧
       t.frm.epoch = some (stepTo 0 s.frm.period.toNat (s.time + 2400)) ∧ t.cfg.queue = rest ∧ t.cfg.phase = .done ∧ t.cfg.status = .ok)))

/-! ## 07, 01, 16: failures and repairs -/

/-- A repair request reserves a spare (R219, R220), a failed cluster of no partition enters the repair record, and one of a partition is marked
for its next decision point; while Bubarus restarts, a request waits for it (16 R448). That a failed cluster of no partition enters the record is read
from R225 (log entry 26, DEDUCED).

Step 2 of a repair with no line lost (R221): the spare holds the shelf and the core stores, stands at the cluster's position of the partition
and runs from its next tick with GO. -/
def Obligations.Repairs : Prop :=
  ((∀ (s : State) (cluster spare : BitVec 10) (p x : Nat), s.alive = true →
     let s1 : State := { s with cfg := { s.cfg with rprClus := cluster, rprSpare := spare } }
     (s.pwr.mpDown.isSome = true → exec (.repairStart cluster spare) s =
       .next { s1 with aud := { s.aud with due := s.aud.due ++ [.repair cluster.toNat (s.cluster cluster.toNat).failed] } }) ∧
     (s.pwr.mpDown = none → partOfCluster s cluster.toNat = some p → (s.part p).defined = true → (s.part p).state ≠ .down →
     cluster.toNat ∈ (s.part p).clusters → (∀ r ∈ (s.part p).repairs, r.old ≠ cluster.toNat) →
     chooseSpare s1 cluster.toNat (s.cluster cluster.toNat).widths = some x → ∃ t, exec (.repairStart cluster spare) s = .next t ∧
     (t.part p).repairs = (s.part p).repairs
       ++ [{ old := cluster.toNat, spare := some x, failed := (s.cluster cluster.toNat).failed }] ∧
     (t.cluster x).state = .loading ∧ (t.cluster x).part = BitVec.ofNat 6 p ∧ (∀ h, h ≠ x → t.cluster h = s.cluster h) ∧
     t.cfg.rprPhase = .waitTick ∧ t.cfg.rprNew = BitVec.ofNat 10 x ∧
     t = { s with cfg := t.cfg, parts := t.parts, clusters := t.clusters, aud := t.aud, evr := t.evr })) ∧
   (∀ (s : State) (g : Nat), s.alive = true → g < 640 →
     (inPartition s g = true → s.cfg.auto = false → exec (.clusterFailure g) s = .next (s.modCluster g (fun k => { k with failed := true }))) ∧
     (inPartition s g = false → ∃ t, exec (.clusterFailure g) s = .next t ∧ (t.cluster g).state = .failed ∧
       .failedCluster g ∈ t.cfg.repRec ∧ t.mem = s.mem))) ∧
  (∀ (s : State) (p x : Nat) (counts : Bool) (r : Repair), s.fwRuns = true → s.MemOk → (s.part p).defined = true →
     (s.part p).repairs.find? (repairReady s) = some r → r.spare = some x → r.failed = false → x ≠ r.old → x < 640 → r.old < 640 → ∃ t,
     exec (.repairCopy p [] counts) s = .next t ∧
     (∀ i, i < 0x400000 → t.byte (shelfOf x + i) = s.byte (shelfOf r.old + i)) ∧
     (∀ i, i < 0x200000 → t.byte (coreBase (16 * x) + i) = s.byte (coreBase (16 * r.old) + i)) ∧
     (∀ a, (a < shelfOf x ∨ shelfOf x + 0x400000 ≤ a) → (a < coreBase (16 * x) ∨ coreBase (16 * x) + 0x200000 ≤ a) → t.byte a = s.byte a) ∧
     (t.part p).clusters = (s.part p).clusters.set ((s.part p).clusters.idxOf r.old) x ∧ (t.cluster x).state = .assigned ∧
     t.cfg.rprPhase = .done ∧ t.cfg.rprStatus = .ok ∧ t.cfg.rprLost = false ∧ t.cfg.rprNew = BitVec.ofNat 10 x)

/-- Failures that take partitions down (R226, R227; 01 R30, R36): a faulty router is latched and every partition whose routes cross it goes down at its
next tick; a failed die controller shows ALIVE 0 and the partitions homed there go down at their next tick, where every partition that is not
down has a tick coming; a first ring break only changes the direction and is recorded. That the partitions go down at their next tick is log entry
21 (DEDUCED), and that a break drops the direction flag on every die is log entry 22 (DESIGN CHOICE). -/
def Obligations.FailuresTakeDown : Prop :=
  (∀ (s : State) (g : Nat), s.alive = true → g < 640 → g ∉ s.cfg.routerBad → ∃ t, exec (.routerFault g) s = .next t ∧
    (tickComes s → g ∈ t.cfg.routerBad ∧ t.cfg.rtfVal = true ∧ (s.cfg.rtfVal = false → t.cfg.rtfRouter = BitVec.ofNat 10 g) ∧
      (s.cfg.rtfVal = true → t.cfg.rtfRouter = s.cfg.rtfRouter) ∧ (t.cluster g).state = .routerFault ∧
      ∀ p ∈ s.partList, (t.part p).goDown = ((s.part p).goDown || ((s.part p).state != .down && usesRouter s p g)))) ∧
  (∀ (s : State) (d : Nat), s.alive = true → d < 4 → tickComes s → ∃ t, exec (.dieControllerFailure d) s = .next t ∧
    (t.mgtOf (d + 1)).alive = false ∧ (∀ k, k ≠ d + 1 → t.mgtOf k = s.mgtOf k) ∧
    (∀ p ∈ s.partList, (t.part p).goDown = ((s.part p).goDown || ((s.part p).state != .down && decide ((s.part p).home = d)))) ∧
    t = { s with mgt := t.mgt, parts := t.parts }) ∧
  (∀ (s : State) (m : Nat) (ccw : Bool) (l : List Nat), s.alive = true → (s.mgtOf 0).breaks = 0 → ∃ t, exec (.ringBreak m ccw l) s = .next t ∧
    (∀ k, k < 5 → (t.mgtOf k).breaks = satAdd (s.mgtOf k).breaks 1 ∧ (t.mgtOf k).ccwOk = ((s.mgtOf k).ccwOk && !ccw) ∧
      (t.mgtOf k).cwOk = ((s.mgtOf k).cwOk && ccw)) ∧
    t.evr = (s.event 0x0003 m (b2n ccw)).evr ∧ t = { s with mgt := t.mgt, evr := t.evr })

/-- Memory errors (16 R447 to R449). A correctable error is counted under code 0x0022 and, once CETHR of one pseudo-channel lie within CEWIN
seconds, Bubarus retires it; an uncorrectable one is counted under 0x0023 and fails what it lies in or what reads it; Bubarus halted by an error
of its own memory runs again under code 0x0006 and then does what has become due; a TLB entry with a parity error is discarded; a scrub pass is
counted under 0x0025. -/
def Obligations.MemoryErrors : Prop :=
  (∀ (s : State) (a : Nat), s.alive = true → a < hbmEnd →
    let k := 32 * stackOf a + pchOf (a / pageSize)
    let seen := (tget [] s.aud.ceTimes k ++ [s.time]).filter (fun t => decide (s.time ≤ t + s.aud.cewin.toNat * 1200000000))
    (seen.length < s.aud.cethr.toNat → ∃ t, exec (.eccCorrectable (.hbm a)) s = .next t ∧
      t.evr = (s.event 0x0022 k (a / pageSize)).evr ∧ tget [] t.aud.ceTimes k = seen ∧ t = { s with aud := t.aud, evr := t.evr }) ∧
    (s.aud.cethr.toNat ≤ seen.length → s.fwRuns = true → ∃ t, exec (.eccCorrectable (.hbm a)) s = .next t ∧
      pchRetired t (stackOf a) (pchOf (a / pageSize)) = true) ∧
    (s.aud.cethr.toNat ≤ seen.length → s.pwr.mpDown.isSome = true → ∃ t, exec (.eccCorrectable (.hbm a)) s = .next t ∧
      t.aud.due = s.aud.due ++ [.retire (stackOf a) (pchOf (a / pageSize))] ∧ t = { s with aud := t.aud, evr := t.evr })) ∧
  (∀ (s : State) (a : Nat), s.alive = true → a < hbmEnd →
    (s.aud.ueret = false → exec (.eccUncorrectable (.hbm a) .none) s =
      .next (s.event 0x0023 (32 * stackOf a + pchOf (a / pageSize)) (a / pageSize))) ∧
    (s.aud.ueret = true → s.fwRuns = true → ∃ t, exec (.eccUncorrectable (.hbm a) .none) s = .next t ∧
      pchRetired t (stackOf a) (pchOf (a / pageSize)) = true) ∧
    (∀ n completion, s.aud.ueret = false → (s.stream n).live = true → ∃ t, exec (.eccUncorrectable (.hbm a) (.stream n completion)) s = .next t ∧
      (t.stream n).state = .faulted ∧ (t.stream n).error = BitVec.ofNat 16 (256 * 0x0A + (if completion then 2 else 1)))) ∧
  (∀ (s : State), s.alive = true → s.pwr.mpDown = none → ∃ t, exec (.eccUncorrectable .mpMemory .none) s = .next t ∧
    t.pwr.mpDown = some s.time ∧ t.fwRuns = false ∧ t = { s with pwr := t.pwr, evr := t.evr }) ∧
  (∀ (s : State) (ms t0 : Nat), s.alive = true → s.pwr.mpDown = some t0 →
    (s.aud.due = [] → ∃ t, exec (.mpRestart ms) s = .next t ∧ t.pwr.mpDown = none ∧
      t.time = Nat.max s.time (t0 + 1200000 * ms) ∧ t = { s with time := t.time, aud := t.aud, pwr := t.pwr, evr := t.evr }) ∧
    (∀ st q, s.aud.due = [.retire st q] → ∃ t, exec (.mpRestart ms) s = .next t ∧ t.pwr.mpDown = none ∧ t.aud.due = [] ∧
      pchRetired t st q = true)) ∧
  (∀ (s : State) (g p page : Nat), s.alive = true → g < 640 → ∃ t, exec (.eccUncorrectable (.tlb g p page) .none) s = .next t ∧
    tlbHolds (t.cluster g).tlb p page = false ∧ (∀ h, h ≠ g → t.cluster h = s.cluster h) ∧ t = { s with clusters := t.clusters, evr := t.evr }) ∧
  (∀ (s : State) (stack n : Nat), s.alive = true → stack < 16 → s.aud.scrub ≠ 0 →
    exec (.patrolScrub stack n) s = .next (s.event 0x0025 stack n))

/-! ## 08: memory tiers -/

/-- R256's histogram of lateness. Bin i, for i from 0 to 14, counts lateness from 4^i to 4^(i+1) − 1 cycles, bin 15 from 4^15 up; each holds at its
largest value. A late wait also enters LATE_MAX and LATE_CNT. -/
def Obligations.LatenessHistogram : Prop :=
  (∀ v i, i ≤ 14 → 4 ^ i ≤ v → v < 4 ^ (i + 1) → lateBin v = i) ∧ (∀ v, 4 ^ 15 ≤ v → lateBin v = 15) ∧
  (∀ (s : State) (p v : Nat), v < 2 ^ 32 → let t := s.latePage p v
    (∀ i, tget 0 (t.part p).lateHist i =
      if i = lateBin v then satAdd (tget 0 (s.part p).lateHist i) 1 else tget 0 (s.part p).lateHist i) ∧
    (t.part p).lateMax.toNat = Nat.max (s.part p).lateMax.toNat v ∧ (t.part p).lateCnt = satAdd (s.part p).lateCnt 1 ∧
    t = { s with parts := t.parts, evr := t.evr }) ∧
  (∀ (s : State) (p : Nat), s.alive = true → ∃ t, exec (.clrlate p) s = .next t ∧ (t.part p).lateMax = 0 ∧ (t.part p).lateCnt = 0 ∧
    (∀ i, tget 0 (t.part p).lateHist i = 0) ∧ t = { s with parts := t.parts })

/-- The end of a copy (R246, R262): a promotion leaves the page BOTH_CLEAN with the board frame's bytes in the stacked frame; an eviction
leaves it BOARD with the stacked frame's bytes in the board frame; either waits for a board port that trains (R264). -/
def Obligations.CopiesEnd : Prop :=
  (∀ (s : State) (d p g us : Nat) (c : PageCopy), s.alive = true → (s.migOf d).running = [c] → portHolds s c = true →
    exec (.migrationCopyDone d p g us) s = .next s) ∧
  ∀ (s : State) (d p g us : Nat) (c : PageCopy) (l : Leaf), s.alive = true →
    (s.migOf d).running.find? (fun c => c.part = p && c.page = g) = some c → c.bad = [] → (s.migOf d).waiting = [] →
    readLeaf s p g = some l → portHolds s c = false →
    (c.kind = .promote → ∃ t, exec (.migrationCopyDone d p g us) s = .next t ∧
      t.mem = ((s.copyMem (bAddr l.bframe) (sAddr l.sframe) pageSize).writeLeaf p g { l with state := 3 }).mem ∧
      t.time = Nat.max s.time (c.start + 1200 * us) ∧ (t.migOf d).running = (s.migOf d).running.erase c ∧
      t = { s with time := t.time, aud := t.aud, evr := t.evr, mem := t.mem, mig := t.mig, stm := t.stm }) ∧
    (c.kind = .evict → boardPresent s l.bframe = true → ∃ t, exec (.migrationCopyDone d p g us) s = .next t ∧
      t.mem = ((s.copyMem (sAddr l.sframe) (bAddr l.bframe) pageSize).writeLeaf p g { l with state := 2 }).mem ∧
      (t.migOf d).running = (s.migOf d).running.erase c ∧
      tget 0 t.sAlloc l.sframe = (if ackers s p g = [] then 0 else engineKey) ∧
      t = { s with time := t.time, aud := t.aud, evr := t.evr, mem := t.mem, mig := t.mig, stm := t.stm, sAlloc := t.sAlloc })

/-- Retirement (R262), the dirty request (R245) and the TLBs (04 R120, R121): RETIRE takes the pseudo-channel out of use and records it; a write to a
BOTH_CLEAN page makes it BOTH_DIRTY and no TLB of the partition holds it as clean; a walk enters the page, an invalidation removes it from the
TLB of a cluster or of an update engine, numbered 640 and up (13 R371), and the last acknowledgement, which a TLB's entry of the old place and the
accesses translated to it hold back, frees the old frame. -/
def Obligations.RetireDirtyTlb : Prop :=
  (∀ (s : State) (d : Nat) (st : BitVec 2) (q : BitVec 5), s.alive = true → d < 4 → ∃ t, exec (.retire d st q) s = .next t ∧
    pchRetired t (4 * d + st.toNat) q.toNat = true ∧ (t.migOf d).stack = st ∧ (t.migOf d).pch = q ∧
    (pchRetired s (4 * d + st.toNat) q.toNat = false → .retiredPch (4 * d + st.toNat) q.toNat ∈ t.cfg.repRec)) ∧
  (∀ (s : State) (p g a : Nat) (l : Leaf), s.alive = true → readLeaf s p g = some l → leafAddr s (s.part p).ptBase.toNat g = some a → ∃ t,
    exec (.dirtyRequest p g) s = .next t ∧ (l.state = 3 → leafSet s t a { l with state := 4 }) ∧ (l.state ≠ 3 → t.mem = s.mem) ∧
    (∀ h ∈ (s.part p).clusters, ∀ e ∈ (t.cluster h).tlb, e.part = p → e.page = g → e.clean = false) ∧
    t = { s with mem := t.mem, clusters := t.clusters }) ∧
  (∀ (s : State) (g p page pa cycles : Nat) (l : Leaf), s.alive = true → partOfCluster s g = some p →
    (∀ e ∈ (s.cluster g).tlb, ¬ (e.part = p ∧ e.page = page)) → (s.cluster g).tlb.length < 512 → readLeaf s p page = some l →
    translate s p (uniBase + page * pageSize) false = .at pa → ∃ t, exec (.tlbWalk g page cycles) s = .next t ∧
    (t.cluster g).tlb = (s.cluster g).tlb ++ [{ part := p, page := page, base := pa, clean := decide (l.state = 3) }] ∧
    (∀ h, h ≠ g → t.cluster h = s.cluster h) ∧ t.evr = (s.event 0x0A33 g cycles).evr ∧
    t = { s with clusters := t.clusters, evr := t.evr }) ∧
  (∀ (s : State) (g p page : Nat), s.alive = true →
    (g < 640 → ∃ t, exec (.tlbInvalidate g p page) s = .next t ∧
      (∀ e, e ∈ (t.cluster g).tlb ↔ e ∈ (s.cluster g).tlb ∧ ¬ (e.part = p ∧ e.page = page)) ∧
      (∀ h, h ≠ g → t.cluster h = s.cluster h) ∧ t = { s with clusters := t.clusters }) ∧
    (∀ d, g = 640 + d → ∃ t, exec (.tlbInvalidate g p page) s = .next t ∧
      (∀ e, e ∈ (t.updOf d).tlb ↔ e ∈ (s.updOf d).tlb ∧ ¬ (e.part = p ∧ e.page = page)) ∧
      (∀ h, h ≠ d → t.updOf h = s.updOf h) ∧ t = { s with upd := t.upd })) ∧
  (∀ (s : State) (g p page f d : Nat), s.alive = true → d < 4 →
    (if g < 640 then tlbStale s (s.cluster g).tlb p page = false ∧ oldAccess s g p page = false
     else tlbStale s (s.updOf (g - 640)).tlb p page = false) →
    (s.migOf d).inval = [(p, page, [g], some f, none)] → (∀ k, k ≠ d → (s.migOf k).inval = []) → (s.migOf d).waiting = [] → ∃ t,
    exec (.invalidateAck g p page) s = .next t ∧ (t.migOf d).inval = [] ∧ tget 0 t.sAlloc f = 0 ∧
    (∀ k, k ≠ f → tget 0 t.sAlloc k = tget 0 s.sAlloc k) ∧ t = { s with mig := t.mig, sAlloc := t.sAlloc }) ∧
  (∀ (s : State) (g p page : Nat), s.alive = true → (if g < 640 then tlbStale s (s.cluster g).tlb p page = true ∨ oldAccess s g p page = true
    else tlbStale s (s.updOf (g - 640)).tlb p page = true) → exec (.invalidateAck g p page) s = .next s)

/-- Board ports (R264, R265, R267): RETRAIN takes the port out of UP; a retrain that ends is counted and leaves the lanes that answer in use; a
port not up within 10 ms of going down is DOWN, and the promotions from it fail with the page BOARD; a poisoned line is counted; ENABLE 0 disables the
port. A port trains from stage LINKS on (17 R484), unless the ledger holds it (16 R446). Values are stated where no request waits for a port. -/
def Obligations.BoardPorts : Prop :=
  (∀ (s : State) (n : Nat), s.alive = true → n < 4 → (s.bmpOf n).enable = true → (s.bmpOf n).state ≠ .disabled →
    (mayTrain s (11 + n) = true → ∃ t, exec (.bmpRetrain n) s = .next t ∧
      t.bmpOf n = { s.bmpOf n with state := .training, lanes := 0, downAt := some ((s.bmpOf n).downAt.getD s.time) } ∧
      (∀ k, k ≠ n → t.bmpOf k = s.bmpOf k) ∧ t = { s with bmp := t.bmp }) ∧
    (mayTrain s (11 + n) = false → ∃ t, exec (.bmpRetrain n) s = .next t ∧ (∀ k, t.bmpOf k = s.bmpOf k) ∧ t = { s with bmp := t.bmp }) ∧
    (∀ us, us < 10000 → mayTrain s (11 + n) = true → s.hlk.heldReqs = [] →
      let tr := trained (bmpPort n) (widthMask (bmpPort n) (portWidth s (bmpPort n)) &&& ~~~ lanesOut s (bmpPort n)) 0xFF
      ∃ t, exec (.boardPortRetrain n us) s = .next t ∧ t.time = Nat.max s.time ((s.bmpOf n).downAt.getD s.time + 1200 * us) ∧ (t.bmpOf n).state = tr.2 ∧ (t.bmpOf n).lanes = tr.1 ∧
      (t.bmpOf n).retrains = satAdd (s.bmpOf n).retrains 1 ∧ (∀ k, k ≠ n → t.bmpOf k = s.bmpOf k) ∧
      t = { s with time := t.time, aud := t.aud, bmp := t.bmp, evr := t.evr })) ∧
  (∀ (s : State) (n : Nat), s.alive = true → n < 4 → (s.bmpOf n).enable = true → (s.bmpOf n).state ≠ .down → (s.bmpOf n).state ≠ .disabled →
    s.hlk.heldReqs = [] →
    ((∀ d, d < 4 → (s.migOf d).running = [] ∧ (s.migOf d).waiting = []) → ∃ t, exec (.boardPortDown n) s = .next t ∧
      t.bmpOf n = { s.bmpOf n with state := .down, lanes := 0, downAt := none } ∧ (∀ k, k ≠ n → t.bmpOf k = s.bmpOf k) ∧
      (let u := s.advanceTo ((s.bmpOf n).downAt.getD s.time + 12000000)
       t.time = u.time ∧ t.evr = (u.event 0x020A n n).evr) ∧ t = { s with time := t.time, aud := t.aud, bmp := t.bmp, evr := t.evr }) ∧
    (∀ (p g a f : Nat) (c : PageCopy) (l : Leaf), (s.migOf 0).running = [c] → (s.migOf 0).waiting = [] →
      (∀ d, 0 < d → d < 4 → (s.migOf d).running = [] ∧ (s.migOf d).waiting = []) → c.kind = .promote → c.part = p → c.page = g →
      c.frame = f + 1 → readLeaf s p g = some l → leafAddr s (s.part p).ptBase.toNat g = some a → l.bframe / portFrames = n → ∃ t,
      exec (.boardPortDown n) s = .next t ∧ (t.bmpOf n).state = .down ∧ leafSet s t a { l with state := 2 } ∧
      (t.migOf 0).running = [] ∧ tget 0 t.sAlloc f = 0)) ∧
  (∀ (s : State) (a : Nat), s.alive = true → boardBase ≤ a → a < boardEnd → boardPresent s ((a - boardBase) / pageSize) = true →
    let n := (a - boardBase) / pageSize / portFrames
    ∃ t, exec (.poisonedLine a .none) s = .next t ∧ (t.bmpOf n).poison = satAdd (s.bmpOf n).poison 1 ∧
    (∀ k, k ≠ n → t.bmpOf k = s.bmpOf k) ∧ t = { s with bmp := t.bmp, evr := t.evr }) ∧
  (∀ (s : State) (n : Nat), s.alive = true → n < 4 → s.hlk.heldReqs = [] →
    ((s.bmpOf n).enable = false → mayTrain s (11 + n) = true → ∃ t, exec (.bmpEnable n true) s = .next t ∧
      t.bmpOf n = { s.bmpOf n with enable := true, state := .training, lanes := 0, downAt := some s.time } ∧ t = { s with bmp := t.bmp }) ∧
    ((s.bmpOf n).enable = false → mayTrain s (11 + n) = false → ∃ t, exec (.bmpEnable n true) s = .next t ∧
      t.bmpOf n = { s.bmpOf n with enable := true, state := .down, lanes := 0, downAt := none } ∧ t = { s with bmp := t.bmp }) ∧
    ((s.bmpOf n).enable = true → ∃ t, exec (.bmpEnable n false) s = .next t ∧
      t.bmpOf n = { s.bmpOf n with enable := false, state := .disabled, lanes := 0, downAt := none } ∧ (∀ k, k ≠ n → t.bmpOf k = s.bmpOf k)))

/-! ## 03 to 06: schedule words -/

/-- Issue (R129, R130). A core runs words only in a frame of its cluster (R123). A word whose predicate fails has no effect but its issue, and a drain
word still counts; in a loaded stream only the next issue takes place, and a word leaves the stream after its last one. -/
def Obligations.WordsIssueInOrder : Prop :=
  (∀ (s : State) (c : Nat) (h : WordHdr) (f : SynArgs) (g : MacArgs) (d : DrainArgs),
    (runsWords s c = false → exec (.synWait c h f) s = .next s ∧ exec (.mac c h g 0 []) s = .next s ∧ exec (.drainWord c h d 0) s = .next s) ∧
    (wordReaches s c h → predOk (s.core c) h = false →
      (∃ t, exec (.synWait c h f) s = .next t ∧ issuedIn s t c id ∧ coresOnly s t) ∧
      (∃ t, exec (.synSignal c h f) s = .next t ∧ issuedIn s t c id ∧ coresOnly s t) ∧
      (∃ t, exec (.mac c h g 0 []) s = .next t ∧ issuedIn s t c id ∧ coresOnly s t) ∧
      ∃ t, exec (.drainWord c h d 0) s = .next t ∧ issuedIn s t c (fun k => { k with drainCnt := k.drainCnt + 1 }) ∧ coresOnly s t)) ∧
  (∀ (s : State) (c : Nat) (h : WordHdr) (f : SynArgs), delivered s c h →
    (f.val ≤ tget 0 (s.core c).tok f.ctr.toNat → ∃ t, exec (.synWait c h f) s = .next t ∧ issuedIn s t c id ∧ coresOnly s t) ∧
    (¬ f.val ≤ tget 0 (s.core c).tok f.ctr.toNat → exec (.synWait c h f) s = .next s)) ∧
  (∀ (s : State) (c : Nat) (x : SWord) (f : SynArgs), runsWords s c = true → (s.core c).compute = [x] → (s.core c).feeds = [] → x.w = .syn 1 f →
    x.dead = false → predOk (s.core c) x.h = true → needsFetch (s.core c) x.sched = false → f.val ≤ tget 0 (s.core c).tok f.ctr.toNat →
    ∃ t, exec (.synWait c x.h f) s = .next t ∧ coresOnly s t ∧ issuedIn s t c (fun k =>
      { k with compute := if x.h.reps.toNat ≤ x.rep then [] else [{ x with rep := x.rep + 1 }],
               landed := k.landed.filter (fun l => decide (x.sched < l.2)) })) ∧
  (∀ (s : State) (c i : Nat) (h : WordHdr) (x : SWord) (f : SynArgs), headIssue (s.core c) = some (i, x) → x.w ≠ .syn 1 f →
    exec (.synWait c h f) s = .next s)

/-- MAC in solo (03 R62, R63, R70 to R72, 05 R131 to R133): each column of the array adds the exact sum of its products, times the product of the fine
scales, to its accumulator with one rounding, from zero where CHAIN starts a chain; with NOLOAD 0 the columns take the word's weight image
first. The image is read from where its load starts, the vector where it enters (log entry 75). A reserved encoding only counts and marks its command. -/
def Obligations.MacAccumulates : Prop :=
  (∀ (s : State) (c : Nat) (h : WordHdr) (f : MacArgs), delivered s c h → soloMac s c f →
    let s0 := issueAt s c h (.mac f)
    let a := f.asel.toNat
    let e := (macEntries s0 c f (s0.time + drainWait s0 c f 0)).1.headD (0, 0)
    let wt := fun n => if f.noload then tget {} (s.core c).act (a * 16 + n) else (macSet s0 c f 0 0 0 e.2).1.getD n {}
    let old := fun n => if f.chain then 0 else tget 0 (s.core c).acc (accKey a f.rbase.toNat n)
    ∃ t, exec (.mac c h f 0 []) s = .next t ∧
    (∀ n, n < widthOf s c a → tget 0 (t.core c).acc (accKey a f.rbase.toNat n) =
      match contribution (wt n) f.aenc (macVector s0 c f 0 0 0 0 e.1) with
      | .sum p sc => (accAdd (old n) p sc).1
      | _ => old n) ∧
    (∀ b r n, n < 16 → r < 128 → b ≠ a ∨ r ≠ f.rbase.toNat →
      tget 0 (t.core c).acc (accKey b r n) = tget 0 (s.core c).acc (accKey b r n)) ∧
    (f.noload = true → (t.core c).act = (s.core c).act) ∧ (∀ g, t.cluster g = s.cluster g) ∧
    issuedHeld s t c (fun k => { k with act := (t.core c).act, bg := (t.core c).bg, acc := (t.core c).acc, rows := (t.core c).rows,
                                        loadAt := (t.core c).loadAt, vecAt := (t.core c).vecAt }) ∧
    t = { s with cores := t.cores, clusters := t.clusters, time := t.time, aud := t.aud, evr := t.evr, draw := t.draw }) ∧
  (∀ (s : State) (c : Nat) (h : WordHdr) (f : MacArgs), delivered s c h → macReserved s c f = true → f.pmode ≠ 3 →
    ∃ t, exec (.mac c h f 0 []) s = .next t ∧ reservedIssue s t c h (.mac f))

/-- A drain word in solo with FP32 output (03 R73, 05 R135, R136): column n of the row, times the product of the two coarse scales, is stored at
DLINE as FP32, a NaN where the column is poisoned; the record lies at MREC, with the sequence number, the columns, the rows, the elements and
the slot; the sequence number advances; the SAT bits of the columns are cleared, their values stay. A conversion's output appears when it is
done (R153). -/
def Obligations.DrainWordStores : Prop :=
  (∀ (s : State) (c : Nat) (h : WordHdr) (f : DrainArgs), delivered s c h → soloDrain s c h f →
    let k := s.core c
    let a := f.asel.toNat
    let cs := (tget 0 k.sreg f.csreg.toNat).toNat
    let info := tget {} k.rows (rowKey a f.rbase.toNat)
    let out := coreBase c + 64 * f.dline.toNat
    let rec0 := coreBase c + 32 * f.mrec.toNat
    (rec0 + 32 ≤ out ∨ out + 64 ≤ rec0) → ∃ t, exec (.drainWord c h f 0) s = .next t ∧
    (∀ n, n < widthOf s c a → t.rd (out + 4 * n) 4 = leBytes 4 (fencode fmt32 .saturate
      (if info.poison.toNat.testBit n then .nan
       else (f32 (tget 0 k.acc (accKey a f.rbase.toNat n))).mul (f32 (fmul (BitVec.ofNat 32 cs) (BitVec.ofNat 32 (cs / 2 ^ 32))))))) ∧
    t.rd rec0 12 = leBytes 4 k.drainCnt ++ leBytes 2 (widthOf s c a) ++ leBytes 2 1 ++ leBytes 4 (Min.min info.elems 0xFFFFFFFF) ∧
    t.rd (rec0 + 14) 2 = leBytes 2 h.slot.toNat ∧
    (∀ n, n < widthOf s c a → (tget {} (t.core c).rows (rowKey a f.rbase.toNat)).sat.toNat.testBit n = false) ∧
    (∀ x, (x < out ∨ out + 64 ≤ x) → (x < rec0 ∨ rec0 + 32 ≤ x) → t.byte x = s.byte x) ∧
    issuedHeld s t c (fun k => { k with drainCnt := k.drainCnt + 1, rows := (t.core c).rows }) ∧
    t = { s with mem := t.mem, cores := t.cores, parts := t.parts, time := t.time, aud := t.aud, evr := t.evr, draw := t.draw }) ∧
  (∀ (s : State) (c dst : Nat) (out : List Byte), s.alive = true → (s.core c).conv = [(dst, out)] → dst + out.length ≤ 0x20000 → ∃ t,
    exec (.conversionDone c) s = .next t ∧ t.rd (coreBase c + dst) out.length = out ∧ s.MemSameBut t (coreBase c + dst) out.length ∧
    (t.core c).conv = [] ∧ t = { s with mem := t.mem, cores := t.cores })

/-- The run-ahead engines take MOV words in a frame (05 R107, R130, R137; 04 R108, R111): a fetch whatever its predicate, a drain-engine word no
earlier than its OFFSET and its ready point, with effect when its predicate holds. A word that lacks a credit of a link direction it crosses, or a
fetch whose window, buffer or source lines are not free, stays where it is (01 R24; 04 R108, R112).

Moves complete (04 R108 to R113; 08 R260, R261). A fetch of one line brings the remote line into the local one, or its bytes from before a later
drain of the core (R112), and counts by how much it came late for the word that needs it; a drain writes the local line to the remote one,
ADDW adds its values there as FP32, MAXM merges a maximum register, which is cleared.

The model's choices here: in a hold of the current guard fetches and drains go at its end, as `guardFloor` has it (log entry 33); a move goes to the
place its TLB entry holds, by `Move.reach` (log entry 29); MOP 8 runs with the drains (log entry 32, DEDUCED); a link direction holds one credit for
each move that crosses it (log entry 72, DEDUCED). -/
def Obligations.Moves : Prop :=
  (∀ (s : State) (c : Nat) (h : WordHdr) (f : MovArgs) (loaded : Bool) (x : SWord), (s.core c).feeds = [] → x.dead = false →
     let went := fun (t : State) => (∀ b, b ≠ c → t.core b = s.core b) ∧
       (t.core c).movement = (if loaded then (s.core c).movement.erase x else (s.core c).movement) ∧
       t.core c = { s.core c with movement := (t.core c).movement, nextIdx := (t.core c).nextIdx, fetches := (t.core c).fetches,
                                  drains := (t.core c).drains, fullAt := (t.core c).fullAt } ∧
       t = { s with cores := t.cores, time := t.time, aud := t.aud, evr := t.evr }
     (runsWords s c = true → moveOf (s.core c) isFetch h (.mov 0 f) = some (loaded, x) → fetchReady s c x f = true → drainTable (s.core c) x.idx < 16 →
       ∃ t m, exec (.fetch c h f) s = .next t ∧ went t ∧ (t.core c).fetches = (s.core c).fetches ++ [m] ∧ m.mop = 0 ∧ m.h = h ∧ m.f = f ∧ m.idx = x.idx ∧
       m.mb = tget 0 (s.core c).mb f.base.toNat ∧
       (t.core c).drains = (s.core c).drains ∧ t.time = Nat.max s.time (Nat.max (frameBase s c) (guardFloor s))) ∧
     (runsWords s c = true → moveOf (s.core c) isFetch h (.mov 0 f) = some (loaded, x) → fetchReady s c x f = false → exec (.fetch c h f) s = .next s) ∧
     ∀ e ∈ ([(8, .fetchWithDrainFlag), (1, .drain), (2, .addw), (3, .maxm)] : List (BitVec 4 × (Nat → WordHdr → MovArgs → Instr))),
       (runsWords s c = false → exec (e.2 c h f) s = .next s) ∧
       (runsWords s c = true → moveOf (s.core c) isDrain h (.mov e.1 f) = some (loaded, x) →
         (drainReady (s.core c) x && creditsFree s (moveLinks s c ((s.core c).move e.1 h f x.idx))) = false → exec (e.2 c h f) s = .next s) ∧
       (runsWords s c = true → moveOf (s.core c) isDrain h (.mov e.1 f) = some (loaded, x) → drainReady (s.core c) x = true →
         creditsFree s (moveLinks s c ((s.core c).move e.1 h f x.idx)) = true → ∃ t,
         exec (e.2 c h f) s = .next t ∧ went t ∧ (t.core c).fetches = (s.core c).fetches ∧
         (predOk (s.core c) h = true → ∃ m, (t.core c).drains = (s.core c).drains ++ [m] ∧ m.mop = e.1 ∧ m.h = h ∧ m.f = f ∧ m.idx = x.idx ∧
           m.mb = tget 0 (s.core c).mb f.base.toNat) ∧
         (predOk (s.core c) h = false → (t.core c).drains = (s.core c).drains) ∧
         t.time = Nat.max s.time (Nat.max (Nat.max (frameBase s c + h.offset.toNat) (readyPoint (s.core c) h.offset.toNat).2) (guardFloor s)))) ∧
  ((∀ (s : State) (c late ra ll pa : Nat) (m : Move) (rest : List Move), s.alive = true → s.Between → (s.core c).fetches = m :: rest →
     m.mop = 0 → movLines m = [(ra, ll)] → resolve s (partOfCore s c) ra false ≠ .wait → unwalked s c (m.translated s c) = false →
     let a := (m.translated s c).reach s ra
     let la := localLine c m.f ll
     resolve s (partOfCore s c) a false = .at pa → ∃ t, exec (.fetchComplete c late) s = .next t ∧
     ((s.core c).kept.find? (fun e => e.1 = m.idx && e.2.1 = a / 64) = none → t.rd la 64 = s.rd pa 64) ∧
     (∀ e, (s.core c).kept.find? (fun e => e.1 = m.idx && e.2.1 = a / 64) = some e → e.2.2.length = 64 → t.rd la 64 = e.2.2 ∧ s.MemSameBut t la 64) ∧
     ((s.core c).kept.find? (fun e => e.1 = m.idx && e.2.1 = a / 64) = none → s.MemSameBut t la 64) ∧ (t.core c).fetches = rest ∧
     (∀ b, b ≠ c → t.core b = s.core b) ∧
     ((s.core c).compute = [] → t.time = s.time ∧ t.core c = { s.core c with fetches := rest, kept := (t.core c).kept, landed := (t.core c).landed,
                                                                              failBuf := (t.core c).failBuf }) ∧
     (∀ due x, waitingIssue s c m = some (due, x) → needsFetch { s.core c with fetches := rest } x.sched = false → x.w.nameless = false → 0 < late →
       s.time ≤ due + late → m.late = false → (s.core c).lateFetch = false → pa < hbmEnd →
       t.time = due + late ∧ t.evr = ((s.advanceTo (due + late)).event 0x0A30 c late).evr ∧ (t.core c).lastAt = Nat.max (s.core c).lastAt (due + late)) ∧
     t = { s with mem := t.mem, cores := t.cores, evr := t.evr, parts := t.parts, time := t.time, aud := t.aud }) ∧
   (∀ (s : State) (c ra ll : Nat) (m : Move) (rest : List Move), s.alive = true → s.Between → (s.core c).drains = m :: rest → m.heldAt = none →
     movLines m = [(ra, ll)] → locate s ra = .mem → boardWaits s ra = false →
     let la := localLine c m.f ll
     let own := fun (t : State) => (∀ b, b ≠ c → t.core b = s.core b) ∧
       t.core c = { s.core c with drains := rest, kept := (t.core c).kept, failBuf := (t.core c).failBuf, maxr := (t.core c).maxr } ∧
       t = { s with mem := t.mem, cores := t.cores, evr := t.evr }
     (m.mop = 1 → ∃ t, exec (.drainComplete c) s = .next t ∧ t.rd ra 64 = localBytes s c m.f ll ∧ s.MemSameBut t ra 64 ∧ own t ∧
       (t.core c).maxr = (s.core c).maxr) ∧
     (m.mop = 8 → (s.core c).kept.find? (fun e => e.1 = m.idx && e.2.1 = ra / 64) = none → ∃ t, exec (.drainComplete c) s = .next t ∧
       t.rd la 64 = s.rd ra 64 ∧ s.MemSameBut t la 64 ∧ own t ∧ (t.core c).maxr = (s.core c).maxr) ∧
     (m.mop = 2 → ra < hbmEnd → ∃ t, exec (.drainComplete c) s = .next t ∧ t.rd ra 64 = (addwLine (s.rd ra 64) (localBytes s c m.f ll)).1 ∧
       s.MemSameBut t ra 64 ∧ own t ∧ (t.core c).maxr = (s.core c).maxr) ∧
     (m.mop = 3 → ra < hbmEnd → let i := m.f.loff.toNat % 4
       ∃ t, exec (.drainComplete c) s = .next t ∧
       t.rdN ra 4 = (maxmValue (BitVec.ofNat 32 (s.rdN ra 4)) (tget 0 (s.core c).maxr i)).toNat ∧ s.MemSameBut t ra 4 ∧
       tget 0 (t.core c).maxr i = 0 ∧ (∀ j, j ≠ i → tget 0 (t.core c).maxr j = tget 0 (s.core c).maxr j) ∧ own t)))

/-- Tokens (R142, R143): SIGNAL waits for the drains before it and sends its increment; one to no core is a reserved encoding; an increment that
arrives adds to the counter, which saturates at 0xFFFF under code 0x0A44, and acknowledges its sender.

Barriers (R145): a CBAR holds its core until every core its mask names has issued one of the same mask; the last to arrive releases all of
them; a core outside its own mask has a reserved encoding. -/
def Obligations.TokensAndBarriers : Prop :=
  ((∀ (s : State) (c p : Nat) (h : WordHdr) (f : SynArgs), delivered s c h → partOfCore s c = some p →
     (∀ g, coreOfIndex s p f.tgt.toNat = some g →
       (drainsDone (s.core c) h.offset.toNat = true → ∃ t, exec (.synSignal c h f) s = .next t ∧ coresOnly s t ∧
         issuedIn s t c (fun k => { k with sent := k.sent ++ [(k.issues + 1, .token g f.ctr f.val)] })) ∧
       (drainsDone (s.core c) h.offset.toNat = false → exec (.synSignal c h f) s = .next s)) ∧
     (coreOfIndex s p f.tgt.toNat = none → ∃ t, exec (.synSignal c h f) s = .next t ∧ reservedIssue s t c h (.syn 0 f))) ∧
   (∀ (s : State) (c g : Nat) (ctr : BitVec 4) (v : BitVec 16), s.alive = true → senderOf s (.token c ctr v) = some g → ∃ t,
     exec (.tokenIncrementArrival c ctr v) s = .next t ∧
     (tget 0 (t.core c).tok ctr.toNat).toNat = Nat.min 0xFFFF ((tget 0 (s.core c).tok ctr.toNat).toNat + v.toNat) ∧
     (∀ k, k ≠ ctr.toNat → tget 0 (t.core c).tok k = tget 0 (s.core c).tok k) ∧
     (t.core g).sent = (s.core g).sent.eraseP (fun y => y.2 = .token c ctr v) ∧
     t.evr = (if 0xFFFF < (tget 0 (s.core c).tok ctr.toNat).toNat + v.toNat then (s.event 0x0A44 c ctr.toNat).evr else s.evr) ∧
     t = { s with cores := t.cores, evr := t.evr })) ∧
  (∀ (s : State) (c : Nat) (h : WordHdr) (f : SynArgs), delivered s c h → (s.core c).cbarAt = none →
     (f.cmask.toNat.testBit (c % 16) = true → (∃ x ∈ barrierCores c f.cmask, x ≠ c ∧ (s.core x).cbarAt ≠ some f.cmask) →
       exec (.cbar c h f) s = .next ((s.advanceTo (frameBase s c)).modCore c (fun k => { k with cbarAt := some f.cmask }))) ∧
     (f.cmask.toNat.testBit (c % 16) = true → (∀ x ∈ barrierCores c f.cmask, x ≠ c → (s.core x).cbarAt = some f.cmask) → ∃ t,
       exec (.cbar c h f) s = .next t ∧ (∀ x ∈ barrierCores c f.cmask, (t.core x).cbarAt = none) ∧
       (∀ x, x ∉ barrierCores c f.cmask → t.core x = s.core x) ∧
       t = { s with cores := t.cores, parts := t.parts, time := t.time, aud := t.aud, evr := t.evr, draw := t.draw }) ∧
     (f.cmask.toNat.testBit (c % 16) = false → ∃ t, exec (.cbar c h f) s = .next t ∧ reservedIssue s t c h (.syn 5 f)))

/-- Inter-stage queues (R144, 06 R182): QPUT takes credits and announces, QGET takes what is announced, QREL returns credits it holds (log entry
12), and each arrives at the other end; at each of them the queue's credits, announcements and holdings add up to the same total. A core that
is not the queue's producer or consumer has a reserved encoding. -/
def Obligations.InterStageQueues : Prop :=
  let total := fun (q : Queue) => q.credits + q.announced + q.held + q.annFly + q.crdFly
  let frame := fun (s t : State) => t = { s with parts := t.parts, cores := t.cores, time := t.time, aud := t.aud, evr := t.evr, draw := t.draw }
  (∀ (s : State) (c p : Nat) (h : WordHdr) (f : SynArgs), delivered s c h → let i := f.qid.toNat
    (queueRole s c f true = some p → f.val.toNat ≤ (queueOf s p i).credits → drainsDone (s.core c) h.offset.toNat = true → ∃ t,
      exec (.qput c h f) s = .next t ∧
      queueOf t p i = { queueOf s p i with credits := (queueOf s p i).credits - f.val.toNat, annFly := (queueOf s p i).annFly + f.val.toNat } ∧
      issuedIn s t c (fun k => { k with sent := k.sent ++ [(k.issues + 1, .announce p i f.val)] }) ∧
      total (queueOf t p i) = total (queueOf s p i) ∧ frame s t) ∧
    (queueRole s c f true = some p → (queueOf s p i).credits < f.val.toNat → exec (.qput c h f) s = .next s) ∧
    (queueRole s c f true = none → ∃ t, exec (.qput c h f) s = .next t ∧ reservedIssue s t c h (.syn 2 f)) ∧
    (queueRole s c f false = some p → f.val.toNat ≤ (queueOf s p i).announced → ∃ t, exec (.qget c h f) s = .next t ∧
      queueOf t p i = { queueOf s p i with announced := (queueOf s p i).announced - f.val.toNat, held := (queueOf s p i).held + f.val.toNat } ∧
      issuedIn s t c id ∧ total (queueOf t p i) = total (queueOf s p i) ∧ frame s t) ∧
    (queueRole s c f false = some p → (queueOf s p i).announced < f.val.toNat → exec (.qget c h f) s = .next s) ∧
    (queueRole s c f false = none → ∃ t, exec (.qget c h f) s = .next t ∧ reservedIssue s t c h (.syn 3 f)) ∧
    (queueRole s c f false = some p → f.val.toNat ≤ (queueOf s p i).held → ∃ t, exec (.qrel c h f) s = .next t ∧
      queueOf t p i = { queueOf s p i with held := (queueOf s p i).held - f.val.toNat, crdFly := (queueOf s p i).crdFly + f.val.toNat } ∧
      issuedIn s t c (fun k => { k with sent := k.sent ++ [(k.issues + 1, .credit p i f.val)] }) ∧
      total (queueOf t p i) = total (queueOf s p i) ∧ frame s t)) ∧
  (∀ (s : State) (c p i : Nat) (v : BitVec 16), s.alive = true →
    (senderOf s (.announce p i v) = some c → v.toNat ≤ (queueOf s p i).annFly → ∃ t, exec (.queueAnnounceArrival p i v) s = .next t ∧
      queueOf t p i = { queueOf s p i with annFly := (queueOf s p i).annFly - v.toNat, announced := (queueOf s p i).announced + v.toNat } ∧
      (t.core c).sent = (s.core c).sent.eraseP (fun y => y.2 = .announce p i v) ∧ total (queueOf t p i) = total (queueOf s p i) ∧
      t = { s with parts := t.parts, cores := t.cores }) ∧
    (senderOf s (.credit p i v) = some c → v.toNat ≤ (queueOf s p i).crdFly → ∃ t, exec (.queueCreditArrival p i v) s = .next t ∧
      (t.core c).sent = (s.core c).sent.eraseP (fun y => y.2 = .credit p i v) ∧ total (queueOf t p i) = total (queueOf s p i) ∧
      ((∀ g j x f, coreOfIndex s p (queueOf s p i).prod = some g → headIssue (s.core g) = some (j, x) → x.w ≠ .syn 2 f) →
        queueOf t p i = { queueOf s p i with crdFly := (queueOf s p i).crdFly - v.toNat, credits := (queueOf s p i).credits + v.toNat }) ∧
      t = { s with parts := t.parts, cores := t.cores, evr := t.evr }))

/-! ## 05: the vector instruction set -/

/-- Each row of R150 runs as the operation its OPC names, in a core and in an update engine (R156, R157): one that completes writes its
registers, an engine then goes on 8 bytes further with its count one higher; a reserved encoding or an operation the unit does not have marks
the core's command under code 0x0A40, and stops the engine's program with BAD_OPCODE under 0x0610 with its PC latched. A wait of the engine's write
on a page that leaves ends with the instruction (08 R255). -/
def Obligations.VectorRowsRun : Prop :=
  ∀ e ∈ vecRows, ∀ (s : State) (x : VArgs),
    (∀ c h, delivered s c h → (s.core c).conv = [] →
      let w : Word := .vec (BitVec.ofNat 7 e.1) x
      let s0 := issueAt s c h w
      let does := vop e.1 { s := s0, u := .core c h, r := coreRegs (s.core c) } x
      let bad := vecBad s c h x (vop e.1)
      (bad = true → ∃ t, exec (e.2 (.core c h) x) s = .next t ∧ reservedIssue s t c h w) ∧
      (bad = false → ∀ r s1, does = .next r s1 → exec (e.2 (.core c h) x) s =
        .next ((s1.modCore c (fun k => { k with v := r.v, m := r.m, sreg := r.s, f := r.f })).noteIssue c w h.offset.toNat true)) ∧
      (bad = false → ∀ r s1, does = .err r s1 → exec (e.2 (.core c h) x) s = .next ((s1.markBusErr c h.slot).noteIssue c w h.offset.toNat true))) ∧
    (∀ d, s.alive = true → d < 4 → (s.updOf d).ended = none →
      let u := s.updOf d
      let s0 := if u.part.isSome then { s with bus := some (u.curStream.toNat, some d) } else s
      let does := vop e.1 { s := s0, u := .engine d, r := engRegs u, pc := u.pc.toNat } x
      (does = .bad → ∃ t, exec (e.2 (.engine d) x) s = .next t ∧
        (t.updOf d).ended = some .badOpcode ∧ (t.updOf d).fltVal = true ∧ (u.fltVal = false → (t.updOf d).fltPc = u.pc.truncate 48) ∧
        t.evr = ((s.event 0x0610 (dieCode d) (u.pc.toNat % 2 ^ 32)).writeDone d).evr ∧ t = { s with upd := t.upd, evr := t.evr }) ∧
      (∀ r s1, does = .next r s1 → ∃ t, exec (e.2 (.engine d) x) s = .next t ∧
        let s2 := (s1.modUpd d (fun k => { k with v := r.v, m := r.m, sreg := r.s })).writeDone d
        t.upd = (s2.modUpd d (fun k => { k with pc := u.pc + 8, issued := k.issued + 1 })).upd ∧
        t = { s2 with upd := t.upd, hlk := { s2.hlk with sent := s.hlk.sent }, bus := if u.part.isSome then s.bus else s2.bus }))

/-- Lane-wise operations (R147 to R150): Vd takes the operation's result in every active lane, the others stay or are +0 with MZ; nothing
else changes. Operand b is a lane of Vb, or IMM with I set. Unary rows with I set are reserved encodings. -/
def Obligations.VectorLaneResults : Prop :=
  ∀ (s : State) (u : VUnit) (x : VArgs), unitReady s u →
    let r := unitRegs s u
    let a := fun i => r.lane x.va i
    let b := fun i => if x.i then x.imm else r.lane x.vb i
    let c := fun i => r.lane x.vc i
    (∃ t, exec (.add u x) s = .next t ∧ lanesSet s t u x (fun i => fadd (a i) (b i))) ∧
    (∃ t, exec (.sub u x) s = .next t ∧ lanesSet s t u x (fun i => fsub (a i) (b i))) ∧
    (∃ t, exec (.mul u x) s = .next t ∧ lanesSet s t u x (fun i => fmul (a i) (b i))) ∧
    (∃ t, exec (.fma u x) s = .next t ∧ lanesSet s t u x (fun i => ffma (a i) (b i) (c i))) ∧
    (∃ t, exec (.fnma u x) s = .next t ∧ lanesSet s t u x (fun i => ffnma (a i) (b i) (c i))) ∧
    (∃ t, exec (.min u x) s = .next t ∧ lanesSet s t u x (fun i => fmin (a i) (b i))) ∧
    (∃ t, exec (.max u x) s = .next t ∧ lanesSet s t u x (fun i => fmax (a i) (b i))) ∧
    (∃ t, exec (.clamp u x) s = .next t ∧ lanesSet s t u x (fun i => fmin (fmax (a i) (b i)) (c i))) ∧
    (∃ t, exec (.div u x) s = .next t ∧ lanesSet s t u x (fun i => fdiv (a i) (b i))) ∧
    (∃ t, exec (.mov u x) s = .next t ∧ lanesSet s t u x (fun i => if x.i then x.imm else a i)) ∧
    (x.vc.toNat < 8 → ∃ t, exec (.sel u x) s = .next t ∧
      lanesSet s t u x (fun i => if (r.mask x.vc.toNat).getLsbD i then a i else b i)) ∧
    (x.i = false → ∃ t, exec (.abs u x) s = .next t ∧ lanesSet s t u x (fun i => fabs (a i))) ∧
    (x.i = false → ∃ t, exec (.neg u x) s = .next t ∧ lanesSet s t u x (fun i => fneg (a i))) ∧
    (x.i = false → ∃ t, exec (.sign u x) s = .next t ∧ lanesSet s t u x (fun i => fsign (a i))) ∧
    (x.i = false → ∃ t, exec (.sqrt u x) s = .next t ∧ lanesSet s t u x (fun i => fsqrt (a i))) ∧
    (x.i = false → ∃ t, exec (.rsqrt u x) s = .next t ∧ lanesSet s t u x (fun i => fRsqrt (a i))) ∧
    (x.i = false → ∃ t, exec (.rcp u x) s = .next t ∧ lanesSet s t u x (fun i => fRcp (a i))) ∧
    (x.i = false → ∃ t, exec (.exp2 u x) s = .next t ∧ lanesSet s t u x (fun i => fExp2 (a i))) ∧
    (x.i = false → ∃ t, exec (.log2 u x) s = .next t ∧ lanesSet s t u x (fun i => fLog2 (a i))) ∧
    (x.i = false → ∃ t, exec (.exp u x) s = .next t ∧ lanesSet s t u x (fun i => fExp (a i))) ∧
    (x.i = false → ∃ t, exec (.tanh u x) s = .next t ∧ lanesSet s t u x (fun i => fTanh (a i))) ∧
    (x.i = false → ∃ t, exec (.erf u x) s = .next t ∧ lanesSet s t u x (fun i => fErf (a i))) ∧
    (x.i = false → ∃ t, exec (.iota u x) s = .next t ∧ lanesSet s t u x (fun i => toF32 (Num.ofInt i))) ∧
    (x.i = false → ∃ t, exec (.f2i u x) s = .next t ∧ lanesSet s t u x (fun i => f2iBits (a i))) ∧
    (x.i = false → ∃ t, exec (.i2f u x) s = .next t ∧ lanesSet s t u x (fun i => i2fBits (a i))) ∧
    (x.i = false → x.va.toNat < 16 → ∃ t, exec (.bcast u x) s = .next t ∧ lanesSet s t u x (fun _ => (r.sget x.va).truncate 32)) ∧
    (x.i = false → ∃ t, exec (.vecNop u x) s = .next t ∧ unitStep s t u ∧ unitRegs t u = r)

/-- Comparisons, mask operations, counts and reductions (R149 to R151). A comparison with a NaN is false, CNE true. RSUM adds the active lanes in
R151's pairwise tree; RMAX and RMIN start from the infinities, RAMAX from zero; the FP32 result lies in bits 31:0 of the scalar. That MSK and MZ act on
mask destinations too, that MCNT counts over all lanes, that RSUMSQ rounds each square and that inactive lanes are absent from the tree is read by
inference (log entry 40, DEDUCED).

Scalar operations (R149, R150): 64-bit integers wrap, FP32 results lie in bits 31:0, SLI writes a low or a high half; IMM is
sign-extended where I is set. -/
def Obligations.VectorMasksAndScalars : Prop :=
  (∀ (s : State) (u : VUnit) (x : VArgs), unitReady s u →
     let r := unitRegs s u
     let a := fun i => r.lane x.va i
     let b := fun i => if x.i then x.imm else r.lane x.vb i
     let m := fun (g : BitVec 5) i => (r.mask g.toNat).getLsbD i
     let vals := (List.range r.vl).map (fun i => if r.act x i then some (a i) else none)
     let depth := if r.vl = 32 then 5 else 8
     (x.vd.toNat < 8 →
       (∃ t, exec (.ceq u x) s = .next t ∧ maskSet s t u x (fun i => feqb (a i) (b i))) ∧
       (∃ t, exec (.cne u x) s = .next t ∧ maskSet s t u x (fun i => !feqb (a i) (b i))) ∧
       (∃ t, exec (.clt u x) s = .next t ∧ maskSet s t u x (fun i => fltb (a i) (b i))) ∧
       (∃ t, exec (.cle u x) s = .next t ∧ maskSet s t u x (fun i => fleb (a i) (b i)))) ∧
     (x.i = false → x.vd.toNat < 8 → x.va.toNat < 8 → x.vb.toNat < 8 →
       (∃ t, exec (.mand u x) s = .next t ∧ maskSet s t u x (fun i => m x.va i && m x.vb i)) ∧
       (∃ t, exec (.mor u x) s = .next t ∧ maskSet s t u x (fun i => m x.va i || m x.vb i)) ∧
       (∃ t, exec (.mxor u x) s = .next t ∧ maskSet s t u x (fun i => m x.va i != m x.vb i)) ∧
       (∃ t, exec (.mnot u x) s = .next t ∧ maskSet s t u x (fun i => !m x.va i)) ∧
       (∃ t, exec (.mfirst u x) s = .next t ∧ maskSet s t u x (fun i => decide (i < x.imm.toNat)))) ∧
     (x.i = false → x.vd.toNat < 16 → x.va.toNat < 8 → ∃ t, exec (.mcnt u x) s = .next t ∧
       scalarSet s t u x.vd (BitVec.ofNat 64 ((List.range r.vl).filter (fun i => m x.va i)).length)) ∧
     (x.i = false → x.vd.toNat < 16 →
       (∃ t, exec (.rsum u x) s = .next t ∧ scalarSet s t u x.vd ((treeSum depth vals).zeroExtend 64)) ∧
       (∃ t, exec (.rsumsq u x) s = .next t ∧
         scalarSet s t u x.vd ((treeSum depth (vals.map (fun o => o.map (fun v => fmul v v)))).zeroExtend 64)) ∧
       (∃ t, exec (.rmax u x) s = .next t ∧ scalarSet s t u x.vd ((foldVals fmax 0xFF800000 vals).zeroExtend 64)) ∧
       (∃ t, exec (.rmin u x) s = .next t ∧ scalarSet s t u x.vd ((foldVals fmin 0x7F800000 vals).zeroExtend 64)) ∧
       (∃ t, exec (.ramax u x) s = .next t ∧ scalarSet s t u x.vd ((foldVals fmax 0 (vals.map (fun o => o.map fabs))).zeroExtend 64))) ∧
     (∀ c h, u = .core c h → x.i = false → x.vd.toNat < 8 → x.va.toNat < 8 → ∃ t, exec (.mflag u x) s = .next t ∧ unitStep s t u ∧
       (t.core c).v = (s.core c).v ∧ (t.core c).m = (s.core c).m ∧ (t.core c).sreg = (s.core c).sreg ∧
       ∀ k, k < 8 → (t.core c).f.getLsbD k = (if k = 0 then true else if k = x.vd.toNat then decide (r.mask x.va.toNat ≠ 0)
         else (s.core c).f.getLsbD k))) ∧
  (∀ (s : State) (u : VUnit) (x : VArgs), unitReady s u →
     let r := unitRegs s u
     let a := r.sget x.va
     let b := if x.i then x.imm.signExtend 64 else r.sget x.vb
     let f := fun (v : W64) => (v.truncate 32 : F32)
     (x.vd.toNat < 16 → x.va.toNat < 16 → (x.i = true ∨ x.vb.toNat < 16) →
       (∃ t, exec (.sadd u x) s = .next t ∧ scalarSet s t u x.vd (a + b)) ∧
       (∃ t, exec (.ssub u x) s = .next t ∧ scalarSet s t u x.vd (a - b)) ∧
       (∃ t, exec (.smul u x) s = .next t ∧ scalarSet s t u x.vd (a * b)) ∧
       (∃ t, exec (.sfadd u x) s = .next t ∧ scalarSet s t u x.vd ((fadd (f a) (f b)).zeroExtend 64)) ∧
       (∃ t, exec (.sfmul u x) s = .next t ∧ scalarSet s t u x.vd ((fmul (f a) (f b)).zeroExtend 64)) ∧
       (∃ t, exec (.sfdiv u x) s = .next t ∧ scalarSet s t u x.vd ((fdiv (f a) (f b)).zeroExtend 64))) ∧
     (x.i = false → x.vd.toNat < 16 → ∃ t, exec (.sli u x) s = .next t ∧ scalarSet s t u x.vd
       (BitVec.ofNat 64 (if x.vc.toNat % 2 = 0 then x.imm.toNat else x.imm.toNat * 2 ^ 32 + (r.sget x.vd).toNat % 2 ^ 32))))

/-- Loads and stores of a core (R152): lane i uses the element at S[a] + IMM + i × size, in the type of Vc; a store writes exactly the active
lanes' elements, which every unit of the core sees 6 cycles later at the latest (R155); LDB gives every lane one word; SLD and SST move 64 bits;
with POST S[a] grows by the bytes moved; a misaligned address has no effect but the bus error. CVTB starts a conversion and changes no register
(R153). That POST counts the active lanes' bytes and that a misaligned access does nothing but mark its command is log entry 40 (DEDUCED); until a store
is visible each aligned 8 bytes of it read old or new, as log entry 30 has it. -/
def Obligations.VectorMemory : Prop :=
  ∀ (s : State) (c : Nat) (h : WordHdr) (x : VArgs), delivered s c h → x.i = false → x.va.toNat < 16 →
    let r := coreRegs (s.core c)
    let ty := x.vc.toNat % 8
    let sz := elemSize ty
    let ad := (r.sget x.va + x.imm.signExtend 64).toNat % 0x20000
    let moved := ((List.range 32).filter (fun i => r.act x i)).length * sz
    let grown := fun n => if x.vb.toNat % 2 = 1 then r.sget x.va + BitVec.ofNat 64 n else r.sget x.va
    let s0 := fun (o : BitVec 7) => issueAt s c h (.vec o x)
    let stores := fun (t : State) => issuedIn s t c (fun k => { k with sreg := (t.core c).sreg }) ∧
      (∀ k, k ≠ x.va → (coreRegs (t.core c)).sget k = r.sget k) ∧
      t = { s with mem := t.mem, cores := t.cores, time := t.time, aud := t.aud, evr := t.evr, draw := t.draw }
    (ty < 6 → ad % sz = 0 → (∀ i, i < 32 → inFailed (s.core c) c (ad + i * sz) sz = false) → ∃ t, exec (.ld (.core c h) x) s = .next t ∧
      unitStep s t (.core c h) ∧ (t.core c).m = (s.core c).m ∧ (t.core c).f = (s.core c).f ∧
      (∀ i, i < 32 → (coreRegs (t.core c)).lane x.vd i =
        if r.act x i then elemLoad ty (leNat (rdStore (s0 0x40) c (ad + i * sz) sz)) else if x.mz then 0 else r.lane x.vd i) ∧
      (coreRegs (t.core c)).sget x.va = grown moved ∧ ∀ k, k ≠ x.va → (coreRegs (t.core c)).sget k = r.sget k) ∧
    (ty < 6 → ad % sz = 0 → ad + 32 * sz ≤ 0x20000 → ∃ t, exec (.st (.core c h) x) s = .next t ∧
      (∀ i, i < 32 → t.rd (coreBase c + ad + i * sz) sz =
        if r.act x i then leBytes sz (elemStore ty (r.lane x.vd i)) else s.rd (coreBase c + ad + i * sz) sz) ∧
      ((∀ e ∈ (s.core c).fresh, e.1 ≤ s.time + 6) → ∀ i, i < 32 → ∀ now, t.time + 6 ≤ now →
        rdStore { t with time := now } c (ad + i * sz) sz = t.rd (coreBase c + ad + i * sz) sz) ∧
      s.MemSameBut t (coreBase c + ad) (32 * sz) ∧ (coreRegs (t.core c)).sget x.va = grown moved ∧ stores t) ∧
    (ty < 6 → ad % sz ≠ 0 → ∀ i ∈ ([.ld, .st] : List (VUnit → VArgs → Instr)), ∃ t, exec (i (.core c h) x) s = .next t ∧ issuedIn s t c id ∧
      t.parts = (s.markBusErr c h.slot).parts ∧
      t = { s with cores := t.cores, parts := t.parts, time := t.time, aud := t.aud, evr := t.evr, draw := t.draw }) ∧
    (ad % 4 = 0 → inFailed (s.core c) c ad 4 = false → ∃ t, exec (.ldb (.core c h) x) s = .next t ∧ unitStep s t (.core c h) ∧
      (∀ i, i < 32 → (coreRegs (t.core c)).lane x.vd i =
        if r.act x i then BitVec.ofNat 32 (leNat (rdStore (s0 0x42) c ad 4)) else if x.mz then 0 else r.lane x.vd i) ∧
      (coreRegs (t.core c)).sget x.va = grown 4) ∧
    (x.vd.toNat < 16 → ad % 8 = 0 → inFailed (s.core c) c ad 8 = false → ∃ t, exec (.sld (.core c h) x) s = .next t ∧
      unitStep s t (.core c h) ∧ (t.core c).v = (s.core c).v ∧
      (coreRegs (t.core c)).sget x.vd = BitVec.ofNat 64 (leNat (rdStore (s0 0x45) c ad 8)) ∧
      (x.va ≠ x.vd → (coreRegs (t.core c)).sget x.va = grown 8)) ∧
    (x.vd.toNat < 16 → ad % 8 = 0 → ∃ t, exec (.sst (.core c h) x) s = .next t ∧
      t.rd (coreBase c + ad) 8 = leBytes 8 (r.sget x.vd).toNat ∧ s.MemSameBut t (coreBase c + ad) 8 ∧
      (coreRegs (t.core c)).sget x.va = grown 8 ∧ stores t) ∧
    (cvtbOk x = true → (s.core c).conv = [] → ∃ t out, exec (.cvtb (.core c h) x) s = .next t ∧ coresOnly s t ∧
      issuedIn s t c (fun k => { k with conv := [((r.sget x.vd).toNat, out)], convNo := k.issues + 1, gens := (t.core c).gens,
                                        maxr := (t.core c).maxr }))

/-- Quantised loads and stores of an update engine (R152): LDQ multiplies each 8-bit element by its group's FP16 scale; STQ stores each group's
scale, its largest magnitude over 127 or 255, and each element rounded against it. That the scale saturates in FP16, as `quantScale` has it, is log entry
40 (DEDUCED).

Control flow of an engine's program (R156): a taken branch goes to PC + 8 × IMM, CALL leaves the return address in S15, RET goes there, HALT
ends the program OK. A core has no such operation. -/
def Obligations.EngineVectorRows : Prop :=
  (∀ (s : State) (d : Nat) (x : VArgs), unitReady s (.engine d) → s.Between → x.i = false → x.va.toNat < 16 → x.vb.toNat < 16 →
     let r := engRegs (s.updOf d)
     let ty := x.vc.toNat % 8
     let ad := (r.sget x.va + x.imm.signExtend 64).toNat
     let sc := (r.sget x.vb).toNat
     let group := fun g => (List.range 64).filterMap (fun i => if r.act x (64 * g + i) then some (64 * g + i) else none)
     (ty = 3 ∨ ty = 4) → sc % 2 = 0 → (∀ i, i < 256 → locate s (ad + i) = .mem) → (∀ g, g < 4 → locate s (sc + 2 * g) = .mem) →
     noPortWaits s ad 256 → noPortWaits s sc 8 →
     (∃ t, exec (.ldq (.engine d) x) s = .next t ∧ lanesSet { s with evr := t.evr } t (.engine d) x (fun i =>
       fmul (elemLoad ty (s.rdN (ad + i) 1)) (widen fmtFp16 (s.rdN (sc + 2 * (i / 64)) 2)))) ∧
     ((ad + 256 ≤ sc ∨ sc + 8 ≤ ad) → ∃ t, exec (.stq (.engine d) x) s = .next t ∧
       (∀ g, g < 4 → group g ≠ [] → t.rdN (sc + 2 * g) 2 = quantScale ty ((group g).map (r.lane x.vd))) ∧
       (∀ i, i < 256 → r.act x i = true → t.byte (ad + i) =
         quantElem ty (quantScale ty ((group (i / 64)).map (r.lane x.vd))) (r.lane x.vd i)) ∧
       (∀ a, (a < ad ∨ ad + 256 ≤ a) → (a < sc ∨ sc + 8 ≤ a) → t.byte a = s.byte a) ∧
       t.updOf d = { s.updOf d with pc := (s.updOf d).pc + 8, issued := (s.updOf d).issued + 1 } ∧ (∀ e, e ≠ d → t.updOf e = s.updOf e) ∧
       t = { s with mem := t.mem, upd := t.upd, evr := t.evr })) ∧
  ((∀ (s : State) (d : Nat) (x : VArgs), unitReady s (.engine d) → x.i = false →
     let u := s.updOf d
     let r := engRegs u
     let goes := fun (i : Instr) (p : W64) => ∃ t, exec i s = .next t ∧
       t.updOf d = { u with pc := p, issued := u.issued + 1 } ∧ (∀ e, e ≠ d → t.updOf e = s.updOf e) ∧ t = { s with upd := t.upd }
     let far := u.pc + (x.imm.signExtend 64 <<< 3)
     goes (.br (.engine d) x) far ∧
     (x.va.toNat < 16 → goes (.bz (.engine d) x) (if r.sget x.va = 0 then far else u.pc + 8) ∧
       goes (.bnz (.engine d) x) (if r.sget x.va = 0 then u.pc + 8 else far)) ∧
     (x.va.toNat < 16 → x.vb.toNat < 16 →
       goes (.blt (.engine d) x) (if (r.sget x.va).toInt < (r.sget x.vb).toInt then far else u.pc + 8)) ∧
     goes (.ret (.engine d) x) (r.sget 15) ∧
     (∃ t, exec (.call (.engine d) x) s = .next t ∧ (t.updOf d).pc = far ∧ (engRegs (t.updOf d)).sget 15 = u.pc + 8 ∧
       (∀ k, k ≠ 15 → (engRegs (t.updOf d)).sget k = r.sget k) ∧ (t.updOf d).v = u.v ∧ t = { s with upd := t.upd }) ∧
     (∃ t, exec (.programHalt (.engine d) x) s = .next t ∧ t.updOf d = { u with issued := u.issued + 1, ended := some .ok } ∧
       t = { s with upd := t.upd })) ∧
   (∀ (s : State) (c : Nat) (h : WordHdr) (x : VArgs), delivered s c h →
     ∀ e ∈ ([(0x60, .br), (0x61, .bz), (0x62, .bnz), (0x63, .blt), (0x64, .call), (0x65, .ret), (0x66, .programHalt)] :
         List (BitVec 7 × (VUnit → VArgs → Instr))),
       ∃ t, exec (e.2 (.core c h) x) s = .next t ∧ reservedIssue s t c h (.vec e.1 x)))

/-! ## 11: DMA -/

/-- A channel takes its oldest command, once its tick has come, with a staging buffer of its die (R325, R326); while its mover is frozen (16 R446) or
another command runs, it waits. STOP asks the command to stop at the next descriptor boundary (R334).

A descriptor whose byte stream is one access of the funnel (R328 to R331, R335, R336): the bytes move, the position and the byte count advance,
and the last descriptor ends the command OK. An access that reaches no location is repeated 1 µs later, and the channel halts with BUS_ERROR and the
descriptor's position once RETRY_LIMIT repeats have failed, the first failing address latched. -/
def Obligations.DmaChannels : Prop :=
  ((∀ (s : State) (ch : Nat) (r : DmaRun) (rest : List DmaRun), s.alive = true → ch < 256 → (s.chan ch).queue = r :: rest →
     (r.here = false → exec (.dmaStart ch) s = .next s) ∧
     (r.here = true → (∀ q, (s.chan ch).run = some q → q.done = true) → (tget {} s.aud.dma (dieOfChan ch)).frozen = false → ∃ t,
       exec (.dmaStart ch) s = .next t ∧
       (t.chan ch).run = some r ∧ (t.chan ch).queue = rest ∧ (t.chan ch).bytes = 0 ∧
       t.time = Nat.max s.time (Nat.max r.tick (s.chan ch).freeAt) ∧
       (tget {} t.aud.dma (dieOfChan ch)).held = (tget {} s.aud.dma (dieOfChan ch)).held - b2n (s.chan ch).run.isSome + 1 ∧
       (t.part r.part).dmaHeld = (s.part r.part).dmaHeld - b2n ((s.chan ch).run.any (fun q => q.part = r.part)) + 1 ∧ (∀ k, k ≠ ch → t.chan k = s.chan k) ∧
       t = { s with time := t.time, aud := t.aud, evr := t.evr, chans := t.chans, parts := t.parts }) ∧
     (r.here = true → (∃ q, (s.chan ch).run = some q ∧ q.done = false) ∨ (tget {} s.aud.dma (dieOfChan ch)).frozen = true → ∃ t, exec (.dmaStart ch) s = .next t ∧
       t.chan ch = { s.chan ch with queue := { r with waited := true } :: rest } ∧ (∀ k, k ≠ ch → t.chan k = s.chan k) ∧
       t = { s with chans := t.chans })) ∧
   (∀ (s : State) (ch : Nat) (r : DmaRun), s.alive = true → ch < 256 → (s.chan ch).run = some r → r.done = false → ∃ t,
     exec (.dmaStop ch) s = .next t ∧ (t.chan ch).run = some { r with stopReq := true } ∧ (∀ k, k ≠ ch → t.chan k = s.chan k) ∧ t = { s with chans := t.chans }) ∧
   (∀ (s : State) (ch : Nat) (r : DmaRun) (c : Cmd), s.alive = true → (s.chan ch).run = some r → r.finished = false → r.failAt = none → r.cur = none →
     r.stopReq = true → cmdOf s r.stream r.seq = some c → c.phase = .started → ∃ t, exec (.dmaDescriptor ch []) s = .next t ∧
     (∃ q, (t.chan ch).run = some q ∧ q.finished = true ∧ q.pos = r.pos) ∧ (∃ d ∈ (t.stream r.stream).cmds, d.seq = r.seq ∧
       d.phase = .ended .stopped 0 (BitVec.ofNat 64 (r.pos * 2 ^ 55 + r.bytes))) ∧ t.evr = (s.event 0x0503 ch r.pos).evr ∧
     t = { s with chans := t.chans, stm := t.stm, evr := t.evr })) ∧
  (∀ (s : State) (ch a b n : Nat) (r : DmaRun) (l : List Byte) (c : Cmd), s.alive = true → s.Between → (s.chan ch).run = some r → r.finished = false →
     r.stopReq = false → r.heldAt = none → r.off = 0 → r.rpos = 0 → r.staged = [] → r.olds = [] → (srcPat l).accs 0 = [(a, n)] → (dstPat l).accs 0 = [(b, n)] → 0 < n →
     mayOverlap l = false → locate s b = .mem → boardWaits s a = false → boardWaits s b = false → cmdOf s r.stream r.seq = some c → c.phase = .started →
     let fresh := r.failAt = none ∧ r.again = none ∧ r.cur = none ∧ dmaReread s r = .run l false ∧ (r.pos = 0 ∨ (s.stream r.stream).outOf r.seq = 0)
     let again := r.failAt = some a ∧ r.cur = some l
     let limit := (s.dmaOf (dieOfChan ch)).retryLimit.toNat
     let moved := fun (t : State) => t.rd b n = s.rd a n ∧ s.MemSameBut t b n ∧ ∃ q, (t.chan ch).run = some q ∧ q.pos = r.pos + 1 ∧
       q.bytes = r.bytes + n ∧ q.off = 0 ∧ q.cur = none ∧ q.failAt = none ∧ q.finished = !descChain l ∧ q.addr = descNext l ∧
       (descChain l = false → ∃ d ∈ (t.stream r.stream).cmds, d.seq = r.seq ∧
         d.phase = .ended .ok 0 (BitVec.ofNat 64 ((r.pos + 1) * 2 ^ 55 + (r.bytes + n))))
     (fresh → locate s a = .mem → ∃ t, exec (.dmaDescriptor ch []) s = .next t ∧ moved t ∧
       t = { s with mem := t.mem, chans := t.chans, stm := t.stm, evr := t.evr }) ∧
     (fresh → locate s a = .none → 0 < limit → ∃ t q, exec (.dmaDescriptor ch []) s = .next t ∧ (t.chan ch).run = some q ∧ q.failAt = some a ∧
       q.failTime = s.time ∧ q.repeats = 0 ∧ q.pos = r.pos ∧ t.mem = s.mem) ∧
     (again → locate s a = .mem → ∃ t, exec (.dmaRetry ch) s = .next t ∧ moved t ∧ t.time = Nat.max s.time (r.failTime + 1200) ∧
       (t.dmaOf (dieOfChan ch)).retries = satAdd (s.dmaOf (dieOfChan ch)).retries 1 ∧
       t = { s with time := t.time, aud := t.aud, evr := t.evr, mem := t.mem, dma := t.dma, chans := t.chans, stm := t.stm }) ∧
     (again → locate s a = .none → limit ≤ r.repeats + 1 → ∃ t, exec (.dmaRetry ch) s = .next t ∧
       (∃ q, (t.chan ch).run = some q ∧ q.finished = true) ∧ (t.chan ch).errVal = true ∧
       ((s.chan ch).errVal = false → (t.chan ch).errAddr = BitVec.ofNat 48 a) ∧
       (∃ d ∈ (t.stream r.stream).cmds, d.seq = r.seq ∧
         d.phase = .ended .busError (BitVec.ofNat 8 r.pos) (BitVec.ofNat 64 (r.pos * 2 ^ 55 + r.bytes))) ∧ t.mem = s.mem))

/-! ## 12, 13: shards and the update engines -/

/-- UPDATE up to its parking (13 R372 to R377). One whose header STEP is not its STEP ends STEP_SKEW with REASON 1 and changes nothing; another
runs pass 1 and joins the parked jobs of its engine with its sum of squares and non-finite count. A parked job that has waited its TIMEOUT ends
STOPPED with REASON 0x26 (R379), and ABORT interrupts the one whose group is complete (R397): before its flip it ends NOT_COMMITTED, after it the
commit stays. While an access of pass 1 waits, the engine shows the phase it has come to (R401), and ABORT ends that UPDATE too. -/
def Obligations.UpdateStartsAndEnds : Prop :=
  (∀ (s : State) (n : Nat) (c : Cmd), s.alive = true → nextOf s n 3 = some c → let d := engineOf c.bytes % 4
    engineTurn s d n c = true →
    (let a := bytesN c.bytes 8 8
     let h := shardOf a (s.rd a 64)
     s.Between → a % 64 = 0 → locate s a = .mem → h.map % 64 = 0 → locate s h.map = .mem → locate s (h.map + 64) = .mem → h.step ≠ stepOf c →
     noPortWaits s a 64 → noPortWaits s h.map 128 → ∃ t,
      exec (.update n) s = .next t ∧ (∃ e ∈ (t.stream n).cmds, e.seq = c.seq ∧ ∃ r, e.phase = .ended .stepSkew 1 r) ∧
      ((s.stream n).pinned = false → t.evr = ((s.beginUpd d n c .pass1).event 0x0602 (dieCode d) (stepOf c % 2 ^ 32)).evr) ∧
      t = { s.advanceTo c.tick with stm := t.stm, upd := t.upd, evr := t.evr, hlk := t.hlk } ∧ (s.hlk.sent = 0 → t.hlk = s.hlk)) ∧
    (∀ r s1, uStart d (some (s.stream n).part.toNat) c ({ s with bus := some (n, some d) }.beginUpd d n c .pass1) = (.ok (some r), s1) →
      (∀ e, cmdOf s1 n c.seq = some e → e.bytes = c.bytes) → ∃ t, exec (.update n) s = .next t ∧
      (∃ j ∈ (t.updOf d).parked, j.stream = n ∧ j.seq = c.seq ∧ j.sumsq = r.sumsq ∧ j.nonfin = r.nonfin ∧
        (j.parkedAt = none ↔ statsAt c = 0 ∨ groupDone s1 (statsAt c) (stepOf c) = true)) ∧
      (t.updOf d).state = .idle ∧ t = { s1 with stm := t.stm, upd := t.upd, hlk := t.hlk, bus := s.bus } ∧
      (s1.hlk.sent = 0 → t.stm = s1.stm ∧ t.hlk = s1.hlk)) ∧
    (∀ l f, uStart d (some (s.stream n).part.toNat) c ({ s with bus := some (n, some d) }.beginUpd d n c .pass1) = (.error (.wait l), f) → ∃ t,
      exec (.update n) s = .next t ∧ (t.updOf d).began = some (n, c.seq) ∧ (t.updOf d).state = (f.updOf d).state ∧ t.mem = s.mem ∧
      (t.updOf d).queue = (s.updOf d).queue ∧ (t.updOf d).parked = (s.updOf d).parked)) ∧
  (∀ (s : State) (d n : Nat) (j : UpdJob) (c : Cmd) (t0 : Nat), s.alive = true → d < 4 → (s.updOf d).parked = [j] → j.stream = n →
    cmdOf s n j.seq = some c → c.phase = .started →
    (j.parkedAt = some t0 → s.rdN (paramsAt c + 0x3E) 2 ≠ 0 → s.rdN (paramsAt c + 0x3E) 2 ≤ j.parkFrames → ∃ t,
      exec (.groupTimeout d n) s = .next t ∧ (t.updOf d).parked = [] ∧
      (∃ e ∈ (t.stream n).cmds, e.seq = j.seq ∧ e.phase = .ended .stopped 0x26 (updResult s j)) ∧
      t = { s with stm := t.stm, upd := t.upd, evr := t.evr }) ∧
    (j.parkedAt = none → (s.updOf d).began = none ∨ (s.updOf d).began = some (n, j.seq) →
      (j.flip = none → ∃ t, exec (.updAbort d) s = .next t ∧ (t.updOf d).parked = [] ∧ (t.updOf d).state = .idle ∧
        (∃ e ∈ (t.stream n).cmds, e.seq = j.seq ∧ e.phase = .ended .notCommitted 0x0E (updResult s j)) ∧
        t.evr = ((s.waitOver n j.seq).event 0x0603 (dieCode d) 0x0E).evr ∧ t = { s with stm := t.stm, upd := t.upd, evr := t.evr }) ∧
      (∀ g, j.flip = some g → g.x.d = d → ∃ t, exec (.updAbort d) s = .next t ∧ (t.updOf d).parked = [] ∧ (t.updOf d).state = .idle ∧
        (∃ e ∈ (t.stream n).cmds, e.seq = j.seq ∧ e.phase = .ended .stopped 0 (flipResult s j g.k.skip false true)) ∧
        t = { s with stm := t.stm, upd := t.upd, evr := t.evr }))) ∧
  (∀ (s : State) (d n : Nat) (j : UpdJob) (rest : List UpdJob) (c : Cmd), s.alive = true → d < 4 → (s.updOf d).parked = [] →
    (s.updOf d).queue = j :: rest → j.stream = n → j.opcode = 3 → j.flip = none → (s.updOf d).began = some (n, j.seq) → cmdOf s n j.seq = some c →
    c.phase = .admitted → ∃ t, exec (.updAbort d) s = .next t ∧ (t.updOf d).queue = rest ∧ (t.updOf d).state = .idle ∧ (t.updOf d).began = none ∧
    (∃ e ∈ (t.stream n).cmds, e.seq = j.seq ∧ e.phase = .ended .notCommitted 0x0E (updResult s j)) ∧
    t = { s with stm := t.stm, upd := t.upd, evr := t.evr })

/-- Pass 2, and the flip (R373, R378, R394, R395, R399): the job leaves the engine, a commit or a skip is counted, and the header is written with
STEP + 1, the new SET and LSCALE, SUMMED 0 and ZPEND 1, all other bytes kept; RESULT shows the flip, a skip and a root installed. UPD registers are written only while the engine is idle
(R401). -/
def Obligations.UpdateCommits : Prop :=
  (∀ (s : State) (d : Nat) (j : UpdJob) (c : Cmd) (h : Shard) (m : ShMap) (s0 s1 s3 s4 : State) (pl : List Byte) (k : Scalars) (nf : Nat)
    (root : Bool × Nat), s.alive = true → d < 4 → updRunning (s.updOf d) = some j → j.flip = none →
    cmdOf s j.stream j.seq = some c → c.lost = false → uShard j.shard { s with bus := some (j.stream, some d) } = (.ok (h, m), s0) → uRd none (paramsAt c) 128 s0 = (.ok pl, s1) →
    let x : UCx := { d := d, p := some j.part, h := h, m := m, q := paramsOf pl, c := c, spare := (tget 0#48 (s.updOf d).spAddr m.cls).toNat }
    uBefore x j ((s1.atPass2 d j).modUpd d (fun u => { u with curShard := BitVec.ofNat 32 h.id })) = (.ok (k, nf), s3) →
    uAfter x k s3 = (.ok root, s4) → ∃ t, exec (.updatePass2 d) s = .next t ∧ t.mem = s4.mem ∧ (t.updOf d).state = .idle ∧
    (∀ y ∈ (t.updOf d).parked, ¬ (y.stream = j.stream ∧ y.seq = j.seq)) ∧
    (k.skip = false → (t.updOf d).commits = satAdd (s4.updOf d).commits 1 ∧ (t.updOf d).skips = (s4.updOf d).skips) ∧
    (k.skip = true → (t.updOf d).skips = satAdd (s4.updOf d).skips 1 ∧ (t.updOf d).commits = (s4.updOf d).commits) ∧
    (∀ e, cmdOf s4 j.stream j.seq = some e → e.phase = .started → ∃ y ∈ (t.stream j.stream).cmds, y.seq = j.seq ∧
      y.phase = .ended .ok 0 (flipResult s4 j k.skip root.1 false)) ∧
    t = { s4 with stm := t.stm, upd := t.upd, evr := t.evr, hlk := t.hlk, bus := s.bus } ∧ (s4.hlk.sent = 0 → t.hlk = s4.hlk)) ∧
  (∀ (s : State) (x : UCx) (set : Nat) (ls : F32), s.Between → x.h.addr % 64 = 0 → locate s x.h.addr = .mem →
    boardWaits s x.h.addr = false → ∃ t, uFlip x set ls s = (.ok (), t) ∧
    t.rdN (x.h.addr + 8) 8 = (x.h.step + 1) % 2 ^ 64 ∧ t.rdN (x.h.addr + 0x10) 8 = set % 2 ^ 64 ∧ t.rdN (x.h.addr + 0x28) 4 = ls.toNat ∧
    t.rdN (x.h.addr + 0x2F) 1 = 2 ∧
    (∀ i, (i < 8 ∨ 0x18 ≤ i) → (i < 0x28 ∨ 0x2C ≤ i) → i ≠ 0x2F → t.byte (x.h.addr + i) = s.byte (x.h.addr + i)) ∧
    t = { s with mem := t.mem } ∧ s.MemSameBut t x.h.addr 64) ∧
  (∀ (s : State) (d off : Nat) (v : W64), s.alive = true → d < 4 →
    ((s.updOf d).state = .idle → (s.updOf d).parked = [] → (s.updOf d).queue = [] →
      (∃ t, exec (.updConfigWrite d 0x18 v) s = .next t ∧ (t.updOf d).scrVal = v.getLsbD 63 ∧
        (t.updOf d).scrAddr.toNat = v.toNat % 2 ^ 48 / 2 ^ 21 * 2 ^ 21 ∧ (∀ e, e ≠ d → t.updOf e = s.updOf e) ∧ t = { s with upd := t.upd }) ∧
      ∀ i, i < 8 → (∃ t, exec (.updConfigWrite d (0x100 + 8 * i) v) s = .next t ∧ tget false (t.updOf d).spVal i = v.getLsbD 63 ∧
        (tget 0 (t.updOf d).spAddr i).toNat = v.toNat % 2 ^ 48 / 64 * 64 ∧ t = { s with upd := t.upd }) ∧
        ∃ t, exec (.updConfigWrite d (0x140 + 8 * i) v) s = .next t ∧ (tget 0 (t.updOf d).clsize i).toNat = v.toNat % 2 ^ 48 ∧
        t = { s with upd := t.upd }) ∧
    ((s.updOf d).state ≠ .idle ∨ (s.updOf d).parked ≠ [] ∨ (s.updOf d).queue ≠ [] →
      exec (.updConfigWrite d off v) s = .next (s.event 0x060E (dieCode d) off)))

/-- EXPORT, IMPORT and TIE_SUM (12 R361 to R366) run whole on their engine, take the memory their work leaves, and end OK with their RESULT, the image's
length or the number of ties; a failed access ends them with its status, an IMPORT with REASON 0x0F and under code 0x0624. That RESULT of EXPORT and
IMPORT is the image's BYTES is read by inference (log entry 36, DEDUCED). -/
def Obligations.ShardCommands : Prop :=
  ∀ (s : State) (n : Nat) (c : Cmd), s.alive = true → let d := engineOf c.bytes % 4
    let p := (s.stream n).part.toNat
    let u := { s with bus := some (n, some d) }.beginUpd d n c .other
    let ends := fun (s1 t : State) (st : Status) (reason : BitVec 8) (res : Nat) => t.mem = s1.mem ∧ (t.updOf d).state = .idle ∧ (t.updOf d).part = none ∧
      (t.stream n).cmds = (s1.stream n).cmds.map (fun e => if e.seq = c.seq ∧ e.phase = .started
        then { e with phase := .ended st reason (BitVec.ofNat 64 res) } else e) ∧
      t = { s1 with stm := t.stm, upd := t.upd, evr := t.evr, hlk := t.hlk, bus := s.bus } ∧ (s1.hlk.sent = 0 → t.hlk = s1.hlk)
    engineTurn s d n c = true →
    (nextOf s n 0xB = some c →
      (∀ h m s1, uTieSum (some p) (bytesN c.bytes 8 8) u = (.ok (h, m), s1) → ∃ t, exec (.tieSum n) s = .next t ∧ ends s1 t .ok 0 m.ties ∧
        t.evr = (s1.event 0x0625 p m.ties).evr) ∧
      (∀ st s1, uTieSum (some p) (bytesN c.bytes 8 8) u = (.error (.fail st), s1) → ∃ t, exec (.tieSum n) s = .next t ∧ ends s1 t st 0 0 ∧ t.evr = s1.evr)) ∧
    (nextOf s n 4 = some c →
      (∀ len h s1, uExport d n (some p) c u = (.ok (len, false, h), s1) → ∃ t, exec (.exportShard n) s = .next t ∧ ends s1 t .ok 0 len ∧ t.evr = s1.evr) ∧
      (∀ len h s1, uExport d n (some p) c u = (.ok (len, true, h), s1) → ∃ t, exec (.exportShard n) s = .next t ∧ ends s1 t .stepSkew 0 len ∧
        t.evr = (s1.event 0x0623 p h.id).evr) ∧
      (∀ st s1, uExport d n (some p) c u = (.error (.fail st), s1) → ∃ t, exec (.exportShard n) s = .next t ∧ ends s1 t st 0 0 ∧ t.evr = s1.evr)) ∧
    (nextOf s n 5 = some c →
      (∀ len s1, uImportAll d (some p) c u = (.ok len, s1) → ∃ t, exec (.importShard n) s = .next t ∧ ends s1 t .ok 0 len ∧
        t.evr = s1.evr) ∧
      (∀ st s1, uImportAll d (some p) c u = (.error (.fail st), s1) → ∃ t, exec (.importShard n) s = .next t ∧ ends s1 t st 0x0F 0 ∧
        t.evr = (s1.event 0x0624 p (s.rdN (bytesN c.bytes 8 8 + 4) 4)).evr))

/-! ## 14: ingest -/

/-- INGEST starts at its engine when no other on its queues is ahead (R404, R405), reading TAIL of both queues and the ROI area, if it has one (R413); one
that had to wait is counted under 0x0705; a raw record that passes fills the next slot, zero-padded, and HEAD passes it (R407, R410, R411);
with no record the engine waits and reads TAIL again 1 µs later.

The end of an INGEST (R405, R412, R415, R418): at the batch deadline slots that await a pool record are padded, slots without a record are missing,
and mask and manifest are written; ABORT ends it STOPPED under code 0x0707 with both written as far as they go; where a write of them waits on a page,
the engine finishes it later. -/
def Obligations.Ingest : Prop :=
  ((∀ (s s1 : State) (n : Nat) (c : Cmd) (j : IngJob) (rest : List IngJob) (b : List Byte), s.alive = true → nextOf s n 0xC = some c →
     let e := byteAt c.bytes 0x2E
     let s0 := { s with bus := some (n, none) }.advanceTo j.tick
     (s.ingOf e).run = none → (s.ingOf e).late = [] → (s.ingOf e).queue = j :: rest → j.stream = n → j.seq = c.seq → ingHeld s j = false →
     (if j.roiAt = 0 then (.ok [], s0) else s0.readAny none j.roiAt (64 + j.nSlots * s0.rdN (j.roiAt + 4) 4)) = (.ok b, s1) →
     ∃ t, exec (.ingest n) s = .next t ∧ (t.ingOf e).queue = rest ∧
     (t.ingOf e).run = some { j with start := Nat.max s.time j.tick, srcTail := s.rdN (j.src + 0xC) 4,
                                     poolTail := if j.pool = 0 then 0 else s.rdN (j.pool + 0xC) 4, roi := b } ∧
     t.evr = (if j.held then s1.event 0x0705 e ((Nat.max s.time j.tick - j.tick) / 1200) else s1).evr ∧
     t.stm = (s1.startCmd n c.seq).stm ∧ t = { s1 with evr := t.evr, stm := t.stm, ing := t.ing, bus := s.bus }) ∧
   (∀ (s : State) (e : Nat) (j : IngJob), s.alive = true → e < 4 → (s.ingOf e).run = some j → (s.ingOf e).abortReq = false → j.finish = false →
     (s.ingOf e).late = [] → j.writeFrom = none → pastDeadline s j = false → (∀ c ∈ (s.stream j.stream).cmds, c.lost = false) →
     let head := s.rdN (j.src + 8) 4
     (j.waiting = false → j.awaiting = [] → head = j.srcTail → head = s.rdN (j.src + 0xC) 4 → j.slot < j.nSlots → ∃ t,
       exec (.ingestRecord e) s = .next t ∧ (t.ingOf e).run = some { j with waiting := true, polledAt := s.time } ∧
       t = { s with ing := t.ing, stm := t.stm, hlk := t.hlk } ∧ (s.hlk.sent = 0 → t = { s with ing := t.ing })) ∧
     (∀ (sample : Nat) (o : RecOut) (s1 : State), j.waiting = false → j.awaiting = [] → head ≠ j.srcTail → j.slot + 1 < j.nSlots →
       uRecord (some j.part) j.src j j.slot { s with bus := some (j.stream, none) } = (.ok (sample, .ok o), s1) → o.hdr.image = false → o.data.length ≤ j.slotSz → 0 < j.slotSz →
       let a := j.batch + j.slot * j.slotSz
       a % 64 + j.slotSz ≤ 64 → locate s1 a = .mem → boardWaits s1 a = false → (a + j.slotSz ≤ j.src + 8 ∨ j.src + 12 ≤ a) → ∃ t j1, exec (.ingestRecord e) s = .next t ∧
       (t.ingOf e).run = some j1 ∧ j1.slot = j.slot + 1 ∧ (j1.slotOf j.slot).kind = 0 ∧ (j1.slotOf j.slot).bytes = o.data.length ∧
       (j1.slotOf j.slot).orig = BitVec.ofNat 64 sample ∧ t.rd a j.slotSz = o.data ++ List.replicate (j.slotSz - o.data.length) 0 ∧
       t.rdN (j.src + 8) 4 = (s1.rdN (j.src + 8) 4 + 1) % 2 ^ 32 ∧
       (∀ x, (x < a ∨ a + j.slotSz ≤ x) → (x < j.src + 8 ∨ j.src + 12 ≤ x) → t.byte x = s1.byte x) ∧
       (t.ingOf e).accepted = satAdd (s1.ingOf e).accepted 1 ∧
       t = { s1 with mem := t.mem, ing := t.ing, stm := t.stm, hlk := t.hlk, evr := t.evr, bus := s.bus } ∧
       (s1.hlk.sent = 0 → t.stm = s1.stm ∧ t.hlk = s1.hlk)) ∧
     (j.waiting = true → ∃ t j1, exec (.ingestTailPoll e) s = .next t ∧ t.time = Nat.max s.time (j.polledAt + 1200) ∧
       (t.ingOf e).run = some j1 ∧ j1.srcTail = s.rdN (j.src + 0xC) 4 ∧ j1.polledAt = t.time ∧
       (j.slot < j.nSlots → head ≠ s.rdN (j.src + 0xC) 4 → j1.waiting = false) ∧
       (j.pool = 0 → head = s.rdN (j.src + 0xC) 4 → j1.waiting = true) ∧
       t = { s with time := t.time, aud := t.aud, evr := t.evr, ing := t.ing }))) ∧
  (∀ (s : State) (e : Nat) (j : IngJob), s.alive = true → e < 4 → (s.ingOf e).run = some j → j.writeFrom = none → j.ends = none →
     let ended := fun (s1 t : State) (k : IngJob) (st : Status) => t.mem = s1.mem ∧ (t.ingOf e).run = none ∧
       (t.ingOf e).missing = satAdd (s1.ingOf e).missing (k.count 3) ∧ (t.ingOf e).padded = satAdd (s1.ingOf e).padded (k.count 2) ∧
       (t.stream j.stream).cmds = (s1.stream j.stream).cmds.map (fun c => if c.seq = j.seq ∧ c.phase = .started
         then { c with phase := .ended st 0 k.result } else c) ∧
       t = { s1 with stm := t.stm, ing := t.ing, evr := t.evr, hlk := t.hlk, bus := s.bus } ∧ (s1.hlk.sent = 0 → t.hlk = s1.hlk)
     let s0 := { s with bus := some (j.stream, none) }
     let padded := j.awaiting.foldl (fun j i => j.setSlot i (fun x => { x with await := false, kind := 2 })) j
     (∀ t0, deadlineOf s j = some t0 → j.finish = false → ingCause s e j = none →
       let late := j.awaiting.foldl (fun s i => s.event 0x0702 e i) (s0.advanceTo t0)
       let work := uReport (some j.part) padded ((if padded.count 3 = 0 then late else late.event 0x0703 e (padded.count 3)).modIng e
         (fun g => { g with run := some { padded with finish := true } }))
       (∀ s1, work = (.ok (), s1) → ∃ t, exec (.batchDeadline e) s = .next t ∧ ended s1 t padded .ok) ∧
       ∀ st s1, work = (.error (.fail st), s1) → ∃ t, exec (.batchDeadline e) s = .next t ∧ ended s1 t padded st ∧
         t.evr = (s1.event 0x0707 e st.code).evr) ∧
     let cut := { j.cutShort with ends := some Status.stopped }
     let work := uReport (some j.part) cut ((s0.modIng e (fun g => { g with abortReq := true })).modIng e
       (fun g => { g with run := some { cut with finish := true } }))
     (∀ r s1, work = (r, s1) → (∀ l, r ≠ .error (.wait l)) → ∃ t, exec (.ingestAbort e) s = .next t ∧ ended s1 t cut .stopped ∧
       t.evr = (s1.event 0x0707 e 0x0E).evr) ∧
     (∀ l s1, work = (.error (.wait l), s1) → ∃ t q, exec (.ingestAbort e) s = .next t ∧ (t.ingOf e).run = some q ∧ q.finish = true ∧
       q.ends = some .stopped ∧ t.mem = s.mem ∧ t.stm = s.stm))

/-! ## 15: peer links -/

/-- The entry at a queue's head starts under the row of its operation (R424 to R430): WRITE and ADDW read the local line and send it, READ writes
the fetched line here, NOTE moves nothing, and each holds a credit of the link directions it crosses (R431); without one it waits (01 R24). An entry
that fails R427's checks keeps its status and reason and sends nothing; one whose port is not up fails with reason 8.

An entry ends (R428, R429): its status and reason, MOVED and DONE are written into it, LCTR is added to, HEAD advances; a failure the far side
reports gives BUS_ERROR with its reason, and a port that went down meanwhile reason 8, both under code 0x0802; a counter update is sent after data that
has moved whole. A READ ends well when its data has been written whole. That an entry holds one credit of a direction is the model's reading (log
entry 72, DEDUCED). -/
def Obligations.PeerEntries : Prop :=
  (∀ (s : State) (n : Nat), s.alive = true → s.Between → n < 16 → peerReady (s.pq n) = true →
     let a := queueEntryAt (s.pq n)
     a % 64 = 0 → locate s a = .mem → boardWaits s a = false →
     let l := s.rd a 64
     let e := entryOf l
     let forms := fun (i : Instr) => i = .peerWrite n ∧ e.op = 1 ∨ (∃ data, i = .peerRead n data) ∧ e.op = 2 ∨ i = .peerAddw n ∧ e.op = 3 ∨
       i = .note n ∧ e.op = 4
     (∀ k, entryCheck s (s.pq n) e = none → entryPort s (s.pq n) e = some k → boardWaits s e.laddr = false →
       let started := fun (t : State) (mv : Nat) => t.pq n = { s.pq n with run := some l, res := none, moved := mv, links := entryLinks k e, lost := false } ∧
         ∀ i, i ≠ n → t.pq i = s.pq i
       (portUp s k = true → creditsFree s (entryLinks k e) = true →
       (e.op = 1 → e.len = 64 → locate s e.laddr = .mem → ∃ t, exec (.peerWrite n) s = .next t ∧ started t 64 ∧
         t.plk.sent = (e.dest, .write e.raddr (s.rd e.laddr 64)) :: s.plk.sent ∧ t = { s with plk := t.plk, evr := t.evr }) ∧
       (e.op = 3 → e.len = 64 → locate s e.laddr = .mem → ∃ t, exec (.peerAddw n) s = .next t ∧ started t 64 ∧
         t.plk.sent = (e.dest, .addw e.raddr (s.rd e.laddr 64)) :: s.plk.sent ∧ t = { s with plk := t.plk, evr := t.evr }) ∧
       (∀ data : List Byte, e.op = 2 → e.len = 64 → data.length = 64 → locate s e.laddr = .mem → ∃ t, exec (.peerRead n data) s = .next t ∧
         started t 64 ∧ t.plk.sent = (e.dest, .read e.raddr 64) :: s.plk.sent ∧ t.rd e.laddr 64 = data ∧ s.MemSameBut t e.laddr 64 ∧
         t = { s with mem := t.mem, plk := t.plk, evr := t.evr }) ∧
       (e.op = 4 → ∃ t, exec (.note n) s = .next t ∧ started t 0 ∧ t.plk.sent = s.plk.sent ∧ t = { s with plk := t.plk })) ∧
       (portUp s k = true → creditsFree s (entryLinks k e) = false → ∀ i, forms i → exec i s = .next s) ∧
       (portTrains s k = true → ∀ i, forms i → exec i s = .next s) ∧
       (portUp s k = false → portTrains s k = false → e.op = 4 ∨ e.len = 64 → ∀ i, forms i → ∃ t, exec i s = .next t ∧
         t.pq n = { s.pq n with run := some l, res := some (.busError, 8), moved := 0 } ∧ t.plk.sent = s.plk.sent ∧
         t = { s with plk := t.plk, evr := t.evr })) ∧
     (∀ st r i, entryCheck s (s.pq n) e = some (st, r) →
       forms i ∨ (e.op = 0 ∨ 4 < e.op) ∧ (i = .peerWrite n ∨ (∃ data, i = .peerRead n data) ∨ i = .peerAddw n ∨ i = .note n) → ∃ t,
       exec i s = .next t ∧ t.pq n = { s.pq n with run := some l, res := some (st, BitVec.ofNat 8 r), moved := 0 } ∧ t.plk.sent = s.plk.sent ∧
       t = { s with plk := t.plk })) ∧
  (∀ (s : State) (n mv : Nat) (failed : BitVec 8) (l : List Byte), s.alive = true → n < 16 → (s.pq n).run = some l →
     let q := s.pq n
     let a := queueEntryAt q
     let e := entryOf l
     let fin : Status × BitVec 8 := match q.res with
       | some x => x
       | none => if q.lost then (.busError, 8) else if failed = 0 then (.ok, 0) else (.busError, failed)
     let read := e.op = 2 ∧ q.res = none ∧ q.lost = false ∧ failed = 0 ∧ q.moved ≠ e.len
     (read → exec (.peerEntryDone n failed mv) s = .next s) ∧
     (¬ read → a % 64 = 0 → locate s a = .mem →
     ((e.lcnt && ctrOk e.lctr) = true → (e.lctr + 8 ≤ a ∨ a + 64 ≤ e.lctr) ∧ locate s e.lctr = .mem) → ∃ t,
     exec (.peerEntryDone n failed mv) s = .next t ∧
     t.rd (a + 4) 2 = [BitVec.ofNat 8 fin.1.code, fin.2] ∧ t.rdN (a + 6) 1 = 1 ∧
     t.rdN (a + 0x38) 8 = (if q.res ≠ none ∨ fin.1 = .ok ∨ e.op = 2 then q.moved else Nat.min mv q.moved) % 2 ^ 64 ∧
     t.plk.sent = (if fin.1 = .ok ∧ e.rcnt = true then [(e.dest, PeerReq.count e.rctr e.inc)] else []) ++ s.plk.sent ∧
     ((e.lcnt && ctrOk e.lctr) = true → t.rdN e.lctr 8 = (s.rdN e.lctr 8 + e.inc.toNat) % 2 ^ 64) ∧
     (∀ x, (x < a ∨ a + 64 ≤ x) → ((e.lcnt && ctrOk e.lctr) = true → x < e.lctr ∨ e.lctr + 8 ≤ x) → t.byte x = s.byte x) ∧
     t.pq n = { q with run := none, res := none, moved := 0, links := [], lost := false, head := BitVec.ofNat 16 ((q.head.toNat + 1) % 2 ^ q.log2.toNat) } ∧
     (∀ k, k ≠ n → t.pq k = s.pq k) ∧ t.evr = (if fin.1 = .ok then s else s.event 0x0802 n fin.1.code).evr ∧
     t = { s with mem := t.mem, plk := t.plk, evr := t.evr }))

/-- Requests from other modules (R428, R432; 08 R260), one line each: a write stores the bytes, a read returns them, an accumulate-write adds FP32
values, a counter update adds modulo 2^64; any of them that reaches no location or a unified address is refused under code 0x0807 with the port it came
in by. A flit for another module leaves by the route table's port, or is refused so (R423, R439). -/
def Obligations.PeerRequests : Prop :=
  (∀ (s : State) (n a : Nat) (d : List Byte), s.alive = true → a % 64 = 0 → d.length = 64 →
    (locate s a = .mem → boardWaits s a = false →
      (∃ t, exec (.peerRequest ⟨n, .write a d⟩) s = .next t ∧ t.rd a 64 = d ∧ s.MemSameBut t a 64 ∧ t.plk = { s.plk with nak := false } ∧
        t = { s with mem := t.mem, plk := t.plk }) ∧
      exec (.peerRequest ⟨n, .read a 64⟩) s = .next { s with plk := { s.plk with nak := false, reply := s.rd a 64 } } ∧
      (a < hbmEnd → ∃ t, exec (.peerRequest ⟨n, .addw a d⟩) s = .next t ∧ t.rd a 64 = (addwLine (s.rd a 64) d).1 ∧ s.MemSameBut t a 64 ∧
        t.plk = { s.plk with nak := false } ∧ t = { s with mem := t.mem, plk := t.plk, evr := t.evr })) ∧
    (locate s a = .none ∨ locate s a = .uni → ∀ r ∈ [PeerReq.write a d, .read a 64, .addw a d], ∃ t, exec (.peerRequest ⟨n, r⟩) s = .next t ∧
      t.plk = { s.plk with nak := true, reply := if r = .read a 64 then [] else s.plk.reply } ∧
      t.evr = (s.event 0x0807 n (a / 2 ^ 21)).evr ∧ t = { s with plk := t.plk, evr := t.evr })) ∧
  (∀ (s : State) (n a : Nat) (inc : W64), s.alive = true → a % 8 = 0 → a + 8 ≤ hbmEnd →
    (locate s a = .mem → ∃ t, exec (.peerRequest ⟨n, .count a inc⟩) s = .next t ∧ t.rdN a 8 = (s.rdN a 8 + inc.toNat) % 2 ^ 64 ∧ s.MemSameBut t a 8 ∧
      t.plk = { s.plk with nak := false } ∧ t = { s with mem := t.mem, plk := t.plk }) ∧
    (locate s a = .none → ∃ t, exec (.peerRequest ⟨n, .count a inc⟩) s = .next t ∧ t.plk = { s.plk with nak := true } ∧
      t.evr = (s.event 0x0807 n (a / 2 ^ 21)).evr ∧ t = { s with plk := t.plk, evr := t.evr })) ∧
  (∀ (s : State) (p : Nat) (m : BitVec 8), s.alive = true → m ≠ s.plk.modid →
    (∀ n, routeTo s m.toNat = some n → exec (.peerFlitForward ⟨p, m⟩) s =
      .next { s with plk := { s.plk with nak := false, fwdPort := BitVec.ofNat 2 (n + 1) } }) ∧
    (routeTo s m.toNat = none → ∃ t, exec (.peerFlitForward ⟨p, m⟩) s = .next t ∧ t.plk = { s.plk with nak := true } ∧
      t.evr = (s.event 0x0807 p m.toNat).evr ∧ t = { s with plk := t.plk, evr := t.evr }))

/-- Peer queues and ports (R422, R424, R425, R430): a tail write that is below 2^LOG2 and does not uncover becomes TAIL, another is counted under
0x080A; a bell word with bit 20 set writes the tail of its queue; STOP and QCTL set their bits, LOG2 only while EN is 0 (log entry 60), and STOP and EN
written together stop the queue (log entry 38, DEDUCED). A port that may train does so on RETRAIN, is down 10 ms after it went down, and a retrain is
counted; before stage LINKS and while the ledger holds it none trains (16 R446; 17 R484). -/
def Obligations.PeerQueuesAndPorts : Prop :=
  (∀ (s : State) (q : Nat) (v : BitVec 16), s.alive = true → q < 16 →
    let x := s.pq q
    let sz := 2 ^ x.log2.toNat
    let accepted := v.toNat < sz ∧ (x.tail.toNat + sz - x.head.toNat % sz) % sz ≤ (v.toNat + sz - x.head.toNat % sz) % sz
    (accepted → ∃ t, exec (.queueTailWrite q v) s = .next t ∧ t.pq q = { x with tail := v } ∧ (∀ k, k ≠ q → t.pq k = s.pq k) ∧
      t = { s with plk := t.plk }) ∧
    (¬ accepted → exec (.queueTailWrite q v) s = .next (s.event 0x080A q v.toNat)) ∧
    (∀ k, k < 8 → exec (.queueBell (0x400 + 8 * k) (BitVec.ofNat 64 (2 ^ 20 + q * 2 ^ 16 + v.toNat))) s = exec (.queueTailWrite q v) s ∧
      exec (.queueBell (0x400 + 8 * k) (BitVec.ofNat 64 (q * 2 ^ 16 + v.toNat))) s = .next s) ∧
    (∃ t, exec (.queueStop q) s = .next t ∧ t.pq q = { x with stop := true } ∧ t = { s with plk := t.plk }) ∧
    (∀ w : W64, ∃ t, exec (.queueEnable q w) s = .next t ∧ (t.pq q).en = w.getLsbD 0 ∧
      (t.pq q).log2 = (if x.en then x.log2 else BitVec.ofNat 4 (w.toNat / 2 ^ 12)) ∧ (t.pq q).tail = x.tail ∧ (t.pq q).head = x.head ∧
      (t.pq q).stop = (w.getLsbD 1 || (x.stop && !w.getLsbD 0)) ∧ t = { s with plk := t.plk })) ∧
  (∀ (s : State) (n : Nat), s.alive = true → n < 2 →
    ((s.pport n).enable = true → mayTrain s (9 + n) = true → ∃ t, exec (.plkRetrain n) s = .next t ∧ t.pport n =
        { s.pport n with state := .training, lanes := 0, downAt := some ((s.pport n).downAt.getD s.time) } ∧ (∀ k, k ≠ n → t.pport k = s.pport k) ∧ t = { s with plk := t.plk }) ∧
    (mayTrain s (9 + n) = false → (∃ t, exec (.plkRetrain n) s = .next t ∧ t.pport n = s.pport n ∧ (∀ k, k ≠ n → t.pport k = s.pport k) ∧
      t = { s with plk := t.plk }) ∧ ∀ us, exec (.peerPortRetrain n us) s = .next s) ∧
    (∀ en, en ≠ (s.pport n).enable → ∃ t, exec (.plkEnable n en) s = .next t ∧
      t.pport n = { s.pport n with enable := en, state := if en then (if mayTrain s (9 + n) then .training else .down) else .disabled, lanes := 0,
                                   downAt := if en && mayTrain s (9 + n) then some s.time else none } ∧ t = { s with plk := t.plk }) ∧
    ((s.pport n).state ≠ .down → (s.pport n).state ≠ .disabled → ∃ t, exec (.peerPortDown n) s = .next t ∧
      t.time = Nat.max s.time ((s.pport n).downAt.getD s.time + 12000000) ∧
      t.pport n = { s.pport n with state := .down, lanes := 0, downAt := none } ∧ t.plk.downs = satAdd s.plk.downs 1 ∧
      t = { s with time := t.time, aud := t.aud, plk := t.plk, evr := t.evr }) ∧
    (∀ us, us < 10000 → (s.pport n).state ≠ .down → (s.pport n).state ≠ .disabled → mayTrain s (9 + n) = true →
      let tr := trained (plkPort n) (widthMask (plkPort n) (portWidth s (plkPort n)) &&& ~~~ lanesOut s (plkPort n)) 0xFF
      ∃ t, exec (.peerPortRetrain n us) s = .next t ∧ t.time = Nat.max s.time ((s.pport n).downAt.getD s.time + 1200 * us) ∧ (t.pport n).state = tr.2 ∧ (t.pport n).lanes = tr.1 ∧
      t.plk.retrains = satAdd s.plk.retrains 1 ∧ t = { s with time := t.time, aud := t.aud, plk := t.plk, evr := t.evr }))

/-- Shared time (R433 to R436, 06 R187): a module made time master is locked, and its offset goes to 0 as R433 moves one (log entry 66); a follower takes its
master and distance from timing flits, sets its offset at the first announcement and then moves it by 1 in 1,024 cycles, and heeds no port that lies further from the master; the
master announces the next tick of every group across modules that has a sequence; an announced period that is not FRM_PERIOD is counted under 0x0804, and
the module's members of such groups have no tick to come; the announced tick of a group is the next one; members' levels are kept. A module made master
after its full load starts its groups across modules on the grid of shared time (06 R164). R433 lets the offset move by at most 1 in 1,024 cycles: that
it moves by exactly 1 at an announcement, and not twice in 1,024, is read by inference (log entry 42, DEDUCED). -/
def Obligations.SharedTime : Prop :=
  (∀ s : State, s.alive = true → s.plk.master = false →
    let m := { s with plk := { s.plk with master := true, locked := true, masterId := s.plk.modid, hops := 0, periodBad := false } }
    (s.frm.epoch = none ∨ s.frm.period = 0 → exec .timeMasterSet s = .next m) ∧
    (s.frm.epoch ≠ none → s.frm.period ≠ 0 → ∃ t, exec .timeMasterSet s = .next t ∧ t.plk = m.plk ∧ (∀ g, g < 16 →
        if (s.group g).en = true ∧ (s.group g).xmod = true ∧ (s.group g).hasSeq = false
        then t.group g = { s.group g with hasSeq := true, next := sharedGrid m (s.time + 2400), index := 0 } else t.group g = s.group g) ∧
      t = { s with plk := t.plk, frm := t.frm, parts := t.parts })) ∧
  (∀ (s : State) (port : Nat) (m hops : BitVec 8), s.alive = true → port < 2 → isTimeMaster s.plk = true → s.plk.locked = true →
    ∃ t, exec (.timingFlitExchange port m hops [] none) s = .next t ∧ t.plk = { s.plk.slew s.time s.time with told := announced s } ∧
    (s.plk.toffset = 0 → t.plk = { s.plk with told := announced s }) ∧ t = { s with plk := t.plk }) ∧
  (∀ (s : State) (g : Nat) (a : GroupAnn), a ∈ announced s → a.group = g → g < 16 ∧ (s.group g).xmod = true ∧ (s.group g).hasSeq = true ∧
    a.index = (s.group g).index ∧ a.level = (s.group g).plan1 ∧ a.time = (((s.group g).next : Int) + s.plk.toffset).toNat) ∧
  (∀ (s : State) (port : Nat) (m hops : BitVec 8), s.alive = true → port < 2 → isTimeMaster s.plk = false → s.plk.follows port m hops = false →
    exec (.timingFlitExchange port m hops [] none) s = .next s ∧
    ∀ shared period l, exec (.timeAnnouncement port m hops shared period l) s = .next s) ∧
  (∀ (s : State) (port : Nat) (m hops : BitVec 8), s.alive = true → port < 2 → isTimeMaster s.plk = false →
    s.plk.follows port m hops = true →
    (m ≠ s.plk.modid → exec (.timingFlitExchange port m hops [] none) s = .next { s with plk :=
      { s.plk with masterId := m, hops := hops, srcport := decide (port = 1) } }) ∧
    (∀ shared : Nat, ∃ t, exec (.timeAnnouncement port m hops shared s.frm.period []) s = .next t ∧ t.plk.masterId = m ∧ t.plk.hops = hops ∧
      t.plk.locked = true ∧ t.plk.periodBad = false ∧ (s.plk.locked = false → t.plk.toffset = (shared : Int) - s.time) ∧
      (s.plk.locked = true → s.plk.lastSlew + 1024 ≤ s.time → s.plk.toffset < (shared : Int) - s.time → t.plk.toffset = s.plk.toffset + 1) ∧
      (s.plk.locked = true → s.time < s.plk.lastSlew + 1024 → t.plk.toffset = s.plk.toffset) ∧ t = { s with plk := t.plk }) ∧
    (∀ (shared : Nat) (period : BitVec 24) (l : List GroupAnn), period ≠ s.frm.period → ∃ t,
      exec (.timeAnnouncement port m hops shared period l) s = .next t ∧ t.plk.periodBad = true ∧ t.frm = s.frm ∧
      (∀ g p, g < 16 → (s.group g).xmod = true → p ∈ membersOf s g → (s.part p).verdict = none → (t.part p).next = 0) ∧
      t.evr = (s.event 0x0804 port s.frm.period.toNat).evr) ∧
    (∀ (shared : Nat) (g : GroupAnn), g.group < 16 → (s.group g.group).xmod = true → ∃ t,
      exec (.timeAnnouncement port m hops shared s.frm.period [g]) s = .next t ∧ (t.group g.group).hasSeq = true ∧
      (t.group g.group).index = g.index ∧ (t.group g.group).ann = some g.level ∧
      (t.group g.group).next = ((g.time : Int) - t.plk.toffset).toNat ∧ ∀ k, k ≠ g.group → t.group k = s.group k)) ∧
  (∀ (s : State) (m : BitVec 8) (g : Nat) (level : BitVec 4) (i : Nat), s.alive = true → isTimeMaster s.plk = true → g < 16 →
    (s.group g).xmod = true → ∃ t, exec (.throttleLevelReport m g level i) s = .next t ∧
    tget 0 (t.group g).memLvl m.toNat = 16 * i + level.toNat ∧ (∀ k, k ≠ g → t.group k = s.group k) ∧ t = { s with frm := t.frm })

/-! ## 16, 17: ledger, recorder, measurement -/

/-- RECON (16 R446): an idle DMA pool balances again and its mover goes on; a link direction's free credits become its total less what is held. The
discrepancy is counted under 0x0021. -/
def Obligations.Reconciliation : Prop :=
  ∀ (s : State) (k : BitVec 5), s.alive = true →
    (k.toNat < 5 → (∀ ch ∈ chansOf k.toNat, (s.chan ch).run = none) → ∃ t, exec (.recon 1 k) s = .next t ∧
      (tget {} t.aud.dma k.toNat).skew = 0 ∧ (tget {} t.aud.dma k.toNat).frozen = false ∧ t.aud.pool = 1 ∧ t.aud.target = k ∧
      t.evr = (s.event 0x0021 (0x100 + k.toNat) (tget {} s.aud.dma k.toNat).skew.natAbs).evr ∧ t = { s with aud := t.aud, evr := t.evr }) ∧
    (k.toNat < 16 → let x := tget {} s.aud.links k.toNat
      ∃ t, exec (.recon 5 k) s = .next t ∧
      (tget {} t.aud.links k.toNat).free = BitVec.ofNat 16 (x.total.toNat - x.occ.toNat - x.inflight.toNat) ∧
      (tget {} t.aud.links k.toNat).held = false ∧ (∀ j, j ≠ k.toNat → tget {} t.aud.links j = tget {} s.aud.links j) ∧
      t = { s with aud := t.aud, evr := t.evr })

/-- The event recorder (16 R454, R455, R457). An admitted occurrence of a key that has a slot adds 1 to COUNT and to the bin of its value, updates
MIN, MAX and LAST and keeps FIRST; one beyond the limit of its code in its interval of 1,200,000 cycles updates DROPPED, LAST and LIMITED
only; a new key takes the lowest slot that is not VALID; with none left only LOST counts. The bins are those of R455. -/
def Obligations.EventOccurrences : Prop :=
  (binOf 0 = 0 ∧ (∀ i v, 1 ≤ i → i ≤ 14 → 4 ^ (i - 1) ≤ v → v < 4 ^ i → binOf v = i) ∧ ∀ v, 268435456 ≤ v → binOf v = 15) ∧
  (∀ slots : Tbl EvSlot, (∀ k, freeSlot 4080 0 slots = some k ↔
      k < 4080 ∧ (tget {} slots k).valid = false ∧ ∀ j, j < k → (tget {} slots j).valid = true) ∧
    (freeSlot 4080 0 slots = none ↔ ∀ j, j < 4080 → (tget {} slots j).valid = true)) ∧
  (∀ e : Evr, evLimit e 1 = none ∧ ∀ code, code ≠ 1 → evLimit e code = some (Nat.max 1 (tget 0x0100 e.rate (code / 256)).toNat)) ∧
  (∀ (s : State) (code source v : Nat), s.evr.restored = true → v < 2 ^ 32 →
    let e := s.evr
    let t := s.event code source v
    let now := BitVec.ofNat 64 (calNs s s.time)
    let ivl := s.time / 1200000
    let seen := fun (x : EvSlot) => if x.ivl = ivl then x.ivlCnt else 0
    let others := fun k => t = { s with evr := { e with slots := t.evr.slots } } ∧ ∀ j, j ≠ k → tget {} t.evr.slots j = tget {} e.slots j
    (∀ k, slotOfKey e.slots code source = some k → (tget {} e.slots k).valid = true →
      let x := tget {} e.slots k
      let y := tget {} t.evr.slots k
      others k ∧
      ((∀ l, evLimit e code = some l → seen x < l) →
        (∀ i, tget 0 y.bins i = if i = binOf v then satAdd (tget 0 x.bins i) 1 else tget 0 x.bins i) ∧
        y = { x with count := satAdd x.count 1, vmin := BitVec.ofNat 32 (Nat.min v x.vmin.toNat), vmax := BitVec.ofNat 32 (Nat.max v x.vmax.toNat),
                     last := now, bins := y.bins, ivl := ivl, ivlCnt := seen x + 1 }) ∧
      ((∃ l, evLimit e code = some l ∧ l ≤ seen x) →
        y = { x with dropped := satAdd x.dropped 1, last := now, limited := true, ivl := ivl, ivlCnt := seen x })) ∧
    (slotOfKey e.slots code source = none →
      (∀ k, freeSlot 4080 0 e.slots = some k → others k ∧
        let y := tget {} t.evr.slots k
        y.valid = true ∧ y.code = BitVec.ofNat 16 code ∧ y.source = BitVec.ofNat 16 source ∧ y.count = 1 ∧ y.vmin = BitVec.ofNat 32 v ∧
        y.vmax = BitVec.ofNat 32 v ∧ y.first = now ∧ y.last = now ∧ y.dropped = 0 ∧ y.limited = false ∧ y.calset = s.frm.calSet ∧
        ∀ i, tget 0 y.bins i = if i = binOf v then 1 else 0) ∧
      (freeSlot 4080 0 e.slots = none → t = { s with evr := { e with lost := satAdd e.lost 1 } })))

/-- A dump of the recorder (16 R498): DUMP starts it where the area lies in the stacked tier; when it is done every slot's 128 bytes stand there and
nothing else of memory has changed. Snapshots go to module flash with the next SEQ, every 600 s and on SNAP (R460); where SEQ lies in flash is log entry
9, and the copy written when none is in force log entry 59, both the model's choices.

A clear token (16 R461, R462): one that is not well formed ends BOUND, one whose signature does not verify under its anchor SIGNATURE, and neither
changes a slot (code 0x0004); one that is accepted empties the general slots of its scope, raises CLEARS and draws new nonces. What SM2 says of the
token's SIG and CHAIN bytes is the command's operand (log entry 10, DESIGN CHOICE). -/
def Obligations.DumpsSnapshotsClears : Prop :=
  ((∀ s : State, s.alive = true → s.evr.dbusy = false →
     (s.evr.dumpAddr.toNat + 0x80000 ≤ hbmEnd → exec .dump s = .next { s with evr := { s.evr with dbusy := true, dumpNext := s.evr.dumpAddr.toNat } }) ∧
     (hbmEnd < s.evr.dumpAddr.toNat + 0x80000 → ∃ t, exec .dump s = .next t ∧ t.evr.dbusy = false ∧ t.evr.dstatus = .bound ∧
       t = { s with evr := t.evr })) ∧
   (∀ s : State, s.alive = true → s.evr.dbusy = true → dumpable s s.evr.dumpNext = 4096 → s.evr.slots.Pairwise (fun x y => x.1 < y.1) →
     (∀ e ∈ s.evr.slots, e.1 < 4096) → ∃ t, exec .dumpDone s = .next t ∧ t.evr = { s.evr with dbusy := false, dstatus := .ok } ∧
     (∀ e ∈ s.evr.slots, t.rd (s.evr.dumpNext + 128 * e.1) 128 = e.2.bytes) ∧
     (∀ i, i < 4096 → (∀ e ∈ s.evr.slots, e.1 ≠ i) → t.rd (s.evr.dumpNext + 128 * i) 128 = List.replicate 128 0) ∧
     s.MemSameBut t s.evr.dumpNext 0x80000 ∧ t = { s with mem := t.mem, evr := t.evr }) ∧
   (∀ s : State, s.alive = true → s.evr.restored = true →
     (∃ t, exec .snap s = .next t ∧ t.evr.snapSeq = s.evr.snapSeq + 1 ∧ t.evr =
       ({ s with evr := { s.evr with snapSeq := s.evr.snapSeq + 1, snapCopy := some (otherCopy s.evr.snapCopy) } }.event 0x0005 0
       ((s.evr.snapSeq + 1) % 2 ^ 32)).evr ∧ rdBytes t.flash (snapBase (otherCopy s.evr.snapCopy) + 8) 8 = leBytes 8 (s.evr.snapSeq + 1) ∧
       t = { s with flash := t.flash, evr := t.evr, draw := t.draw }) ∧
     (∃ t, exec .periodicSnapshot s = .next t ∧ t.time = (s.time / 720000000000 + 1) * 720000000000 ∧ t.evr.snapSeq = s.evr.snapSeq + 1 ∧
       t = { s with time := t.time, aud := t.aud, flash := t.flash, evr := t.evr, draw := t.draw }))) ∧
  (∀ (s : State) (x : Seal), s.fwRuns = true →
     let tok := s.rd s.evr.token.toNat 64
     let sec := s.section_ (s.evr.token.toNat + 0x40)
     let verifies := sealCovers x tok sec = true ∧ sealAnchored x s.cfg.keys (byteAt sec 1) sec = true
     let refused := fun (st : Status) => exec (.clear x) s =
       .next ({ s with evr := { s.evr with clearReq := false, cstatus := st } }.event 0x0004 0 st.code)
     (¬ (signedAt s s.evr.token.toNat 64 = true ∧ tokenBoundOk s tok = true) → refused .bound) ∧
     (signedAt s s.evr.token.toNat 64 = true → tokenBoundOk s tok = true → ¬ (verifies ∧ s.pwr.idok = true ∧ (tok.drop 0x10).take 32 = moduleDigest s) →
       refused .signature) ∧
     (signedAt s s.evr.token.toNat 64 = true → tokenBoundOk s tok = true → verifies → s.pwr.idok = true → (tok.drop 0x10).take 32 = moduleDigest s →
       s.pwr.log.length < 1024 → ∃ t,
       exec (.clear x) s = .next t ∧ t.evr.cstatus = .ok ∧ t.evr.clears = s.evr.clears + 1 ∧ t.evr.nonce0 = Config.nonce s.draw ∧
       t.evr.nonce1 = Config.nonce (s.draw + 1) ∧
       (∀ i, i < 4080 → (tget {} t.evr.slots i).valid = true → inScope tok (tget {} t.evr.slots i) = false) ∧
       t.mem = s.mem ∧ t.pwr.logTotal = s.pwr.logTotal + 1 ∧ t = { s with evr := t.evr, flash := t.flash, pwr := t.pwr, draw := t.draw }))

/-- Firmware updates (17 R488): FWUPD ends BOUND for an image that is not well formed or whose SEQ is not higher, SIGNATURE for one that does
not verify under the Grekosa root (what SM2 says of its SIG and CHAIN bytes is the command's operand: log entry 10, DESIGN CHOICE), and writes any other into the
copy that is not running, which goes on running; that write is measured and recorded under code 0x0034. -/
def Obligations.FirmwareUpdates : Prop :=
  ∀ s : State, s.alive = true → s.MemOk →
    let a := s.pwr.fwsrc.toNat
    let h := s.rd a 64
    let len := bytesN h 0x10 8
    let sig := bytesN h 0x20 8
    let seq := bytesN h 8 8
    let g := s.rd (a + sig) 8
    let good := a + 64 ≤ hbmEnd ∧ h.take 4 = [0x51, 0x46, 0x46, 0x57] ∧ bytesN h 4 2 = 0x0100 ∧ bytesN h 6 2 = 0 ∧ isZero (h.drop 0x28) = true ∧
      len ≤ 0x1000000 ∧ a + len ≤ hbmEnd ∧ sig % 64 = 0 ∧ a + sig + 8 ≤ hbmEnd ∧ sectionOk g = true ∧ a + sig + sectionLen g ≤ hbmEnd ∧
      sig + sectionLen g ≤ len ∧ s.pwr.fwSeq.toNat < seq
    let verifies := fun (x : Seal) => x.body.digest = digestOf (s.rd a sig) ∧ x.body.sig = BitVec.ofNat 512 (beNat (s.rd (a + sig + 8) 64)) ∧
      x.path.chain = digestOf (s.rd (a + sig + 0x48) (bytesN g 4 4)) ∧ x.path.signer = .root ∧ byteAt g 1 = 0
    (∀ x, ¬ good → exec (.fwupd x) s = .next { s with pwr := { s.pwr with fwReq := false, fwstatus := .bound } }) ∧
    (∀ x, good → ¬ verifies x → exec (.fwupd x) s = .next { s with pwr := { s.pwr with fwReq := false, fwstatus := .signature } }) ∧
    (∀ x, good → verifies x → ∃ t, exec (.fwupd x) s = .next t ∧ t.pwr.fwstatus = .ok ∧ t.pwr.logTotal = s.pwr.logTotal + 1 ∧
      (∀ i, i < len → tget 0 t.flash (fwBase (!s.pwr.bootcopy) + i) = s.byte (a + i)) ∧
      (∀ x, x < fwBase (!s.pwr.bootcopy) ∨ fwBase (!s.pwr.bootcopy) + 0x1000000 ≤ x → tget 0 t.flash x = tget 0 s.flash x) ∧
      t.pwr.bootcopy = s.pwr.bootcopy ∧ t.pwr.fwSeq = s.pwr.fwSeq ∧
      (s.pwr.log.length < 1024 → t.evr = (s.event 0x0034 (b2n (!s.pwr.bootcopy)) (seq % 2 ^ 32)).evr ∧
        ∃ e, t.pwr.log = s.pwr.log ++ [e] ∧ e.kind = 5 ∧ e.result = .ok) ∧
      t = { s with pwr := t.pwr, flash := t.flash, evr := t.evr })

/-- Quotes (17 R491, R492): QUOTE sets QBUSY; a request that is in order is answered at RESP with the module's digest, the caller's nonce and the log's
digest, under code 0x0032; any other ends BOUND, and with IDOK 0 all of them SIGNATURE (R489), and these write nothing. -/
def Obligations.Quotes : Prop :=
  (∀ s : State, s.alive = true → exec .quote s = .next { s with pwr := { s.pwr with qbusy := true } }) ∧
  (∀ s : State, s.alive = true → s.pwr.qbusy = true →
    let a := s.pwr.attreq.toNat
    let r := s.rd a 64
    let flags := bytesN r 4 2
    let resp := bytesN r 8 8
    let stored := if bitAt flags 0 then s.pwr.log.length else 0
    let clen := if bitAt flags 1 then chainLen s else 0
    let total := 0xD0 + 64 * stored + clen
    (a + 64 ≤ hbmEnd → r.take 4 = [0x51, 0x46, 0x41, 0x51] → flags < 4 → bytesN r 6 2 = 0 → isZero (r.drop 0x38) = true → resp % 64 = 0 →
      resp + total ≤ hbmEnd → total ≤ bytesN r 0x10 8 → s.pwr.idok = true → ∃ t, exec .quoteDone s = .next t ∧ t.pwr.qbusy = false ∧
      t.pwr.qstatus = .ok ∧ t.rd resp 4 = [0x51, 0x46, 0x41, 0x52] ∧ t.rd (resp + 8) 32 = moduleDigest s ∧
      t.rd (resp + 0x28) 32 = (r.drop 0x18).take 32 ∧ t.rd (resp + 0x48) 32 = (leBytes 32 s.pwr.logDigest.toNat).reverse ∧
      s.MemSameBut t resp total ∧ t.evr = (s.event 0x0032 0 stored).evr ∧
      t = { s with mem := t.mem, pwr := t.pwr, evr := t.evr, draw := t.draw }) ∧
    (s.pwr.idok = false → exec .quoteDone s = .next { s with pwr := { s.pwr with qbusy := false, qstatus := .signature } }) ∧
    (s.pwr.idok = true → hbmEnd < a + 64 ∨ r.take 4 ≠ [0x51, 0x46, 0x41, 0x51] ∨ 4 ≤ flags ∨ bytesN r 6 2 ≠ 0 ∨ isZero (r.drop 0x38) = false ∨
        resp % 64 ≠ 0 ∨ hbmEnd < resp + total ∨ bytesN r 0x10 8 < total →
      exec .quoteDone s = .next { s with pwr := { s.pwr with qbusy := false, qstatus := .bound } }))
end

