-- ==== Sys2Proof/Laws/Tables.lean ====
section
/-! SUPPORT. The laws of the sparse tables and of memory: a read after a write, and that every operation keeps the canonical
form. None of the read laws needs the form. -/
namespace Sys2Proof.Machine

/-! ## Reads -/

theorem tget_tput {α : Type} (d : α) (t : Tbl α) (k : Nat) (v : α) (j : Nat) :
    tget d (tput t k v) j = if j = k then v else tget d t j := by
  induction t with
  | nil => simp [tput, tget, eq_comm]
  | cons e t ih =>
    obtain ⟨i, a⟩ := e
    simp only [tput]
    by_cases h1 : k < i
    · simp only [h1, if_true, tget]
      by_cases h : j = k
      · simp [h]
      · simp [h, Ne.symm h]
    · by_cases h2 : k = i
      · subst h2
        rw [if_neg h1, if_pos rfl]
        by_cases h : k = j
        · simp [tget, h]
        · simp [tget, h, Ne.symm h]
      · simp only [h1, h2, if_false, tget, ih]
        by_cases h : i = j
        · subst h; simp [Ne.symm h2]
        · simp [h]

theorem tget_tdel {α : Type} (d : α) (t : Tbl α) (k j : Nat) : tget d (tdel t k) j = if j = k then d else tget d t j := by
  induction t with
  | nil => simp [tdel, tget]
  | cons e t ih =>
    obtain ⟨i, a⟩ := e
    unfold tdel at ih ⊢
    by_cases h : i = k
    · simp only [List.filter_cons, h, ne_eq, not_true_eq_false, decide_false, Bool.false_eq_true, if_false, ih, tget]
      by_cases hj : j = k
      · simp [hj]
      · simp [hj, Ne.symm hj]
    · simp only [List.filter_cons, h, ne_eq, not_false_eq_true, decide_true, if_true, tget]
      by_cases hj : i = j
      · subst hj; simp [h]
      · rw [if_neg hj, if_neg hj]; exact ih

/-- What a table holds after a write. -/
theorem tget_tset {α : Type} [DecidableEq α] (d : α) (t : Tbl α) (k : Nat) (v : α) (j : Nat) :
    tget d (tset d t k v) j = if j = k then v else tget d t j := by
  unfold tset
  split
  · next h => rw [tget_tdel, h]
  · exact tget_tput d t k v j

@[simp] theorem tget_tset_self {α : Type} [DecidableEq α] (d : α) (t : Tbl α) (k : Nat) (v : α) :
    tget d (tset d t k v) k = v := by simp [tget_tset]

@[simp] theorem tget_tmod_self {α : Type} [DecidableEq α] (d : α) (t : Tbl α) (k : Nat) (f : α → α) :
    tget d (tmod d t k f) k = f (tget d t k) := by simp [tmod]

/-- What a table holds after a change of one entry. -/
theorem tget_tmod {α : Type} [DecidableEq α] (d : α) (t : Tbl α) (k : Nat) (f : α → α) (j : Nat) :
    tget d (tmod d t k f) j = if j = k then f (tget d t k) else tget d t j := tget_tset d t k _ j

theorem tget_tclear {α : Type} (d : α) (t : Tbl α) (lo len j : Nat) :
    tget d (tclear t lo len) j = if lo ≤ j ∧ j < lo + len then d else tget d t j := by
  induction t with
  | nil => simp [tclear, tget]
  | cons e t ih =>
    obtain ⟨i, a⟩ := e
    unfold tclear at ih ⊢
    by_cases h : i < lo ∨ lo + len ≤ i
    · have hb : (decide (i < lo) || decide (lo + len ≤ i)) = true := by simpa using h
      simp only [List.filter_cons, hb, if_true, tget, ih]
      by_cases hj : i = j
      · subst hj
        have : ¬ (lo ≤ i ∧ i < lo + len) := by omega
        simp [this]
      · simp [hj]
    · have hb : (decide (i < lo) || decide (lo + len ≤ i)) = false := by simpa using h
      simp only [List.filter_cons, hb, Bool.false_eq_true, if_false, ih, tget]
      by_cases hj : i = j
      · subst hj
        have : lo ≤ i ∧ i < lo + len := by omega
        simp [this]
      · simp [hj]

/-! ## The canonical form -/

theorem tsorted_mono {α : Type} {lo hi : Nat} {t : Tbl α} (h : lo ≤ hi) (ht : tsorted hi t = true) : tsorted lo t = true := by
  cases t with
  | nil => rfl
  | cons e t =>
    simp only [tsorted, Bool.and_eq_true, decide_eq_true_eq] at ht ⊢
    exact ⟨by omega, ht.2⟩

theorem tsorted_tput {α : Type} {lo : Nat} {t : Tbl α} (k : Nat) (v : α) (ht : tsorted lo t = true) (hk : lo ≤ k) :
    tsorted lo (tput t k v) = true := by
  induction t generalizing lo with
  | nil => simp [tput, tsorted, hk]
  | cons e t ih =>
    obtain ⟨i, a⟩ := e
    simp only [tsorted, Bool.and_eq_true, decide_eq_true_eq] at ht
    simp only [tput]
    by_cases h1 : k < i
    · simp only [h1, if_true, tsorted, Bool.and_eq_true, decide_eq_true_eq]
      exact ⟨hk, by omega, ht.2⟩
    · by_cases h2 : k = i
      · subst h2
        simp only [h1, if_false, if_true, tsorted, Bool.and_eq_true, decide_eq_true_eq]
        exact ⟨hk, ht.2⟩
      · simp only [h1, h2, if_false, tsorted, Bool.and_eq_true, decide_eq_true_eq]
        exact ⟨ht.1, ih ht.2 (by omega)⟩

theorem tsorted_filter {α : Type} {lo : Nat} {t : Tbl α} (p : Nat × α → Bool) (ht : tsorted lo t = true) :
    tsorted lo (t.filter p) = true := by
  induction t generalizing lo with
  | nil => rfl
  | cons e t ih =>
    obtain ⟨i, a⟩ := e
    simp only [tsorted, Bool.and_eq_true, decide_eq_true_eq] at ht
    rw [List.filter_cons]
    split
    · simp only [tsorted, Bool.and_eq_true, decide_eq_true_eq]
      exact ⟨ht.1, ih ht.2⟩
    · exact tsorted_mono (by omega) (ih ht.2)

theorem mem_tput {α : Type} {t : Tbl α} {k : Nat} {v : α} {e : Nat × α} (h : e ∈ tput t k v) : e = (k, v) ∨ e ∈ t := by
  induction t with
  | nil => simpa [tput] using h
  | cons x t ih =>
    obtain ⟨i, a⟩ := x
    simp only [tput] at h
    split at h
    · rcases List.mem_cons.mp h with h | h
      · exact .inl h
      · exact .inr h
    · split at h
      · rcases List.mem_cons.mp h with h | h
        · exact .inl h
        · exact .inr (List.mem_cons_of_mem _ h)
      · rcases List.mem_cons.mp h with h | h
        · exact .inr (h ▸ List.mem_cons_self)
        · rcases ih h with h | h
          · exact .inl h
          · exact .inr (List.mem_cons_of_mem _ h)

theorem twf_iff {α : Type} [DecidableEq α] (d : α) (t : Tbl α) :
    twf d t = true ↔ tsorted 0 t = true ∧ ∀ e ∈ t, e.2 ≠ d := by
  simp [twf]

theorem twf_nil {α : Type} [DecidableEq α] (d : α) : twf d ([] : Tbl α) = true := rfl

theorem twf_tput {α : Type} [DecidableEq α] {d : α} {t : Tbl α} (k : Nat) {v : α} (ht : twf d t = true) (hv : v ≠ d) :
    twf d (tput t k v) = true := by
  rw [twf_iff] at ht ⊢
  refine ⟨tsorted_tput k v ht.1 (Nat.zero_le k), fun e he => ?_⟩
  rcases mem_tput he with rfl | he
  · exact hv
  · exact ht.2 e he

theorem twf_filter {α : Type} [DecidableEq α] {d : α} {t : Tbl α} (p : Nat × α → Bool) (ht : twf d t = true) :
    twf d (t.filter p) = true := by
  rw [twf_iff] at ht ⊢
  exact ⟨tsorted_filter p ht.1, fun e he => ht.2 e (List.mem_filter.mp he).1⟩

theorem twf_tclear {α : Type} [DecidableEq α] {d : α} {t : Tbl α} (lo len : Nat) (ht : twf d t = true) :
    twf d (tclear t lo len) = true := twf_filter _ ht

theorem twf_tset {α : Type} [DecidableEq α] {d : α} {t : Tbl α} (k : Nat) (v : α) (ht : twf d t = true) :
    twf d (tset d t k v) = true := by
  unfold tset
  split
  · exact twf_filter _ ht
  · next h => exact twf_tput k ht h

theorem twf_tmod {α : Type} [DecidableEq α] {d : α} {t : Tbl α} (k : Nat) (f : α → α) (ht : twf d t = true) :
    twf d (tmod d t k f) = true := twf_tset k _ ht

theorem twf_tputAll {α : Type} [DecidableEq α] {d : α} {t : Tbl α} {l : List (Nat × α)} (ht : twf d t = true)
    (hl : ∀ e ∈ l, e.2 ≠ d) : twf d (tputAll t l) = true := by
  induction l generalizing t with
  | nil => exact ht
  | cons e l ih =>
    exact ih (twf_tput e.1 ht (hl e List.mem_cons_self)) (fun x hx => hl x (List.mem_cons_of_mem _ hx))

/-- What a slice holds was in the table. -/
theorem tslice_ne {α : Type} [DecidableEq α] {d : α} {t : Tbl α} (ht : twf d t = true) (lo len dst : Nat) :
    ∀ e ∈ tslice t lo len dst, e.2 ≠ d := by
  intro e he
  obtain ⟨x, hx, rfl⟩ := List.mem_map.mp he
  exact ((twf_iff d t).mp ht).2 x (List.mem_filter.mp hx).1

theorem twf_tcopy {α : Type} [DecidableEq α] {d : α} {t : Tbl α} (src dst len : Nat) (ht : twf d t = true) :
    twf d (tcopy t src dst len) = true := twf_tputAll (twf_tclear dst len ht) (tslice_ne ht src len dst)

/-! ## Bytes -/

theorem twf_wrBytes {m : Mem} (a : Nat) (l : List Byte) (hm : twf 0 m = true) : twf 0 (wrBytes m a l) = true := by
  induction l generalizing m a with
  | nil => exact hm
  | cons b bs ih => exact ih (a + 1) (twf_tset a b hm)

/-- One byte after a store. -/
theorem tget_wrBytes (m : Mem) (a : Nat) (l : List Byte) (j : Nat) :
    tget 0 (wrBytes m a l) j = if a ≤ j ∧ j < a + l.length then l.getD (j - a) 0 else tget 0 m j := by
  induction l generalizing m a with
  | nil =>
    have : ¬ (a ≤ j ∧ j < a) := by omega
    simp [wrBytes, this]
  | cons b bs ih =>
    rw [wrBytes, ih, tget_tset]
    simp only [List.length_cons]
    by_cases h1 : j = a
    · subst h1
      rw [if_neg (show ¬ (j + 1 ≤ j ∧ j < j + 1 + bs.length) by omega)]
      simp
    · by_cases h2 : a + 1 ≤ j ∧ j < a + 1 + bs.length
      · have h3 : a ≤ j ∧ j < a + (bs.length + 1) := by omega
        obtain ⟨k, hk⟩ : ∃ k, j - a = k + 1 := ⟨j - a - 1, by omega⟩
        have h4 : j - (a + 1) = k := by omega
        simp [h2, h3, hk, h4]
      · have h3 : ¬ (a ≤ j ∧ j < a + (bs.length + 1)) := by omega
        simp only [h2, h3, if_false, h1]

/-- A byte outside the stored ones is unchanged. -/
theorem tget_wrBytes_other {m : Mem} {a j : Nat} {l : List Byte} (h : j < a ∨ a + l.length ≤ j) :
    tget 0 (wrBytes m a l) j = tget 0 m j := by
  rw [tget_wrBytes]
  have : ¬ (a ≤ j ∧ j < a + l.length) := by omega
  simp [this]

theorem length_rdBytes (m : Mem) (a n : Nat) : (rdBytes m a n).length = n := by
  induction n generalizing a with
  | zero => rfl
  | succ n ih => simp [rdBytes, ih]

theorem getD_rdBytes {m : Mem} {a n i : Nat} (h : i < n) : (rdBytes m a n).getD i 0 = tget 0 m (a + i) := by
  induction n generalizing a i with
  | zero => omega
  | succ n ih =>
    cases i with
    | zero => simp [rdBytes]
    | succ i =>
      have := ih (a := a + 1) (i := i) (by omega)
      simpa [rdBytes, Nat.add_assoc, Nat.add_comm 1 i] using this

/-- A read after a write to the same place gives the bytes written. -/
theorem rdBytes_wrBytes (m : Mem) (a : Nat) (l : List Byte) : rdBytes (wrBytes m a l) a l.length = l := by
  apply List.ext_getElem
  · exact length_rdBytes _ _ _
  · intro i h1 h2
    have h := getD_rdBytes (m := wrBytes m a l) (a := a) (n := l.length) h2
    rw [tget_wrBytes] at h
    have h3 : a ≤ a + i ∧ a + i < a + l.length := by omega
    simp only [h3, and_self, if_true, Nat.add_sub_cancel_left] at h
    simpa [List.getD, List.getElem?_eq_getElem h1, List.getElem?_eq_getElem h2] using h

/-- A write leaves every other place alone. -/
theorem rdBytes_wrBytes_other {m : Mem} {a b n : Nat} {l : List Byte} (h : b + n ≤ a ∨ a + l.length ≤ b) :
    rdBytes (wrBytes m a l) b n = rdBytes m b n := by
  induction n generalizing b with
  | zero => rfl
  | succ n ih =>
    simp only [rdBytes]
    rw [ih (by omega), tget_wrBytes_other (by omega)]

end Sys2Proof.Machine
end

