-- ==== Sys2Proof/Laws/State.lean ====
section
/-! SUPPORT. What each named update of the state changes and what it leaves alone, one lemma for each field. -/
namespace Sys2Proof.Machine

/-! ## Plain updates -/

/-! ### modPart -/

@[simp] theorem State.modPart_time (s : State) (k : Nat) (f : Part → Part) : (s.modPart k f).time = s.time := rfl
@[simp] theorem State.modPart_draw (s : State) (k : Nat) (f : Part → Part) : (s.modPart k f).draw = s.draw := rfl
@[simp] theorem State.modPart_bus (s : State) (k : Nat) (f : Part → Part) : (s.modPart k f).bus = s.bus := rfl
@[simp] theorem State.modPart_badLine (s : State) (k : Nat) (f : Part → Part) : (s.modPart k f).badLine = s.badLine := rfl
@[simp] theorem State.modPart_mem (s : State) (k : Nat) (f : Part → Part) : (s.modPart k f).mem = s.mem := rfl
@[simp] theorem State.modPart_flash (s : State) (k : Nat) (f : Part → Part) : (s.modPart k f).flash = s.flash := rfl
@[simp] theorem State.modPart_mgt (s : State) (k : Nat) (f : Part → Part) : (s.modPart k f).mgt = s.mgt := rfl
@[simp] theorem State.modPart_frm (s : State) (k : Nat) (f : Part → Part) : (s.modPart k f).frm = s.frm := rfl
@[simp] theorem State.modPart_cfg (s : State) (k : Nat) (f : Part → Part) : (s.modPart k f).cfg = s.cfg := rfl
@[simp] theorem State.modPart_stm (s : State) (k : Nat) (f : Part → Part) : (s.modPart k f).stm = s.stm := rfl
@[simp] theorem State.modPart_mig (s : State) (k : Nat) (f : Part → Part) : (s.modPart k f).mig = s.mig := rfl
@[simp] theorem State.modPart_sAlloc (s : State) (k : Nat) (f : Part → Part) : (s.modPart k f).sAlloc = s.sAlloc := rfl
@[simp] theorem State.modPart_bAlloc (s : State) (k : Nat) (f : Part → Part) : (s.modPart k f).bAlloc = s.bAlloc := rfl
@[simp] theorem State.modPart_bmp (s : State) (k : Nat) (f : Part → Part) : (s.modPart k f).bmp = s.bmp := rfl
@[simp] theorem State.modPart_hlk (s : State) (k : Nat) (f : Part → Part) : (s.modPart k f).hlk = s.hlk := rfl
@[simp] theorem State.modPart_dma (s : State) (k : Nat) (f : Part → Part) : (s.modPart k f).dma = s.dma := rfl
@[simp] theorem State.modPart_chans (s : State) (k : Nat) (f : Part → Part) : (s.modPart k f).chans = s.chans := rfl
@[simp] theorem State.modPart_upd (s : State) (k : Nat) (f : Part → Part) : (s.modPart k f).upd = s.upd := rfl
@[simp] theorem State.modPart_ing (s : State) (k : Nat) (f : Part → Part) : (s.modPart k f).ing = s.ing := rfl
@[simp] theorem State.modPart_plk (s : State) (k : Nat) (f : Part → Part) : (s.modPart k f).plk = s.plk := rfl
@[simp] theorem State.modPart_aud (s : State) (k : Nat) (f : Part → Part) : (s.modPart k f).aud = s.aud := rfl
@[simp] theorem State.modPart_evr (s : State) (k : Nat) (f : Part → Part) : (s.modPart k f).evr = s.evr := rfl
@[simp] theorem State.modPart_pwr (s : State) (k : Nat) (f : Part → Part) : (s.modPart k f).pwr = s.pwr := rfl
@[simp] theorem State.modPart_parts (s : State) (k : Nat) (f : Part → Part) : (s.modPart k f).parts = tmod {} s.parts k f := rfl
@[simp] theorem State.modPart_clusters (s : State) (k : Nat) (f : Part → Part) : (s.modPart k f).clusters = s.clusters := rfl
@[simp] theorem State.modPart_cores (s : State) (k : Nat) (f : Part → Part) : (s.modPart k f).cores = s.cores := rfl
@[simp] theorem State.modPart_pending (s : State) (k : Nat) (f : Part → Part) : (s.modPart k f).pending = s.pending := rfl

/-! ### modCluster -/

@[simp] theorem State.modCluster_time (s : State) (k : Nat) (f : Cluster → Cluster) : (s.modCluster k f).time = s.time := rfl
@[simp] theorem State.modCluster_draw (s : State) (k : Nat) (f : Cluster → Cluster) : (s.modCluster k f).draw = s.draw := rfl
@[simp] theorem State.modCluster_bus (s : State) (k : Nat) (f : Cluster → Cluster) : (s.modCluster k f).bus = s.bus := rfl
@[simp] theorem State.modCluster_badLine (s : State) (k : Nat) (f : Cluster → Cluster) : (s.modCluster k f).badLine = s.badLine := rfl
@[simp] theorem State.modCluster_mem (s : State) (k : Nat) (f : Cluster → Cluster) : (s.modCluster k f).mem = s.mem := rfl
@[simp] theorem State.modCluster_flash (s : State) (k : Nat) (f : Cluster → Cluster) : (s.modCluster k f).flash = s.flash := rfl
@[simp] theorem State.modCluster_mgt (s : State) (k : Nat) (f : Cluster → Cluster) : (s.modCluster k f).mgt = s.mgt := rfl
@[simp] theorem State.modCluster_frm (s : State) (k : Nat) (f : Cluster → Cluster) : (s.modCluster k f).frm = s.frm := rfl
@[simp] theorem State.modCluster_cfg (s : State) (k : Nat) (f : Cluster → Cluster) : (s.modCluster k f).cfg = s.cfg := rfl
@[simp] theorem State.modCluster_stm (s : State) (k : Nat) (f : Cluster → Cluster) : (s.modCluster k f).stm = s.stm := rfl
@[simp] theorem State.modCluster_mig (s : State) (k : Nat) (f : Cluster → Cluster) : (s.modCluster k f).mig = s.mig := rfl
@[simp] theorem State.modCluster_sAlloc (s : State) (k : Nat) (f : Cluster → Cluster) : (s.modCluster k f).sAlloc = s.sAlloc := rfl
@[simp] theorem State.modCluster_bAlloc (s : State) (k : Nat) (f : Cluster → Cluster) : (s.modCluster k f).bAlloc = s.bAlloc := rfl
@[simp] theorem State.modCluster_bmp (s : State) (k : Nat) (f : Cluster → Cluster) : (s.modCluster k f).bmp = s.bmp := rfl
@[simp] theorem State.modCluster_hlk (s : State) (k : Nat) (f : Cluster → Cluster) : (s.modCluster k f).hlk = s.hlk := rfl
@[simp] theorem State.modCluster_dma (s : State) (k : Nat) (f : Cluster → Cluster) : (s.modCluster k f).dma = s.dma := rfl
@[simp] theorem State.modCluster_chans (s : State) (k : Nat) (f : Cluster → Cluster) : (s.modCluster k f).chans = s.chans := rfl
@[simp] theorem State.modCluster_upd (s : State) (k : Nat) (f : Cluster → Cluster) : (s.modCluster k f).upd = s.upd := rfl
@[simp] theorem State.modCluster_ing (s : State) (k : Nat) (f : Cluster → Cluster) : (s.modCluster k f).ing = s.ing := rfl
@[simp] theorem State.modCluster_plk (s : State) (k : Nat) (f : Cluster → Cluster) : (s.modCluster k f).plk = s.plk := rfl
@[simp] theorem State.modCluster_aud (s : State) (k : Nat) (f : Cluster → Cluster) : (s.modCluster k f).aud = s.aud := rfl
@[simp] theorem State.modCluster_evr (s : State) (k : Nat) (f : Cluster → Cluster) : (s.modCluster k f).evr = s.evr := rfl
@[simp] theorem State.modCluster_pwr (s : State) (k : Nat) (f : Cluster → Cluster) : (s.modCluster k f).pwr = s.pwr := rfl
@[simp] theorem State.modCluster_parts (s : State) (k : Nat) (f : Cluster → Cluster) : (s.modCluster k f).parts = s.parts := rfl
@[simp] theorem State.modCluster_clusters (s : State) (k : Nat) (f : Cluster → Cluster) : (s.modCluster k f).clusters = tmod {} s.clusters k f := rfl
@[simp] theorem State.modCluster_cores (s : State) (k : Nat) (f : Cluster → Cluster) : (s.modCluster k f).cores = s.cores := rfl
@[simp] theorem State.modCluster_pending (s : State) (k : Nat) (f : Cluster → Cluster) : (s.modCluster k f).pending = s.pending := rfl

/-! ### modCore -/

@[simp] theorem State.modCore_time (s : State) (k : Nat) (f : Core → Core) : (s.modCore k f).time = s.time := rfl
@[simp] theorem State.modCore_draw (s : State) (k : Nat) (f : Core → Core) : (s.modCore k f).draw = s.draw := rfl
@[simp] theorem State.modCore_bus (s : State) (k : Nat) (f : Core → Core) : (s.modCore k f).bus = s.bus := rfl
@[simp] theorem State.modCore_badLine (s : State) (k : Nat) (f : Core → Core) : (s.modCore k f).badLine = s.badLine := rfl
@[simp] theorem State.modCore_mem (s : State) (k : Nat) (f : Core → Core) : (s.modCore k f).mem = s.mem := rfl
@[simp] theorem State.modCore_flash (s : State) (k : Nat) (f : Core → Core) : (s.modCore k f).flash = s.flash := rfl
@[simp] theorem State.modCore_mgt (s : State) (k : Nat) (f : Core → Core) : (s.modCore k f).mgt = s.mgt := rfl
@[simp] theorem State.modCore_frm (s : State) (k : Nat) (f : Core → Core) : (s.modCore k f).frm = s.frm := rfl
@[simp] theorem State.modCore_cfg (s : State) (k : Nat) (f : Core → Core) : (s.modCore k f).cfg = s.cfg := rfl
@[simp] theorem State.modCore_stm (s : State) (k : Nat) (f : Core → Core) : (s.modCore k f).stm = s.stm := rfl
@[simp] theorem State.modCore_mig (s : State) (k : Nat) (f : Core → Core) : (s.modCore k f).mig = s.mig := rfl
@[simp] theorem State.modCore_sAlloc (s : State) (k : Nat) (f : Core → Core) : (s.modCore k f).sAlloc = s.sAlloc := rfl
@[simp] theorem State.modCore_bAlloc (s : State) (k : Nat) (f : Core → Core) : (s.modCore k f).bAlloc = s.bAlloc := rfl
@[simp] theorem State.modCore_bmp (s : State) (k : Nat) (f : Core → Core) : (s.modCore k f).bmp = s.bmp := rfl
@[simp] theorem State.modCore_hlk (s : State) (k : Nat) (f : Core → Core) : (s.modCore k f).hlk = s.hlk := rfl
@[simp] theorem State.modCore_dma (s : State) (k : Nat) (f : Core → Core) : (s.modCore k f).dma = s.dma := rfl
@[simp] theorem State.modCore_chans (s : State) (k : Nat) (f : Core → Core) : (s.modCore k f).chans = s.chans := rfl
@[simp] theorem State.modCore_upd (s : State) (k : Nat) (f : Core → Core) : (s.modCore k f).upd = s.upd := rfl
@[simp] theorem State.modCore_ing (s : State) (k : Nat) (f : Core → Core) : (s.modCore k f).ing = s.ing := rfl
@[simp] theorem State.modCore_plk (s : State) (k : Nat) (f : Core → Core) : (s.modCore k f).plk = s.plk := rfl
@[simp] theorem State.modCore_aud (s : State) (k : Nat) (f : Core → Core) : (s.modCore k f).aud = s.aud := rfl
@[simp] theorem State.modCore_evr (s : State) (k : Nat) (f : Core → Core) : (s.modCore k f).evr = s.evr := rfl
@[simp] theorem State.modCore_pwr (s : State) (k : Nat) (f : Core → Core) : (s.modCore k f).pwr = s.pwr := rfl
@[simp] theorem State.modCore_parts (s : State) (k : Nat) (f : Core → Core) : (s.modCore k f).parts = s.parts := rfl
@[simp] theorem State.modCore_clusters (s : State) (k : Nat) (f : Core → Core) : (s.modCore k f).clusters = s.clusters := rfl
@[simp] theorem State.modCore_cores (s : State) (k : Nat) (f : Core → Core) : (s.modCore k f).cores = tmod {} s.cores k f := rfl
@[simp] theorem State.modCore_pending (s : State) (k : Nat) (f : Core → Core) : (s.modCore k f).pending = s.pending := rfl

/-! ### modMig -/

@[simp] theorem State.modMig_time (s : State) (k : Nat) (f : Mig → Mig) : (s.modMig k f).time = s.time := rfl
@[simp] theorem State.modMig_draw (s : State) (k : Nat) (f : Mig → Mig) : (s.modMig k f).draw = s.draw := rfl
@[simp] theorem State.modMig_bus (s : State) (k : Nat) (f : Mig → Mig) : (s.modMig k f).bus = s.bus := rfl
@[simp] theorem State.modMig_badLine (s : State) (k : Nat) (f : Mig → Mig) : (s.modMig k f).badLine = s.badLine := rfl
@[simp] theorem State.modMig_mem (s : State) (k : Nat) (f : Mig → Mig) : (s.modMig k f).mem = s.mem := rfl
@[simp] theorem State.modMig_flash (s : State) (k : Nat) (f : Mig → Mig) : (s.modMig k f).flash = s.flash := rfl
@[simp] theorem State.modMig_mgt (s : State) (k : Nat) (f : Mig → Mig) : (s.modMig k f).mgt = s.mgt := rfl
@[simp] theorem State.modMig_frm (s : State) (k : Nat) (f : Mig → Mig) : (s.modMig k f).frm = s.frm := rfl
@[simp] theorem State.modMig_cfg (s : State) (k : Nat) (f : Mig → Mig) : (s.modMig k f).cfg = s.cfg := rfl
@[simp] theorem State.modMig_stm (s : State) (k : Nat) (f : Mig → Mig) : (s.modMig k f).stm = s.stm := rfl
@[simp] theorem State.modMig_mig (s : State) (k : Nat) (f : Mig → Mig) : (s.modMig k f).mig = tmod {} s.mig k f := rfl
@[simp] theorem State.modMig_sAlloc (s : State) (k : Nat) (f : Mig → Mig) : (s.modMig k f).sAlloc = s.sAlloc := rfl
@[simp] theorem State.modMig_bAlloc (s : State) (k : Nat) (f : Mig → Mig) : (s.modMig k f).bAlloc = s.bAlloc := rfl
@[simp] theorem State.modMig_bmp (s : State) (k : Nat) (f : Mig → Mig) : (s.modMig k f).bmp = s.bmp := rfl
@[simp] theorem State.modMig_hlk (s : State) (k : Nat) (f : Mig → Mig) : (s.modMig k f).hlk = s.hlk := rfl
@[simp] theorem State.modMig_dma (s : State) (k : Nat) (f : Mig → Mig) : (s.modMig k f).dma = s.dma := rfl
@[simp] theorem State.modMig_chans (s : State) (k : Nat) (f : Mig → Mig) : (s.modMig k f).chans = s.chans := rfl
@[simp] theorem State.modMig_upd (s : State) (k : Nat) (f : Mig → Mig) : (s.modMig k f).upd = s.upd := rfl
@[simp] theorem State.modMig_ing (s : State) (k : Nat) (f : Mig → Mig) : (s.modMig k f).ing = s.ing := rfl
@[simp] theorem State.modMig_plk (s : State) (k : Nat) (f : Mig → Mig) : (s.modMig k f).plk = s.plk := rfl
@[simp] theorem State.modMig_aud (s : State) (k : Nat) (f : Mig → Mig) : (s.modMig k f).aud = s.aud := rfl
@[simp] theorem State.modMig_evr (s : State) (k : Nat) (f : Mig → Mig) : (s.modMig k f).evr = s.evr := rfl
@[simp] theorem State.modMig_pwr (s : State) (k : Nat) (f : Mig → Mig) : (s.modMig k f).pwr = s.pwr := rfl
@[simp] theorem State.modMig_parts (s : State) (k : Nat) (f : Mig → Mig) : (s.modMig k f).parts = s.parts := rfl
@[simp] theorem State.modMig_clusters (s : State) (k : Nat) (f : Mig → Mig) : (s.modMig k f).clusters = s.clusters := rfl
@[simp] theorem State.modMig_cores (s : State) (k : Nat) (f : Mig → Mig) : (s.modMig k f).cores = s.cores := rfl
@[simp] theorem State.modMig_pending (s : State) (k : Nat) (f : Mig → Mig) : (s.modMig k f).pending = s.pending := rfl

/-! ### modBmp -/

@[simp] theorem State.modBmp_time (s : State) (k : Nat) (f : Bmp → Bmp) : (s.modBmp k f).time = s.time := rfl
@[simp] theorem State.modBmp_draw (s : State) (k : Nat) (f : Bmp → Bmp) : (s.modBmp k f).draw = s.draw := rfl
@[simp] theorem State.modBmp_bus (s : State) (k : Nat) (f : Bmp → Bmp) : (s.modBmp k f).bus = s.bus := rfl
@[simp] theorem State.modBmp_badLine (s : State) (k : Nat) (f : Bmp → Bmp) : (s.modBmp k f).badLine = s.badLine := rfl
@[simp] theorem State.modBmp_mem (s : State) (k : Nat) (f : Bmp → Bmp) : (s.modBmp k f).mem = s.mem := rfl
@[simp] theorem State.modBmp_flash (s : State) (k : Nat) (f : Bmp → Bmp) : (s.modBmp k f).flash = s.flash := rfl
@[simp] theorem State.modBmp_mgt (s : State) (k : Nat) (f : Bmp → Bmp) : (s.modBmp k f).mgt = s.mgt := rfl
@[simp] theorem State.modBmp_frm (s : State) (k : Nat) (f : Bmp → Bmp) : (s.modBmp k f).frm = s.frm := rfl
@[simp] theorem State.modBmp_cfg (s : State) (k : Nat) (f : Bmp → Bmp) : (s.modBmp k f).cfg = s.cfg := rfl
@[simp] theorem State.modBmp_stm (s : State) (k : Nat) (f : Bmp → Bmp) : (s.modBmp k f).stm = s.stm := rfl
@[simp] theorem State.modBmp_mig (s : State) (k : Nat) (f : Bmp → Bmp) : (s.modBmp k f).mig = s.mig := rfl
@[simp] theorem State.modBmp_sAlloc (s : State) (k : Nat) (f : Bmp → Bmp) : (s.modBmp k f).sAlloc = s.sAlloc := rfl
@[simp] theorem State.modBmp_bAlloc (s : State) (k : Nat) (f : Bmp → Bmp) : (s.modBmp k f).bAlloc = s.bAlloc := rfl
@[simp] theorem State.modBmp_bmp (s : State) (k : Nat) (f : Bmp → Bmp) : (s.modBmp k f).bmp = tmod {} s.bmp k f := rfl
@[simp] theorem State.modBmp_hlk (s : State) (k : Nat) (f : Bmp → Bmp) : (s.modBmp k f).hlk = s.hlk := rfl
@[simp] theorem State.modBmp_dma (s : State) (k : Nat) (f : Bmp → Bmp) : (s.modBmp k f).dma = s.dma := rfl
@[simp] theorem State.modBmp_chans (s : State) (k : Nat) (f : Bmp → Bmp) : (s.modBmp k f).chans = s.chans := rfl
@[simp] theorem State.modBmp_upd (s : State) (k : Nat) (f : Bmp → Bmp) : (s.modBmp k f).upd = s.upd := rfl
@[simp] theorem State.modBmp_ing (s : State) (k : Nat) (f : Bmp → Bmp) : (s.modBmp k f).ing = s.ing := rfl
@[simp] theorem State.modBmp_plk (s : State) (k : Nat) (f : Bmp → Bmp) : (s.modBmp k f).plk = s.plk := rfl
@[simp] theorem State.modBmp_aud (s : State) (k : Nat) (f : Bmp → Bmp) : (s.modBmp k f).aud = s.aud := rfl
@[simp] theorem State.modBmp_evr (s : State) (k : Nat) (f : Bmp → Bmp) : (s.modBmp k f).evr = s.evr := rfl
@[simp] theorem State.modBmp_pwr (s : State) (k : Nat) (f : Bmp → Bmp) : (s.modBmp k f).pwr = s.pwr := rfl
@[simp] theorem State.modBmp_parts (s : State) (k : Nat) (f : Bmp → Bmp) : (s.modBmp k f).parts = s.parts := rfl
@[simp] theorem State.modBmp_clusters (s : State) (k : Nat) (f : Bmp → Bmp) : (s.modBmp k f).clusters = s.clusters := rfl
@[simp] theorem State.modBmp_cores (s : State) (k : Nat) (f : Bmp → Bmp) : (s.modBmp k f).cores = s.cores := rfl
@[simp] theorem State.modBmp_pending (s : State) (k : Nat) (f : Bmp → Bmp) : (s.modBmp k f).pending = s.pending := rfl

/-! ### modDma -/

@[simp] theorem State.modDma_time (s : State) (k : Nat) (f : DmaDie → DmaDie) : (s.modDma k f).time = s.time := rfl
@[simp] theorem State.modDma_draw (s : State) (k : Nat) (f : DmaDie → DmaDie) : (s.modDma k f).draw = s.draw := rfl
@[simp] theorem State.modDma_bus (s : State) (k : Nat) (f : DmaDie → DmaDie) : (s.modDma k f).bus = s.bus := rfl
@[simp] theorem State.modDma_badLine (s : State) (k : Nat) (f : DmaDie → DmaDie) : (s.modDma k f).badLine = s.badLine := rfl
@[simp] theorem State.modDma_mem (s : State) (k : Nat) (f : DmaDie → DmaDie) : (s.modDma k f).mem = s.mem := rfl
@[simp] theorem State.modDma_flash (s : State) (k : Nat) (f : DmaDie → DmaDie) : (s.modDma k f).flash = s.flash := rfl
@[simp] theorem State.modDma_mgt (s : State) (k : Nat) (f : DmaDie → DmaDie) : (s.modDma k f).mgt = s.mgt := rfl
@[simp] theorem State.modDma_frm (s : State) (k : Nat) (f : DmaDie → DmaDie) : (s.modDma k f).frm = s.frm := rfl
@[simp] theorem State.modDma_cfg (s : State) (k : Nat) (f : DmaDie → DmaDie) : (s.modDma k f).cfg = s.cfg := rfl
@[simp] theorem State.modDma_stm (s : State) (k : Nat) (f : DmaDie → DmaDie) : (s.modDma k f).stm = s.stm := rfl
@[simp] theorem State.modDma_mig (s : State) (k : Nat) (f : DmaDie → DmaDie) : (s.modDma k f).mig = s.mig := rfl
@[simp] theorem State.modDma_sAlloc (s : State) (k : Nat) (f : DmaDie → DmaDie) : (s.modDma k f).sAlloc = s.sAlloc := rfl
@[simp] theorem State.modDma_bAlloc (s : State) (k : Nat) (f : DmaDie → DmaDie) : (s.modDma k f).bAlloc = s.bAlloc := rfl
@[simp] theorem State.modDma_bmp (s : State) (k : Nat) (f : DmaDie → DmaDie) : (s.modDma k f).bmp = s.bmp := rfl
@[simp] theorem State.modDma_hlk (s : State) (k : Nat) (f : DmaDie → DmaDie) : (s.modDma k f).hlk = s.hlk := rfl
@[simp] theorem State.modDma_dma (s : State) (k : Nat) (f : DmaDie → DmaDie) : (s.modDma k f).dma = tmod {} s.dma k f := rfl
@[simp] theorem State.modDma_chans (s : State) (k : Nat) (f : DmaDie → DmaDie) : (s.modDma k f).chans = s.chans := rfl
@[simp] theorem State.modDma_upd (s : State) (k : Nat) (f : DmaDie → DmaDie) : (s.modDma k f).upd = s.upd := rfl
@[simp] theorem State.modDma_ing (s : State) (k : Nat) (f : DmaDie → DmaDie) : (s.modDma k f).ing = s.ing := rfl
@[simp] theorem State.modDma_plk (s : State) (k : Nat) (f : DmaDie → DmaDie) : (s.modDma k f).plk = s.plk := rfl
@[simp] theorem State.modDma_aud (s : State) (k : Nat) (f : DmaDie → DmaDie) : (s.modDma k f).aud = s.aud := rfl
@[simp] theorem State.modDma_evr (s : State) (k : Nat) (f : DmaDie → DmaDie) : (s.modDma k f).evr = s.evr := rfl
@[simp] theorem State.modDma_pwr (s : State) (k : Nat) (f : DmaDie → DmaDie) : (s.modDma k f).pwr = s.pwr := rfl
@[simp] theorem State.modDma_parts (s : State) (k : Nat) (f : DmaDie → DmaDie) : (s.modDma k f).parts = s.parts := rfl
@[simp] theorem State.modDma_clusters (s : State) (k : Nat) (f : DmaDie → DmaDie) : (s.modDma k f).clusters = s.clusters := rfl
@[simp] theorem State.modDma_cores (s : State) (k : Nat) (f : DmaDie → DmaDie) : (s.modDma k f).cores = s.cores := rfl
@[simp] theorem State.modDma_pending (s : State) (k : Nat) (f : DmaDie → DmaDie) : (s.modDma k f).pending = s.pending := rfl

/-! ### modChan -/

@[simp] theorem State.modChan_time (s : State) (k : Nat) (f : Chan → Chan) : (s.modChan k f).time = s.time := rfl
@[simp] theorem State.modChan_draw (s : State) (k : Nat) (f : Chan → Chan) : (s.modChan k f).draw = s.draw := rfl
@[simp] theorem State.modChan_bus (s : State) (k : Nat) (f : Chan → Chan) : (s.modChan k f).bus = s.bus := rfl
@[simp] theorem State.modChan_badLine (s : State) (k : Nat) (f : Chan → Chan) : (s.modChan k f).badLine = s.badLine := rfl
@[simp] theorem State.modChan_mem (s : State) (k : Nat) (f : Chan → Chan) : (s.modChan k f).mem = s.mem := rfl
@[simp] theorem State.modChan_flash (s : State) (k : Nat) (f : Chan → Chan) : (s.modChan k f).flash = s.flash := rfl
@[simp] theorem State.modChan_mgt (s : State) (k : Nat) (f : Chan → Chan) : (s.modChan k f).mgt = s.mgt := rfl
@[simp] theorem State.modChan_frm (s : State) (k : Nat) (f : Chan → Chan) : (s.modChan k f).frm = s.frm := rfl
@[simp] theorem State.modChan_cfg (s : State) (k : Nat) (f : Chan → Chan) : (s.modChan k f).cfg = s.cfg := rfl
@[simp] theorem State.modChan_stm (s : State) (k : Nat) (f : Chan → Chan) : (s.modChan k f).stm = s.stm := rfl
@[simp] theorem State.modChan_mig (s : State) (k : Nat) (f : Chan → Chan) : (s.modChan k f).mig = s.mig := rfl
@[simp] theorem State.modChan_sAlloc (s : State) (k : Nat) (f : Chan → Chan) : (s.modChan k f).sAlloc = s.sAlloc := rfl
@[simp] theorem State.modChan_bAlloc (s : State) (k : Nat) (f : Chan → Chan) : (s.modChan k f).bAlloc = s.bAlloc := rfl
@[simp] theorem State.modChan_bmp (s : State) (k : Nat) (f : Chan → Chan) : (s.modChan k f).bmp = s.bmp := rfl
@[simp] theorem State.modChan_hlk (s : State) (k : Nat) (f : Chan → Chan) : (s.modChan k f).hlk = s.hlk := rfl
@[simp] theorem State.modChan_dma (s : State) (k : Nat) (f : Chan → Chan) : (s.modChan k f).dma = s.dma := rfl
@[simp] theorem State.modChan_chans (s : State) (k : Nat) (f : Chan → Chan) : (s.modChan k f).chans = tmod {} s.chans k f := rfl
@[simp] theorem State.modChan_upd (s : State) (k : Nat) (f : Chan → Chan) : (s.modChan k f).upd = s.upd := rfl
@[simp] theorem State.modChan_ing (s : State) (k : Nat) (f : Chan → Chan) : (s.modChan k f).ing = s.ing := rfl
@[simp] theorem State.modChan_plk (s : State) (k : Nat) (f : Chan → Chan) : (s.modChan k f).plk = s.plk := rfl
@[simp] theorem State.modChan_aud (s : State) (k : Nat) (f : Chan → Chan) : (s.modChan k f).aud = s.aud := rfl
@[simp] theorem State.modChan_evr (s : State) (k : Nat) (f : Chan → Chan) : (s.modChan k f).evr = s.evr := rfl
@[simp] theorem State.modChan_pwr (s : State) (k : Nat) (f : Chan → Chan) : (s.modChan k f).pwr = s.pwr := rfl
@[simp] theorem State.modChan_parts (s : State) (k : Nat) (f : Chan → Chan) : (s.modChan k f).parts = s.parts := rfl
@[simp] theorem State.modChan_clusters (s : State) (k : Nat) (f : Chan → Chan) : (s.modChan k f).clusters = s.clusters := rfl
@[simp] theorem State.modChan_cores (s : State) (k : Nat) (f : Chan → Chan) : (s.modChan k f).cores = s.cores := rfl
@[simp] theorem State.modChan_pending (s : State) (k : Nat) (f : Chan → Chan) : (s.modChan k f).pending = s.pending := rfl

/-! ### modUpd -/

@[simp] theorem State.modUpd_time (s : State) (k : Nat) (f : Upd → Upd) : (s.modUpd k f).time = s.time := rfl
@[simp] theorem State.modUpd_draw (s : State) (k : Nat) (f : Upd → Upd) : (s.modUpd k f).draw = s.draw := rfl
@[simp] theorem State.modUpd_bus (s : State) (k : Nat) (f : Upd → Upd) : (s.modUpd k f).bus = s.bus := rfl
@[simp] theorem State.modUpd_badLine (s : State) (k : Nat) (f : Upd → Upd) : (s.modUpd k f).badLine = s.badLine := rfl
@[simp] theorem State.modUpd_mem (s : State) (k : Nat) (f : Upd → Upd) : (s.modUpd k f).mem = s.mem := rfl
@[simp] theorem State.modUpd_flash (s : State) (k : Nat) (f : Upd → Upd) : (s.modUpd k f).flash = s.flash := rfl
@[simp] theorem State.modUpd_mgt (s : State) (k : Nat) (f : Upd → Upd) : (s.modUpd k f).mgt = s.mgt := rfl
@[simp] theorem State.modUpd_frm (s : State) (k : Nat) (f : Upd → Upd) : (s.modUpd k f).frm = s.frm := rfl
@[simp] theorem State.modUpd_cfg (s : State) (k : Nat) (f : Upd → Upd) : (s.modUpd k f).cfg = s.cfg := rfl
@[simp] theorem State.modUpd_stm (s : State) (k : Nat) (f : Upd → Upd) : (s.modUpd k f).stm = s.stm := rfl
@[simp] theorem State.modUpd_mig (s : State) (k : Nat) (f : Upd → Upd) : (s.modUpd k f).mig = s.mig := rfl
@[simp] theorem State.modUpd_sAlloc (s : State) (k : Nat) (f : Upd → Upd) : (s.modUpd k f).sAlloc = s.sAlloc := rfl
@[simp] theorem State.modUpd_bAlloc (s : State) (k : Nat) (f : Upd → Upd) : (s.modUpd k f).bAlloc = s.bAlloc := rfl
@[simp] theorem State.modUpd_bmp (s : State) (k : Nat) (f : Upd → Upd) : (s.modUpd k f).bmp = s.bmp := rfl
@[simp] theorem State.modUpd_hlk (s : State) (k : Nat) (f : Upd → Upd) : (s.modUpd k f).hlk = s.hlk := rfl
@[simp] theorem State.modUpd_dma (s : State) (k : Nat) (f : Upd → Upd) : (s.modUpd k f).dma = s.dma := rfl
@[simp] theorem State.modUpd_chans (s : State) (k : Nat) (f : Upd → Upd) : (s.modUpd k f).chans = s.chans := rfl
@[simp] theorem State.modUpd_upd (s : State) (k : Nat) (f : Upd → Upd) : (s.modUpd k f).upd = tmod {} s.upd k f := rfl
@[simp] theorem State.modUpd_ing (s : State) (k : Nat) (f : Upd → Upd) : (s.modUpd k f).ing = s.ing := rfl
@[simp] theorem State.modUpd_plk (s : State) (k : Nat) (f : Upd → Upd) : (s.modUpd k f).plk = s.plk := rfl
@[simp] theorem State.modUpd_aud (s : State) (k : Nat) (f : Upd → Upd) : (s.modUpd k f).aud = s.aud := rfl
@[simp] theorem State.modUpd_evr (s : State) (k : Nat) (f : Upd → Upd) : (s.modUpd k f).evr = s.evr := rfl
@[simp] theorem State.modUpd_pwr (s : State) (k : Nat) (f : Upd → Upd) : (s.modUpd k f).pwr = s.pwr := rfl
@[simp] theorem State.modUpd_parts (s : State) (k : Nat) (f : Upd → Upd) : (s.modUpd k f).parts = s.parts := rfl
@[simp] theorem State.modUpd_clusters (s : State) (k : Nat) (f : Upd → Upd) : (s.modUpd k f).clusters = s.clusters := rfl
@[simp] theorem State.modUpd_cores (s : State) (k : Nat) (f : Upd → Upd) : (s.modUpd k f).cores = s.cores := rfl
@[simp] theorem State.modUpd_pending (s : State) (k : Nat) (f : Upd → Upd) : (s.modUpd k f).pending = s.pending := rfl

/-! ### modIng -/

@[simp] theorem State.modIng_time (s : State) (k : Nat) (f : Ing → Ing) : (s.modIng k f).time = s.time := rfl
@[simp] theorem State.modIng_draw (s : State) (k : Nat) (f : Ing → Ing) : (s.modIng k f).draw = s.draw := rfl
@[simp] theorem State.modIng_bus (s : State) (k : Nat) (f : Ing → Ing) : (s.modIng k f).bus = s.bus := rfl
@[simp] theorem State.modIng_badLine (s : State) (k : Nat) (f : Ing → Ing) : (s.modIng k f).badLine = s.badLine := rfl
@[simp] theorem State.modIng_mem (s : State) (k : Nat) (f : Ing → Ing) : (s.modIng k f).mem = s.mem := rfl
@[simp] theorem State.modIng_flash (s : State) (k : Nat) (f : Ing → Ing) : (s.modIng k f).flash = s.flash := rfl
@[simp] theorem State.modIng_mgt (s : State) (k : Nat) (f : Ing → Ing) : (s.modIng k f).mgt = s.mgt := rfl
@[simp] theorem State.modIng_frm (s : State) (k : Nat) (f : Ing → Ing) : (s.modIng k f).frm = s.frm := rfl
@[simp] theorem State.modIng_cfg (s : State) (k : Nat) (f : Ing → Ing) : (s.modIng k f).cfg = s.cfg := rfl
@[simp] theorem State.modIng_stm (s : State) (k : Nat) (f : Ing → Ing) : (s.modIng k f).stm = s.stm := rfl
@[simp] theorem State.modIng_mig (s : State) (k : Nat) (f : Ing → Ing) : (s.modIng k f).mig = s.mig := rfl
@[simp] theorem State.modIng_sAlloc (s : State) (k : Nat) (f : Ing → Ing) : (s.modIng k f).sAlloc = s.sAlloc := rfl
@[simp] theorem State.modIng_bAlloc (s : State) (k : Nat) (f : Ing → Ing) : (s.modIng k f).bAlloc = s.bAlloc := rfl
@[simp] theorem State.modIng_bmp (s : State) (k : Nat) (f : Ing → Ing) : (s.modIng k f).bmp = s.bmp := rfl
@[simp] theorem State.modIng_hlk (s : State) (k : Nat) (f : Ing → Ing) : (s.modIng k f).hlk = s.hlk := rfl
@[simp] theorem State.modIng_dma (s : State) (k : Nat) (f : Ing → Ing) : (s.modIng k f).dma = s.dma := rfl
@[simp] theorem State.modIng_chans (s : State) (k : Nat) (f : Ing → Ing) : (s.modIng k f).chans = s.chans := rfl
@[simp] theorem State.modIng_upd (s : State) (k : Nat) (f : Ing → Ing) : (s.modIng k f).upd = s.upd := rfl
@[simp] theorem State.modIng_ing (s : State) (k : Nat) (f : Ing → Ing) : (s.modIng k f).ing = tmod {} s.ing k f := rfl
@[simp] theorem State.modIng_plk (s : State) (k : Nat) (f : Ing → Ing) : (s.modIng k f).plk = s.plk := rfl
@[simp] theorem State.modIng_aud (s : State) (k : Nat) (f : Ing → Ing) : (s.modIng k f).aud = s.aud := rfl
@[simp] theorem State.modIng_evr (s : State) (k : Nat) (f : Ing → Ing) : (s.modIng k f).evr = s.evr := rfl
@[simp] theorem State.modIng_pwr (s : State) (k : Nat) (f : Ing → Ing) : (s.modIng k f).pwr = s.pwr := rfl
@[simp] theorem State.modIng_parts (s : State) (k : Nat) (f : Ing → Ing) : (s.modIng k f).parts = s.parts := rfl
@[simp] theorem State.modIng_clusters (s : State) (k : Nat) (f : Ing → Ing) : (s.modIng k f).clusters = s.clusters := rfl
@[simp] theorem State.modIng_cores (s : State) (k : Nat) (f : Ing → Ing) : (s.modIng k f).cores = s.cores := rfl
@[simp] theorem State.modIng_pending (s : State) (k : Nat) (f : Ing → Ing) : (s.modIng k f).pending = s.pending := rfl

/-! ### modMgt -/

@[simp] theorem State.modMgt_time (s : State) (k : Nat) (f : Mgt → Mgt) : (s.modMgt k f).time = s.time := rfl
@[simp] theorem State.modMgt_draw (s : State) (k : Nat) (f : Mgt → Mgt) : (s.modMgt k f).draw = s.draw := rfl
@[simp] theorem State.modMgt_bus (s : State) (k : Nat) (f : Mgt → Mgt) : (s.modMgt k f).bus = s.bus := rfl
@[simp] theorem State.modMgt_badLine (s : State) (k : Nat) (f : Mgt → Mgt) : (s.modMgt k f).badLine = s.badLine := rfl
@[simp] theorem State.modMgt_mem (s : State) (k : Nat) (f : Mgt → Mgt) : (s.modMgt k f).mem = s.mem := rfl
@[simp] theorem State.modMgt_flash (s : State) (k : Nat) (f : Mgt → Mgt) : (s.modMgt k f).flash = s.flash := rfl
@[simp] theorem State.modMgt_mgt (s : State) (k : Nat) (f : Mgt → Mgt) : (s.modMgt k f).mgt = tmod {} s.mgt k f := rfl
@[simp] theorem State.modMgt_frm (s : State) (k : Nat) (f : Mgt → Mgt) : (s.modMgt k f).frm = s.frm := rfl
@[simp] theorem State.modMgt_cfg (s : State) (k : Nat) (f : Mgt → Mgt) : (s.modMgt k f).cfg = s.cfg := rfl
@[simp] theorem State.modMgt_stm (s : State) (k : Nat) (f : Mgt → Mgt) : (s.modMgt k f).stm = s.stm := rfl
@[simp] theorem State.modMgt_mig (s : State) (k : Nat) (f : Mgt → Mgt) : (s.modMgt k f).mig = s.mig := rfl
@[simp] theorem State.modMgt_sAlloc (s : State) (k : Nat) (f : Mgt → Mgt) : (s.modMgt k f).sAlloc = s.sAlloc := rfl
@[simp] theorem State.modMgt_bAlloc (s : State) (k : Nat) (f : Mgt → Mgt) : (s.modMgt k f).bAlloc = s.bAlloc := rfl
@[simp] theorem State.modMgt_bmp (s : State) (k : Nat) (f : Mgt → Mgt) : (s.modMgt k f).bmp = s.bmp := rfl
@[simp] theorem State.modMgt_hlk (s : State) (k : Nat) (f : Mgt → Mgt) : (s.modMgt k f).hlk = s.hlk := rfl
@[simp] theorem State.modMgt_dma (s : State) (k : Nat) (f : Mgt → Mgt) : (s.modMgt k f).dma = s.dma := rfl
@[simp] theorem State.modMgt_chans (s : State) (k : Nat) (f : Mgt → Mgt) : (s.modMgt k f).chans = s.chans := rfl
@[simp] theorem State.modMgt_upd (s : State) (k : Nat) (f : Mgt → Mgt) : (s.modMgt k f).upd = s.upd := rfl
@[simp] theorem State.modMgt_ing (s : State) (k : Nat) (f : Mgt → Mgt) : (s.modMgt k f).ing = s.ing := rfl
@[simp] theorem State.modMgt_plk (s : State) (k : Nat) (f : Mgt → Mgt) : (s.modMgt k f).plk = s.plk := rfl
@[simp] theorem State.modMgt_aud (s : State) (k : Nat) (f : Mgt → Mgt) : (s.modMgt k f).aud = s.aud := rfl
@[simp] theorem State.modMgt_evr (s : State) (k : Nat) (f : Mgt → Mgt) : (s.modMgt k f).evr = s.evr := rfl
@[simp] theorem State.modMgt_pwr (s : State) (k : Nat) (f : Mgt → Mgt) : (s.modMgt k f).pwr = s.pwr := rfl
@[simp] theorem State.modMgt_parts (s : State) (k : Nat) (f : Mgt → Mgt) : (s.modMgt k f).parts = s.parts := rfl
@[simp] theorem State.modMgt_clusters (s : State) (k : Nat) (f : Mgt → Mgt) : (s.modMgt k f).clusters = s.clusters := rfl
@[simp] theorem State.modMgt_cores (s : State) (k : Nat) (f : Mgt → Mgt) : (s.modMgt k f).cores = s.cores := rfl
@[simp] theorem State.modMgt_pending (s : State) (k : Nat) (f : Mgt → Mgt) : (s.modMgt k f).pending = s.pending := rfl

/-! ### modStream -/

@[simp] theorem State.modStream_time (s : State) (k : Nat) (f : Stream → Stream) : (s.modStream k f).time = s.time := rfl
@[simp] theorem State.modStream_draw (s : State) (k : Nat) (f : Stream → Stream) : (s.modStream k f).draw = s.draw := rfl
@[simp] theorem State.modStream_bus (s : State) (k : Nat) (f : Stream → Stream) : (s.modStream k f).bus = s.bus := rfl
@[simp] theorem State.modStream_badLine (s : State) (k : Nat) (f : Stream → Stream) : (s.modStream k f).badLine = s.badLine := rfl
@[simp] theorem State.modStream_mem (s : State) (k : Nat) (f : Stream → Stream) : (s.modStream k f).mem = s.mem := rfl
@[simp] theorem State.modStream_flash (s : State) (k : Nat) (f : Stream → Stream) : (s.modStream k f).flash = s.flash := rfl
@[simp] theorem State.modStream_mgt (s : State) (k : Nat) (f : Stream → Stream) : (s.modStream k f).mgt = s.mgt := rfl
@[simp] theorem State.modStream_frm (s : State) (k : Nat) (f : Stream → Stream) : (s.modStream k f).frm = s.frm := rfl
@[simp] theorem State.modStream_cfg (s : State) (k : Nat) (f : Stream → Stream) : (s.modStream k f).cfg = s.cfg := rfl
@[simp] theorem State.modStream_stm (s : State) (k : Nat) (f : Stream → Stream) : (s.modStream k f).stm = { s.stm with streams := tmod {} s.stm.streams k f } := rfl
@[simp] theorem State.modStream_mig (s : State) (k : Nat) (f : Stream → Stream) : (s.modStream k f).mig = s.mig := rfl
@[simp] theorem State.modStream_sAlloc (s : State) (k : Nat) (f : Stream → Stream) : (s.modStream k f).sAlloc = s.sAlloc := rfl
@[simp] theorem State.modStream_bAlloc (s : State) (k : Nat) (f : Stream → Stream) : (s.modStream k f).bAlloc = s.bAlloc := rfl
@[simp] theorem State.modStream_bmp (s : State) (k : Nat) (f : Stream → Stream) : (s.modStream k f).bmp = s.bmp := rfl
@[simp] theorem State.modStream_hlk (s : State) (k : Nat) (f : Stream → Stream) : (s.modStream k f).hlk = s.hlk := rfl
@[simp] theorem State.modStream_dma (s : State) (k : Nat) (f : Stream → Stream) : (s.modStream k f).dma = s.dma := rfl
@[simp] theorem State.modStream_chans (s : State) (k : Nat) (f : Stream → Stream) : (s.modStream k f).chans = s.chans := rfl
@[simp] theorem State.modStream_upd (s : State) (k : Nat) (f : Stream → Stream) : (s.modStream k f).upd = s.upd := rfl
@[simp] theorem State.modStream_ing (s : State) (k : Nat) (f : Stream → Stream) : (s.modStream k f).ing = s.ing := rfl
@[simp] theorem State.modStream_plk (s : State) (k : Nat) (f : Stream → Stream) : (s.modStream k f).plk = s.plk := rfl
@[simp] theorem State.modStream_aud (s : State) (k : Nat) (f : Stream → Stream) : (s.modStream k f).aud = s.aud := rfl
@[simp] theorem State.modStream_evr (s : State) (k : Nat) (f : Stream → Stream) : (s.modStream k f).evr = s.evr := rfl
@[simp] theorem State.modStream_pwr (s : State) (k : Nat) (f : Stream → Stream) : (s.modStream k f).pwr = s.pwr := rfl
@[simp] theorem State.modStream_parts (s : State) (k : Nat) (f : Stream → Stream) : (s.modStream k f).parts = s.parts := rfl
@[simp] theorem State.modStream_clusters (s : State) (k : Nat) (f : Stream → Stream) : (s.modStream k f).clusters = s.clusters := rfl
@[simp] theorem State.modStream_cores (s : State) (k : Nat) (f : Stream → Stream) : (s.modStream k f).cores = s.cores := rfl
@[simp] theorem State.modStream_pending (s : State) (k : Nat) (f : Stream → Stream) : (s.modStream k f).pending = s.pending := rfl

/-! ### modGroup -/

@[simp] theorem State.modGroup_time (s : State) (k : Nat) (f : LockGroup → LockGroup) : (s.modGroup k f).time = s.time := rfl
@[simp] theorem State.modGroup_draw (s : State) (k : Nat) (f : LockGroup → LockGroup) : (s.modGroup k f).draw = s.draw := rfl
@[simp] theorem State.modGroup_bus (s : State) (k : Nat) (f : LockGroup → LockGroup) : (s.modGroup k f).bus = s.bus := rfl
@[simp] theorem State.modGroup_badLine (s : State) (k : Nat) (f : LockGroup → LockGroup) : (s.modGroup k f).badLine = s.badLine := rfl
@[simp] theorem State.modGroup_mem (s : State) (k : Nat) (f : LockGroup → LockGroup) : (s.modGroup k f).mem = s.mem := rfl
@[simp] theorem State.modGroup_flash (s : State) (k : Nat) (f : LockGroup → LockGroup) : (s.modGroup k f).flash = s.flash := rfl
@[simp] theorem State.modGroup_mgt (s : State) (k : Nat) (f : LockGroup → LockGroup) : (s.modGroup k f).mgt = s.mgt := rfl
@[simp] theorem State.modGroup_frm (s : State) (k : Nat) (f : LockGroup → LockGroup) : (s.modGroup k f).frm = { s.frm with groups := tmod {} s.frm.groups k f } := rfl
@[simp] theorem State.modGroup_cfg (s : State) (k : Nat) (f : LockGroup → LockGroup) : (s.modGroup k f).cfg = s.cfg := rfl
@[simp] theorem State.modGroup_stm (s : State) (k : Nat) (f : LockGroup → LockGroup) : (s.modGroup k f).stm = s.stm := rfl
@[simp] theorem State.modGroup_mig (s : State) (k : Nat) (f : LockGroup → LockGroup) : (s.modGroup k f).mig = s.mig := rfl
@[simp] theorem State.modGroup_sAlloc (s : State) (k : Nat) (f : LockGroup → LockGroup) : (s.modGroup k f).sAlloc = s.sAlloc := rfl
@[simp] theorem State.modGroup_bAlloc (s : State) (k : Nat) (f : LockGroup → LockGroup) : (s.modGroup k f).bAlloc = s.bAlloc := rfl
@[simp] theorem State.modGroup_bmp (s : State) (k : Nat) (f : LockGroup → LockGroup) : (s.modGroup k f).bmp = s.bmp := rfl
@[simp] theorem State.modGroup_hlk (s : State) (k : Nat) (f : LockGroup → LockGroup) : (s.modGroup k f).hlk = s.hlk := rfl
@[simp] theorem State.modGroup_dma (s : State) (k : Nat) (f : LockGroup → LockGroup) : (s.modGroup k f).dma = s.dma := rfl
@[simp] theorem State.modGroup_chans (s : State) (k : Nat) (f : LockGroup → LockGroup) : (s.modGroup k f).chans = s.chans := rfl
@[simp] theorem State.modGroup_upd (s : State) (k : Nat) (f : LockGroup → LockGroup) : (s.modGroup k f).upd = s.upd := rfl
@[simp] theorem State.modGroup_ing (s : State) (k : Nat) (f : LockGroup → LockGroup) : (s.modGroup k f).ing = s.ing := rfl
@[simp] theorem State.modGroup_plk (s : State) (k : Nat) (f : LockGroup → LockGroup) : (s.modGroup k f).plk = s.plk := rfl
@[simp] theorem State.modGroup_aud (s : State) (k : Nat) (f : LockGroup → LockGroup) : (s.modGroup k f).aud = s.aud := rfl
@[simp] theorem State.modGroup_evr (s : State) (k : Nat) (f : LockGroup → LockGroup) : (s.modGroup k f).evr = s.evr := rfl
@[simp] theorem State.modGroup_pwr (s : State) (k : Nat) (f : LockGroup → LockGroup) : (s.modGroup k f).pwr = s.pwr := rfl
@[simp] theorem State.modGroup_parts (s : State) (k : Nat) (f : LockGroup → LockGroup) : (s.modGroup k f).parts = s.parts := rfl
@[simp] theorem State.modGroup_clusters (s : State) (k : Nat) (f : LockGroup → LockGroup) : (s.modGroup k f).clusters = s.clusters := rfl
@[simp] theorem State.modGroup_cores (s : State) (k : Nat) (f : LockGroup → LockGroup) : (s.modGroup k f).cores = s.cores := rfl
@[simp] theorem State.modGroup_pending (s : State) (k : Nat) (f : LockGroup → LockGroup) : (s.modGroup k f).pending = s.pending := rfl

/-! ### modPq -/

@[simp] theorem State.modPq_time (s : State) (k : Nat) (f : PeerQ → PeerQ) : (s.modPq k f).time = s.time := rfl
@[simp] theorem State.modPq_draw (s : State) (k : Nat) (f : PeerQ → PeerQ) : (s.modPq k f).draw = s.draw := rfl
@[simp] theorem State.modPq_bus (s : State) (k : Nat) (f : PeerQ → PeerQ) : (s.modPq k f).bus = s.bus := rfl
@[simp] theorem State.modPq_badLine (s : State) (k : Nat) (f : PeerQ → PeerQ) : (s.modPq k f).badLine = s.badLine := rfl
@[simp] theorem State.modPq_mem (s : State) (k : Nat) (f : PeerQ → PeerQ) : (s.modPq k f).mem = s.mem := rfl
@[simp] theorem State.modPq_flash (s : State) (k : Nat) (f : PeerQ → PeerQ) : (s.modPq k f).flash = s.flash := rfl
@[simp] theorem State.modPq_mgt (s : State) (k : Nat) (f : PeerQ → PeerQ) : (s.modPq k f).mgt = s.mgt := rfl
@[simp] theorem State.modPq_frm (s : State) (k : Nat) (f : PeerQ → PeerQ) : (s.modPq k f).frm = s.frm := rfl
@[simp] theorem State.modPq_cfg (s : State) (k : Nat) (f : PeerQ → PeerQ) : (s.modPq k f).cfg = s.cfg := rfl
@[simp] theorem State.modPq_stm (s : State) (k : Nat) (f : PeerQ → PeerQ) : (s.modPq k f).stm = s.stm := rfl
@[simp] theorem State.modPq_mig (s : State) (k : Nat) (f : PeerQ → PeerQ) : (s.modPq k f).mig = s.mig := rfl
@[simp] theorem State.modPq_sAlloc (s : State) (k : Nat) (f : PeerQ → PeerQ) : (s.modPq k f).sAlloc = s.sAlloc := rfl
@[simp] theorem State.modPq_bAlloc (s : State) (k : Nat) (f : PeerQ → PeerQ) : (s.modPq k f).bAlloc = s.bAlloc := rfl
@[simp] theorem State.modPq_bmp (s : State) (k : Nat) (f : PeerQ → PeerQ) : (s.modPq k f).bmp = s.bmp := rfl
@[simp] theorem State.modPq_hlk (s : State) (k : Nat) (f : PeerQ → PeerQ) : (s.modPq k f).hlk = s.hlk := rfl
@[simp] theorem State.modPq_dma (s : State) (k : Nat) (f : PeerQ → PeerQ) : (s.modPq k f).dma = s.dma := rfl
@[simp] theorem State.modPq_chans (s : State) (k : Nat) (f : PeerQ → PeerQ) : (s.modPq k f).chans = s.chans := rfl
@[simp] theorem State.modPq_upd (s : State) (k : Nat) (f : PeerQ → PeerQ) : (s.modPq k f).upd = s.upd := rfl
@[simp] theorem State.modPq_ing (s : State) (k : Nat) (f : PeerQ → PeerQ) : (s.modPq k f).ing = s.ing := rfl
@[simp] theorem State.modPq_plk (s : State) (k : Nat) (f : PeerQ → PeerQ) : (s.modPq k f).plk = { s.plk with queues := tmod {} s.plk.queues k f } := rfl
@[simp] theorem State.modPq_aud (s : State) (k : Nat) (f : PeerQ → PeerQ) : (s.modPq k f).aud = s.aud := rfl
@[simp] theorem State.modPq_evr (s : State) (k : Nat) (f : PeerQ → PeerQ) : (s.modPq k f).evr = s.evr := rfl
@[simp] theorem State.modPq_pwr (s : State) (k : Nat) (f : PeerQ → PeerQ) : (s.modPq k f).pwr = s.pwr := rfl
@[simp] theorem State.modPq_parts (s : State) (k : Nat) (f : PeerQ → PeerQ) : (s.modPq k f).parts = s.parts := rfl
@[simp] theorem State.modPq_clusters (s : State) (k : Nat) (f : PeerQ → PeerQ) : (s.modPq k f).clusters = s.clusters := rfl
@[simp] theorem State.modPq_cores (s : State) (k : Nat) (f : PeerQ → PeerQ) : (s.modPq k f).cores = s.cores := rfl
@[simp] theorem State.modPq_pending (s : State) (k : Nat) (f : PeerQ → PeerQ) : (s.modPq k f).pending = s.pending := rfl

/-! ### modPport -/

@[simp] theorem State.modPport_time (s : State) (k : Nat) (f : PeerPort → PeerPort) : (s.modPport k f).time = s.time := rfl
@[simp] theorem State.modPport_draw (s : State) (k : Nat) (f : PeerPort → PeerPort) : (s.modPport k f).draw = s.draw := rfl
@[simp] theorem State.modPport_bus (s : State) (k : Nat) (f : PeerPort → PeerPort) : (s.modPport k f).bus = s.bus := rfl
@[simp] theorem State.modPport_badLine (s : State) (k : Nat) (f : PeerPort → PeerPort) : (s.modPport k f).badLine = s.badLine := rfl
@[simp] theorem State.modPport_mem (s : State) (k : Nat) (f : PeerPort → PeerPort) : (s.modPport k f).mem = s.mem := rfl
@[simp] theorem State.modPport_flash (s : State) (k : Nat) (f : PeerPort → PeerPort) : (s.modPport k f).flash = s.flash := rfl
@[simp] theorem State.modPport_mgt (s : State) (k : Nat) (f : PeerPort → PeerPort) : (s.modPport k f).mgt = s.mgt := rfl
@[simp] theorem State.modPport_frm (s : State) (k : Nat) (f : PeerPort → PeerPort) : (s.modPport k f).frm = s.frm := rfl
@[simp] theorem State.modPport_cfg (s : State) (k : Nat) (f : PeerPort → PeerPort) : (s.modPport k f).cfg = s.cfg := rfl
@[simp] theorem State.modPport_stm (s : State) (k : Nat) (f : PeerPort → PeerPort) : (s.modPport k f).stm = s.stm := rfl
@[simp] theorem State.modPport_mig (s : State) (k : Nat) (f : PeerPort → PeerPort) : (s.modPport k f).mig = s.mig := rfl
@[simp] theorem State.modPport_sAlloc (s : State) (k : Nat) (f : PeerPort → PeerPort) : (s.modPport k f).sAlloc = s.sAlloc := rfl
@[simp] theorem State.modPport_bAlloc (s : State) (k : Nat) (f : PeerPort → PeerPort) : (s.modPport k f).bAlloc = s.bAlloc := rfl
@[simp] theorem State.modPport_bmp (s : State) (k : Nat) (f : PeerPort → PeerPort) : (s.modPport k f).bmp = s.bmp := rfl
@[simp] theorem State.modPport_hlk (s : State) (k : Nat) (f : PeerPort → PeerPort) : (s.modPport k f).hlk = s.hlk := rfl
@[simp] theorem State.modPport_dma (s : State) (k : Nat) (f : PeerPort → PeerPort) : (s.modPport k f).dma = s.dma := rfl
@[simp] theorem State.modPport_chans (s : State) (k : Nat) (f : PeerPort → PeerPort) : (s.modPport k f).chans = s.chans := rfl
@[simp] theorem State.modPport_upd (s : State) (k : Nat) (f : PeerPort → PeerPort) : (s.modPport k f).upd = s.upd := rfl
@[simp] theorem State.modPport_ing (s : State) (k : Nat) (f : PeerPort → PeerPort) : (s.modPport k f).ing = s.ing := rfl
@[simp] theorem State.modPport_plk (s : State) (k : Nat) (f : PeerPort → PeerPort) : (s.modPport k f).plk = { s.plk with ports := tmod {} s.plk.ports k f } := rfl
@[simp] theorem State.modPport_aud (s : State) (k : Nat) (f : PeerPort → PeerPort) : (s.modPport k f).aud = s.aud := rfl
@[simp] theorem State.modPport_evr (s : State) (k : Nat) (f : PeerPort → PeerPort) : (s.modPport k f).evr = s.evr := rfl
@[simp] theorem State.modPport_pwr (s : State) (k : Nat) (f : PeerPort → PeerPort) : (s.modPport k f).pwr = s.pwr := rfl
@[simp] theorem State.modPport_parts (s : State) (k : Nat) (f : PeerPort → PeerPort) : (s.modPport k f).parts = s.parts := rfl
@[simp] theorem State.modPport_clusters (s : State) (k : Nat) (f : PeerPort → PeerPort) : (s.modPport k f).clusters = s.clusters := rfl
@[simp] theorem State.modPport_cores (s : State) (k : Nat) (f : PeerPort → PeerPort) : (s.modPport k f).cores = s.cores := rfl
@[simp] theorem State.modPport_pending (s : State) (k : Nat) (f : PeerPort → PeerPort) : (s.modPport k f).pending = s.pending := rfl

/-! ### modPwr -/

@[simp] theorem State.modPwr_time (s : State) (f : Pwr → Pwr) : (s.modPwr f).time = s.time := rfl
@[simp] theorem State.modPwr_draw (s : State) (f : Pwr → Pwr) : (s.modPwr f).draw = s.draw := rfl
@[simp] theorem State.modPwr_bus (s : State) (f : Pwr → Pwr) : (s.modPwr f).bus = s.bus := rfl
@[simp] theorem State.modPwr_badLine (s : State) (f : Pwr → Pwr) : (s.modPwr f).badLine = s.badLine := rfl
@[simp] theorem State.modPwr_mem (s : State) (f : Pwr → Pwr) : (s.modPwr f).mem = s.mem := rfl
@[simp] theorem State.modPwr_flash (s : State) (f : Pwr → Pwr) : (s.modPwr f).flash = s.flash := rfl
@[simp] theorem State.modPwr_mgt (s : State) (f : Pwr → Pwr) : (s.modPwr f).mgt = s.mgt := rfl
@[simp] theorem State.modPwr_frm (s : State) (f : Pwr → Pwr) : (s.modPwr f).frm = s.frm := rfl
@[simp] theorem State.modPwr_cfg (s : State) (f : Pwr → Pwr) : (s.modPwr f).cfg = s.cfg := rfl
@[simp] theorem State.modPwr_stm (s : State) (f : Pwr → Pwr) : (s.modPwr f).stm = s.stm := rfl
@[simp] theorem State.modPwr_mig (s : State) (f : Pwr → Pwr) : (s.modPwr f).mig = s.mig := rfl
@[simp] theorem State.modPwr_sAlloc (s : State) (f : Pwr → Pwr) : (s.modPwr f).sAlloc = s.sAlloc := rfl
@[simp] theorem State.modPwr_bAlloc (s : State) (f : Pwr → Pwr) : (s.modPwr f).bAlloc = s.bAlloc := rfl
@[simp] theorem State.modPwr_bmp (s : State) (f : Pwr → Pwr) : (s.modPwr f).bmp = s.bmp := rfl
@[simp] theorem State.modPwr_hlk (s : State) (f : Pwr → Pwr) : (s.modPwr f).hlk = s.hlk := rfl
@[simp] theorem State.modPwr_dma (s : State) (f : Pwr → Pwr) : (s.modPwr f).dma = s.dma := rfl
@[simp] theorem State.modPwr_chans (s : State) (f : Pwr → Pwr) : (s.modPwr f).chans = s.chans := rfl
@[simp] theorem State.modPwr_upd (s : State) (f : Pwr → Pwr) : (s.modPwr f).upd = s.upd := rfl
@[simp] theorem State.modPwr_ing (s : State) (f : Pwr → Pwr) : (s.modPwr f).ing = s.ing := rfl
@[simp] theorem State.modPwr_plk (s : State) (f : Pwr → Pwr) : (s.modPwr f).plk = s.plk := rfl
@[simp] theorem State.modPwr_aud (s : State) (f : Pwr → Pwr) : (s.modPwr f).aud = s.aud := rfl
@[simp] theorem State.modPwr_evr (s : State) (f : Pwr → Pwr) : (s.modPwr f).evr = s.evr := rfl
@[simp] theorem State.modPwr_pwr (s : State) (f : Pwr → Pwr) : (s.modPwr f).pwr = f s.pwr := rfl
@[simp] theorem State.modPwr_parts (s : State) (f : Pwr → Pwr) : (s.modPwr f).parts = s.parts := rfl
@[simp] theorem State.modPwr_clusters (s : State) (f : Pwr → Pwr) : (s.modPwr f).clusters = s.clusters := rfl
@[simp] theorem State.modPwr_cores (s : State) (f : Pwr → Pwr) : (s.modPwr f).cores = s.cores := rfl
@[simp] theorem State.modPwr_pending (s : State) (f : Pwr → Pwr) : (s.modPwr f).pending = s.pending := rfl

/-! ### modHlk -/

@[simp] theorem State.modHlk_time (s : State) (f : Hlk → Hlk) : (s.modHlk f).time = s.time := rfl
@[simp] theorem State.modHlk_draw (s : State) (f : Hlk → Hlk) : (s.modHlk f).draw = s.draw := rfl
@[simp] theorem State.modHlk_bus (s : State) (f : Hlk → Hlk) : (s.modHlk f).bus = s.bus := rfl
@[simp] theorem State.modHlk_badLine (s : State) (f : Hlk → Hlk) : (s.modHlk f).badLine = s.badLine := rfl
@[simp] theorem State.modHlk_mem (s : State) (f : Hlk → Hlk) : (s.modHlk f).mem = s.mem := rfl
@[simp] theorem State.modHlk_flash (s : State) (f : Hlk → Hlk) : (s.modHlk f).flash = s.flash := rfl
@[simp] theorem State.modHlk_mgt (s : State) (f : Hlk → Hlk) : (s.modHlk f).mgt = s.mgt := rfl
@[simp] theorem State.modHlk_frm (s : State) (f : Hlk → Hlk) : (s.modHlk f).frm = s.frm := rfl
@[simp] theorem State.modHlk_cfg (s : State) (f : Hlk → Hlk) : (s.modHlk f).cfg = s.cfg := rfl
@[simp] theorem State.modHlk_stm (s : State) (f : Hlk → Hlk) : (s.modHlk f).stm = s.stm := rfl
@[simp] theorem State.modHlk_mig (s : State) (f : Hlk → Hlk) : (s.modHlk f).mig = s.mig := rfl
@[simp] theorem State.modHlk_sAlloc (s : State) (f : Hlk → Hlk) : (s.modHlk f).sAlloc = s.sAlloc := rfl
@[simp] theorem State.modHlk_bAlloc (s : State) (f : Hlk → Hlk) : (s.modHlk f).bAlloc = s.bAlloc := rfl
@[simp] theorem State.modHlk_bmp (s : State) (f : Hlk → Hlk) : (s.modHlk f).bmp = s.bmp := rfl
@[simp] theorem State.modHlk_hlk (s : State) (f : Hlk → Hlk) : (s.modHlk f).hlk = f s.hlk := rfl
@[simp] theorem State.modHlk_dma (s : State) (f : Hlk → Hlk) : (s.modHlk f).dma = s.dma := rfl
@[simp] theorem State.modHlk_chans (s : State) (f : Hlk → Hlk) : (s.modHlk f).chans = s.chans := rfl
@[simp] theorem State.modHlk_upd (s : State) (f : Hlk → Hlk) : (s.modHlk f).upd = s.upd := rfl
@[simp] theorem State.modHlk_ing (s : State) (f : Hlk → Hlk) : (s.modHlk f).ing = s.ing := rfl
@[simp] theorem State.modHlk_plk (s : State) (f : Hlk → Hlk) : (s.modHlk f).plk = s.plk := rfl
@[simp] theorem State.modHlk_aud (s : State) (f : Hlk → Hlk) : (s.modHlk f).aud = s.aud := rfl
@[simp] theorem State.modHlk_evr (s : State) (f : Hlk → Hlk) : (s.modHlk f).evr = s.evr := rfl
@[simp] theorem State.modHlk_pwr (s : State) (f : Hlk → Hlk) : (s.modHlk f).pwr = s.pwr := rfl
@[simp] theorem State.modHlk_parts (s : State) (f : Hlk → Hlk) : (s.modHlk f).parts = s.parts := rfl
@[simp] theorem State.modHlk_clusters (s : State) (f : Hlk → Hlk) : (s.modHlk f).clusters = s.clusters := rfl
@[simp] theorem State.modHlk_cores (s : State) (f : Hlk → Hlk) : (s.modHlk f).cores = s.cores := rfl
@[simp] theorem State.modHlk_pending (s : State) (f : Hlk → Hlk) : (s.modHlk f).pending = s.pending := rfl

/-! ### modCfg -/

@[simp] theorem State.modCfg_time (s : State) (f : Cfg → Cfg) : (s.modCfg f).time = s.time := rfl
@[simp] theorem State.modCfg_draw (s : State) (f : Cfg → Cfg) : (s.modCfg f).draw = s.draw := rfl
@[simp] theorem State.modCfg_bus (s : State) (f : Cfg → Cfg) : (s.modCfg f).bus = s.bus := rfl
@[simp] theorem State.modCfg_badLine (s : State) (f : Cfg → Cfg) : (s.modCfg f).badLine = s.badLine := rfl
@[simp] theorem State.modCfg_mem (s : State) (f : Cfg → Cfg) : (s.modCfg f).mem = s.mem := rfl
@[simp] theorem State.modCfg_flash (s : State) (f : Cfg → Cfg) : (s.modCfg f).flash = s.flash := rfl
@[simp] theorem State.modCfg_mgt (s : State) (f : Cfg → Cfg) : (s.modCfg f).mgt = s.mgt := rfl
@[simp] theorem State.modCfg_frm (s : State) (f : Cfg → Cfg) : (s.modCfg f).frm = s.frm := rfl
@[simp] theorem State.modCfg_cfg (s : State) (f : Cfg → Cfg) : (s.modCfg f).cfg = f s.cfg := rfl
@[simp] theorem State.modCfg_stm (s : State) (f : Cfg → Cfg) : (s.modCfg f).stm = s.stm := rfl
@[simp] theorem State.modCfg_mig (s : State) (f : Cfg → Cfg) : (s.modCfg f).mig = s.mig := rfl
@[simp] theorem State.modCfg_sAlloc (s : State) (f : Cfg → Cfg) : (s.modCfg f).sAlloc = s.sAlloc := rfl
@[simp] theorem State.modCfg_bAlloc (s : State) (f : Cfg → Cfg) : (s.modCfg f).bAlloc = s.bAlloc := rfl
@[simp] theorem State.modCfg_bmp (s : State) (f : Cfg → Cfg) : (s.modCfg f).bmp = s.bmp := rfl
@[simp] theorem State.modCfg_hlk (s : State) (f : Cfg → Cfg) : (s.modCfg f).hlk = s.hlk := rfl
@[simp] theorem State.modCfg_dma (s : State) (f : Cfg → Cfg) : (s.modCfg f).dma = s.dma := rfl
@[simp] theorem State.modCfg_chans (s : State) (f : Cfg → Cfg) : (s.modCfg f).chans = s.chans := rfl
@[simp] theorem State.modCfg_upd (s : State) (f : Cfg → Cfg) : (s.modCfg f).upd = s.upd := rfl
@[simp] theorem State.modCfg_ing (s : State) (f : Cfg → Cfg) : (s.modCfg f).ing = s.ing := rfl
@[simp] theorem State.modCfg_plk (s : State) (f : Cfg → Cfg) : (s.modCfg f).plk = s.plk := rfl
@[simp] theorem State.modCfg_aud (s : State) (f : Cfg → Cfg) : (s.modCfg f).aud = s.aud := rfl
@[simp] theorem State.modCfg_evr (s : State) (f : Cfg → Cfg) : (s.modCfg f).evr = s.evr := rfl
@[simp] theorem State.modCfg_pwr (s : State) (f : Cfg → Cfg) : (s.modCfg f).pwr = s.pwr := rfl
@[simp] theorem State.modCfg_parts (s : State) (f : Cfg → Cfg) : (s.modCfg f).parts = s.parts := rfl
@[simp] theorem State.modCfg_clusters (s : State) (f : Cfg → Cfg) : (s.modCfg f).clusters = s.clusters := rfl
@[simp] theorem State.modCfg_cores (s : State) (f : Cfg → Cfg) : (s.modCfg f).cores = s.cores := rfl
@[simp] theorem State.modCfg_pending (s : State) (f : Cfg → Cfg) : (s.modCfg f).pending = s.pending := rfl

/-! ### modAud -/

@[simp] theorem State.modAud_time (s : State) (f : Aud → Aud) : (s.modAud f).time = s.time := rfl
@[simp] theorem State.modAud_draw (s : State) (f : Aud → Aud) : (s.modAud f).draw = s.draw := rfl
@[simp] theorem State.modAud_bus (s : State) (f : Aud → Aud) : (s.modAud f).bus = s.bus := rfl
@[simp] theorem State.modAud_badLine (s : State) (f : Aud → Aud) : (s.modAud f).badLine = s.badLine := rfl
@[simp] theorem State.modAud_mem (s : State) (f : Aud → Aud) : (s.modAud f).mem = s.mem := rfl
@[simp] theorem State.modAud_flash (s : State) (f : Aud → Aud) : (s.modAud f).flash = s.flash := rfl
@[simp] theorem State.modAud_mgt (s : State) (f : Aud → Aud) : (s.modAud f).mgt = s.mgt := rfl
@[simp] theorem State.modAud_frm (s : State) (f : Aud → Aud) : (s.modAud f).frm = s.frm := rfl
@[simp] theorem State.modAud_cfg (s : State) (f : Aud → Aud) : (s.modAud f).cfg = s.cfg := rfl
@[simp] theorem State.modAud_stm (s : State) (f : Aud → Aud) : (s.modAud f).stm = s.stm := rfl
@[simp] theorem State.modAud_mig (s : State) (f : Aud → Aud) : (s.modAud f).mig = s.mig := rfl
@[simp] theorem State.modAud_sAlloc (s : State) (f : Aud → Aud) : (s.modAud f).sAlloc = s.sAlloc := rfl
@[simp] theorem State.modAud_bAlloc (s : State) (f : Aud → Aud) : (s.modAud f).bAlloc = s.bAlloc := rfl
@[simp] theorem State.modAud_bmp (s : State) (f : Aud → Aud) : (s.modAud f).bmp = s.bmp := rfl
@[simp] theorem State.modAud_hlk (s : State) (f : Aud → Aud) : (s.modAud f).hlk = s.hlk := rfl
@[simp] theorem State.modAud_dma (s : State) (f : Aud → Aud) : (s.modAud f).dma = s.dma := rfl
@[simp] theorem State.modAud_chans (s : State) (f : Aud → Aud) : (s.modAud f).chans = s.chans := rfl
@[simp] theorem State.modAud_upd (s : State) (f : Aud → Aud) : (s.modAud f).upd = s.upd := rfl
@[simp] theorem State.modAud_ing (s : State) (f : Aud → Aud) : (s.modAud f).ing = s.ing := rfl
@[simp] theorem State.modAud_plk (s : State) (f : Aud → Aud) : (s.modAud f).plk = s.plk := rfl
@[simp] theorem State.modAud_aud (s : State) (f : Aud → Aud) : (s.modAud f).aud = f s.aud := rfl
@[simp] theorem State.modAud_evr (s : State) (f : Aud → Aud) : (s.modAud f).evr = s.evr := rfl
@[simp] theorem State.modAud_pwr (s : State) (f : Aud → Aud) : (s.modAud f).pwr = s.pwr := rfl
@[simp] theorem State.modAud_parts (s : State) (f : Aud → Aud) : (s.modAud f).parts = s.parts := rfl
@[simp] theorem State.modAud_clusters (s : State) (f : Aud → Aud) : (s.modAud f).clusters = s.clusters := rfl
@[simp] theorem State.modAud_cores (s : State) (f : Aud → Aud) : (s.modAud f).cores = s.cores := rfl
@[simp] theorem State.modAud_pending (s : State) (f : Aud → Aud) : (s.modAud f).pending = s.pending := rfl

/-! ### modEvr -/

@[simp] theorem State.modEvr_time (s : State) (f : Evr → Evr) : (s.modEvr f).time = s.time := rfl
@[simp] theorem State.modEvr_draw (s : State) (f : Evr → Evr) : (s.modEvr f).draw = s.draw := rfl
@[simp] theorem State.modEvr_bus (s : State) (f : Evr → Evr) : (s.modEvr f).bus = s.bus := rfl
@[simp] theorem State.modEvr_badLine (s : State) (f : Evr → Evr) : (s.modEvr f).badLine = s.badLine := rfl
@[simp] theorem State.modEvr_mem (s : State) (f : Evr → Evr) : (s.modEvr f).mem = s.mem := rfl
@[simp] theorem State.modEvr_flash (s : State) (f : Evr → Evr) : (s.modEvr f).flash = s.flash := rfl
@[simp] theorem State.modEvr_mgt (s : State) (f : Evr → Evr) : (s.modEvr f).mgt = s.mgt := rfl
@[simp] theorem State.modEvr_frm (s : State) (f : Evr → Evr) : (s.modEvr f).frm = s.frm := rfl
@[simp] theorem State.modEvr_cfg (s : State) (f : Evr → Evr) : (s.modEvr f).cfg = s.cfg := rfl
@[simp] theorem State.modEvr_stm (s : State) (f : Evr → Evr) : (s.modEvr f).stm = s.stm := rfl
@[simp] theorem State.modEvr_mig (s : State) (f : Evr → Evr) : (s.modEvr f).mig = s.mig := rfl
@[simp] theorem State.modEvr_sAlloc (s : State) (f : Evr → Evr) : (s.modEvr f).sAlloc = s.sAlloc := rfl
@[simp] theorem State.modEvr_bAlloc (s : State) (f : Evr → Evr) : (s.modEvr f).bAlloc = s.bAlloc := rfl
@[simp] theorem State.modEvr_bmp (s : State) (f : Evr → Evr) : (s.modEvr f).bmp = s.bmp := rfl
@[simp] theorem State.modEvr_hlk (s : State) (f : Evr → Evr) : (s.modEvr f).hlk = s.hlk := rfl
@[simp] theorem State.modEvr_dma (s : State) (f : Evr → Evr) : (s.modEvr f).dma = s.dma := rfl
@[simp] theorem State.modEvr_chans (s : State) (f : Evr → Evr) : (s.modEvr f).chans = s.chans := rfl
@[simp] theorem State.modEvr_upd (s : State) (f : Evr → Evr) : (s.modEvr f).upd = s.upd := rfl
@[simp] theorem State.modEvr_ing (s : State) (f : Evr → Evr) : (s.modEvr f).ing = s.ing := rfl
@[simp] theorem State.modEvr_plk (s : State) (f : Evr → Evr) : (s.modEvr f).plk = s.plk := rfl
@[simp] theorem State.modEvr_aud (s : State) (f : Evr → Evr) : (s.modEvr f).aud = s.aud := rfl
@[simp] theorem State.modEvr_evr (s : State) (f : Evr → Evr) : (s.modEvr f).evr = f s.evr := rfl
@[simp] theorem State.modEvr_pwr (s : State) (f : Evr → Evr) : (s.modEvr f).pwr = s.pwr := rfl
@[simp] theorem State.modEvr_parts (s : State) (f : Evr → Evr) : (s.modEvr f).parts = s.parts := rfl
@[simp] theorem State.modEvr_clusters (s : State) (f : Evr → Evr) : (s.modEvr f).clusters = s.clusters := rfl
@[simp] theorem State.modEvr_cores (s : State) (f : Evr → Evr) : (s.modEvr f).cores = s.cores := rfl
@[simp] theorem State.modEvr_pending (s : State) (f : Evr → Evr) : (s.modEvr f).pending = s.pending := rfl

/-! ### modPlk -/

@[simp] theorem State.modPlk_time (s : State) (f : Plk → Plk) : (s.modPlk f).time = s.time := rfl
@[simp] theorem State.modPlk_draw (s : State) (f : Plk → Plk) : (s.modPlk f).draw = s.draw := rfl
@[simp] theorem State.modPlk_bus (s : State) (f : Plk → Plk) : (s.modPlk f).bus = s.bus := rfl
@[simp] theorem State.modPlk_badLine (s : State) (f : Plk → Plk) : (s.modPlk f).badLine = s.badLine := rfl
@[simp] theorem State.modPlk_mem (s : State) (f : Plk → Plk) : (s.modPlk f).mem = s.mem := rfl
@[simp] theorem State.modPlk_flash (s : State) (f : Plk → Plk) : (s.modPlk f).flash = s.flash := rfl
@[simp] theorem State.modPlk_mgt (s : State) (f : Plk → Plk) : (s.modPlk f).mgt = s.mgt := rfl
@[simp] theorem State.modPlk_frm (s : State) (f : Plk → Plk) : (s.modPlk f).frm = s.frm := rfl
@[simp] theorem State.modPlk_cfg (s : State) (f : Plk → Plk) : (s.modPlk f).cfg = s.cfg := rfl
@[simp] theorem State.modPlk_stm (s : State) (f : Plk → Plk) : (s.modPlk f).stm = s.stm := rfl
@[simp] theorem State.modPlk_mig (s : State) (f : Plk → Plk) : (s.modPlk f).mig = s.mig := rfl
@[simp] theorem State.modPlk_sAlloc (s : State) (f : Plk → Plk) : (s.modPlk f).sAlloc = s.sAlloc := rfl
@[simp] theorem State.modPlk_bAlloc (s : State) (f : Plk → Plk) : (s.modPlk f).bAlloc = s.bAlloc := rfl
@[simp] theorem State.modPlk_bmp (s : State) (f : Plk → Plk) : (s.modPlk f).bmp = s.bmp := rfl
@[simp] theorem State.modPlk_hlk (s : State) (f : Plk → Plk) : (s.modPlk f).hlk = s.hlk := rfl
@[simp] theorem State.modPlk_dma (s : State) (f : Plk → Plk) : (s.modPlk f).dma = s.dma := rfl
@[simp] theorem State.modPlk_chans (s : State) (f : Plk → Plk) : (s.modPlk f).chans = s.chans := rfl
@[simp] theorem State.modPlk_upd (s : State) (f : Plk → Plk) : (s.modPlk f).upd = s.upd := rfl
@[simp] theorem State.modPlk_ing (s : State) (f : Plk → Plk) : (s.modPlk f).ing = s.ing := rfl
@[simp] theorem State.modPlk_plk (s : State) (f : Plk → Plk) : (s.modPlk f).plk = f s.plk := rfl
@[simp] theorem State.modPlk_aud (s : State) (f : Plk → Plk) : (s.modPlk f).aud = s.aud := rfl
@[simp] theorem State.modPlk_evr (s : State) (f : Plk → Plk) : (s.modPlk f).evr = s.evr := rfl
@[simp] theorem State.modPlk_pwr (s : State) (f : Plk → Plk) : (s.modPlk f).pwr = s.pwr := rfl
@[simp] theorem State.modPlk_parts (s : State) (f : Plk → Plk) : (s.modPlk f).parts = s.parts := rfl
@[simp] theorem State.modPlk_clusters (s : State) (f : Plk → Plk) : (s.modPlk f).clusters = s.clusters := rfl
@[simp] theorem State.modPlk_cores (s : State) (f : Plk → Plk) : (s.modPlk f).cores = s.cores := rfl
@[simp] theorem State.modPlk_pending (s : State) (f : Plk → Plk) : (s.modPlk f).pending = s.pending := rfl

/-! ### modStm -/

@[simp] theorem State.modStm_time (s : State) (f : Stm → Stm) : (s.modStm f).time = s.time := rfl
@[simp] theorem State.modStm_draw (s : State) (f : Stm → Stm) : (s.modStm f).draw = s.draw := rfl
@[simp] theorem State.modStm_bus (s : State) (f : Stm → Stm) : (s.modStm f).bus = s.bus := rfl
@[simp] theorem State.modStm_badLine (s : State) (f : Stm → Stm) : (s.modStm f).badLine = s.badLine := rfl
@[simp] theorem State.modStm_mem (s : State) (f : Stm → Stm) : (s.modStm f).mem = s.mem := rfl
@[simp] theorem State.modStm_flash (s : State) (f : Stm → Stm) : (s.modStm f).flash = s.flash := rfl
@[simp] theorem State.modStm_mgt (s : State) (f : Stm → Stm) : (s.modStm f).mgt = s.mgt := rfl
@[simp] theorem State.modStm_frm (s : State) (f : Stm → Stm) : (s.modStm f).frm = s.frm := rfl
@[simp] theorem State.modStm_cfg (s : State) (f : Stm → Stm) : (s.modStm f).cfg = s.cfg := rfl
@[simp] theorem State.modStm_stm (s : State) (f : Stm → Stm) : (s.modStm f).stm = f s.stm := rfl
@[simp] theorem State.modStm_mig (s : State) (f : Stm → Stm) : (s.modStm f).mig = s.mig := rfl
@[simp] theorem State.modStm_sAlloc (s : State) (f : Stm → Stm) : (s.modStm f).sAlloc = s.sAlloc := rfl
@[simp] theorem State.modStm_bAlloc (s : State) (f : Stm → Stm) : (s.modStm f).bAlloc = s.bAlloc := rfl
@[simp] theorem State.modStm_bmp (s : State) (f : Stm → Stm) : (s.modStm f).bmp = s.bmp := rfl
@[simp] theorem State.modStm_hlk (s : State) (f : Stm → Stm) : (s.modStm f).hlk = s.hlk := rfl
@[simp] theorem State.modStm_dma (s : State) (f : Stm → Stm) : (s.modStm f).dma = s.dma := rfl
@[simp] theorem State.modStm_chans (s : State) (f : Stm → Stm) : (s.modStm f).chans = s.chans := rfl
@[simp] theorem State.modStm_upd (s : State) (f : Stm → Stm) : (s.modStm f).upd = s.upd := rfl
@[simp] theorem State.modStm_ing (s : State) (f : Stm → Stm) : (s.modStm f).ing = s.ing := rfl
@[simp] theorem State.modStm_plk (s : State) (f : Stm → Stm) : (s.modStm f).plk = s.plk := rfl
@[simp] theorem State.modStm_aud (s : State) (f : Stm → Stm) : (s.modStm f).aud = s.aud := rfl
@[simp] theorem State.modStm_evr (s : State) (f : Stm → Stm) : (s.modStm f).evr = s.evr := rfl
@[simp] theorem State.modStm_pwr (s : State) (f : Stm → Stm) : (s.modStm f).pwr = s.pwr := rfl
@[simp] theorem State.modStm_parts (s : State) (f : Stm → Stm) : (s.modStm f).parts = s.parts := rfl
@[simp] theorem State.modStm_clusters (s : State) (f : Stm → Stm) : (s.modStm f).clusters = s.clusters := rfl
@[simp] theorem State.modStm_cores (s : State) (f : Stm → Stm) : (s.modStm f).cores = s.cores := rfl
@[simp] theorem State.modStm_pending (s : State) (f : Stm → Stm) : (s.modStm f).pending = s.pending := rfl

/-! ### modFrm -/

@[simp] theorem State.modFrm_time (s : State) (f : Frm → Frm) : (s.modFrm f).time = s.time := rfl
@[simp] theorem State.modFrm_draw (s : State) (f : Frm → Frm) : (s.modFrm f).draw = s.draw := rfl
@[simp] theorem State.modFrm_bus (s : State) (f : Frm → Frm) : (s.modFrm f).bus = s.bus := rfl
@[simp] theorem State.modFrm_badLine (s : State) (f : Frm → Frm) : (s.modFrm f).badLine = s.badLine := rfl
@[simp] theorem State.modFrm_mem (s : State) (f : Frm → Frm) : (s.modFrm f).mem = s.mem := rfl
@[simp] theorem State.modFrm_flash (s : State) (f : Frm → Frm) : (s.modFrm f).flash = s.flash := rfl
@[simp] theorem State.modFrm_mgt (s : State) (f : Frm → Frm) : (s.modFrm f).mgt = s.mgt := rfl
@[simp] theorem State.modFrm_frm (s : State) (f : Frm → Frm) : (s.modFrm f).frm = f s.frm := rfl
@[simp] theorem State.modFrm_cfg (s : State) (f : Frm → Frm) : (s.modFrm f).cfg = s.cfg := rfl
@[simp] theorem State.modFrm_stm (s : State) (f : Frm → Frm) : (s.modFrm f).stm = s.stm := rfl
@[simp] theorem State.modFrm_mig (s : State) (f : Frm → Frm) : (s.modFrm f).mig = s.mig := rfl
@[simp] theorem State.modFrm_sAlloc (s : State) (f : Frm → Frm) : (s.modFrm f).sAlloc = s.sAlloc := rfl
@[simp] theorem State.modFrm_bAlloc (s : State) (f : Frm → Frm) : (s.modFrm f).bAlloc = s.bAlloc := rfl
@[simp] theorem State.modFrm_bmp (s : State) (f : Frm → Frm) : (s.modFrm f).bmp = s.bmp := rfl
@[simp] theorem State.modFrm_hlk (s : State) (f : Frm → Frm) : (s.modFrm f).hlk = s.hlk := rfl
@[simp] theorem State.modFrm_dma (s : State) (f : Frm → Frm) : (s.modFrm f).dma = s.dma := rfl
@[simp] theorem State.modFrm_chans (s : State) (f : Frm → Frm) : (s.modFrm f).chans = s.chans := rfl
@[simp] theorem State.modFrm_upd (s : State) (f : Frm → Frm) : (s.modFrm f).upd = s.upd := rfl
@[simp] theorem State.modFrm_ing (s : State) (f : Frm → Frm) : (s.modFrm f).ing = s.ing := rfl
@[simp] theorem State.modFrm_plk (s : State) (f : Frm → Frm) : (s.modFrm f).plk = s.plk := rfl
@[simp] theorem State.modFrm_aud (s : State) (f : Frm → Frm) : (s.modFrm f).aud = s.aud := rfl
@[simp] theorem State.modFrm_evr (s : State) (f : Frm → Frm) : (s.modFrm f).evr = s.evr := rfl
@[simp] theorem State.modFrm_pwr (s : State) (f : Frm → Frm) : (s.modFrm f).pwr = s.pwr := rfl
@[simp] theorem State.modFrm_parts (s : State) (f : Frm → Frm) : (s.modFrm f).parts = s.parts := rfl
@[simp] theorem State.modFrm_clusters (s : State) (f : Frm → Frm) : (s.modFrm f).clusters = s.clusters := rfl
@[simp] theorem State.modFrm_cores (s : State) (f : Frm → Frm) : (s.modFrm f).cores = s.cores := rfl
@[simp] theorem State.modFrm_pending (s : State) (f : Frm → Frm) : (s.modFrm f).pending = s.pending := rfl

/-! ### wr -/

@[simp] theorem State.wr_time (s : State) (a : Nat) (l : List Byte) : (s.wr a l).time = s.time := rfl
@[simp] theorem State.wr_draw (s : State) (a : Nat) (l : List Byte) : (s.wr a l).draw = s.draw := rfl
@[simp] theorem State.wr_bus (s : State) (a : Nat) (l : List Byte) : (s.wr a l).bus = s.bus := rfl
@[simp] theorem State.wr_badLine (s : State) (a : Nat) (l : List Byte) : (s.wr a l).badLine = s.badLine := rfl
@[simp] theorem State.wr_mem (s : State) (a : Nat) (l : List Byte) : (s.wr a l).mem = wrBytes s.mem a l := rfl
@[simp] theorem State.wr_flash (s : State) (a : Nat) (l : List Byte) : (s.wr a l).flash = s.flash := rfl
@[simp] theorem State.wr_mgt (s : State) (a : Nat) (l : List Byte) : (s.wr a l).mgt = s.mgt := rfl
@[simp] theorem State.wr_frm (s : State) (a : Nat) (l : List Byte) : (s.wr a l).frm = s.frm := rfl
@[simp] theorem State.wr_cfg (s : State) (a : Nat) (l : List Byte) : (s.wr a l).cfg = s.cfg := rfl
@[simp] theorem State.wr_stm (s : State) (a : Nat) (l : List Byte) : (s.wr a l).stm = s.stm := rfl
@[simp] theorem State.wr_mig (s : State) (a : Nat) (l : List Byte) : (s.wr a l).mig = s.mig := rfl
@[simp] theorem State.wr_sAlloc (s : State) (a : Nat) (l : List Byte) : (s.wr a l).sAlloc = s.sAlloc := rfl
@[simp] theorem State.wr_bAlloc (s : State) (a : Nat) (l : List Byte) : (s.wr a l).bAlloc = s.bAlloc := rfl
@[simp] theorem State.wr_bmp (s : State) (a : Nat) (l : List Byte) : (s.wr a l).bmp = s.bmp := rfl
@[simp] theorem State.wr_hlk (s : State) (a : Nat) (l : List Byte) : (s.wr a l).hlk = s.hlk := rfl
@[simp] theorem State.wr_dma (s : State) (a : Nat) (l : List Byte) : (s.wr a l).dma = s.dma := rfl
@[simp] theorem State.wr_chans (s : State) (a : Nat) (l : List Byte) : (s.wr a l).chans = s.chans := rfl
@[simp] theorem State.wr_upd (s : State) (a : Nat) (l : List Byte) : (s.wr a l).upd = s.upd := rfl
@[simp] theorem State.wr_ing (s : State) (a : Nat) (l : List Byte) : (s.wr a l).ing = s.ing := rfl
@[simp] theorem State.wr_plk (s : State) (a : Nat) (l : List Byte) : (s.wr a l).plk = s.plk := rfl
@[simp] theorem State.wr_aud (s : State) (a : Nat) (l : List Byte) : (s.wr a l).aud = s.aud := rfl
@[simp] theorem State.wr_evr (s : State) (a : Nat) (l : List Byte) : (s.wr a l).evr = s.evr := rfl
@[simp] theorem State.wr_pwr (s : State) (a : Nat) (l : List Byte) : (s.wr a l).pwr = s.pwr := rfl
@[simp] theorem State.wr_parts (s : State) (a : Nat) (l : List Byte) : (s.wr a l).parts = s.parts := rfl
@[simp] theorem State.wr_clusters (s : State) (a : Nat) (l : List Byte) : (s.wr a l).clusters = s.clusters := rfl
@[simp] theorem State.wr_cores (s : State) (a : Nat) (l : List Byte) : (s.wr a l).cores = s.cores := rfl
@[simp] theorem State.wr_pending (s : State) (a : Nat) (l : List Byte) : (s.wr a l).pending = s.pending := rfl

/-! ### zero -/

@[simp] theorem State.zero_time (s : State) (a n : Nat) : (s.zero a n).time = s.time := rfl
@[simp] theorem State.zero_draw (s : State) (a n : Nat) : (s.zero a n).draw = s.draw := rfl
@[simp] theorem State.zero_bus (s : State) (a n : Nat) : (s.zero a n).bus = s.bus := rfl
@[simp] theorem State.zero_badLine (s : State) (a n : Nat) : (s.zero a n).badLine = s.badLine := rfl
@[simp] theorem State.zero_mem (s : State) (a n : Nat) : (s.zero a n).mem = tclear s.mem a n := rfl
@[simp] theorem State.zero_flash (s : State) (a n : Nat) : (s.zero a n).flash = s.flash := rfl
@[simp] theorem State.zero_mgt (s : State) (a n : Nat) : (s.zero a n).mgt = s.mgt := rfl
@[simp] theorem State.zero_frm (s : State) (a n : Nat) : (s.zero a n).frm = s.frm := rfl
@[simp] theorem State.zero_cfg (s : State) (a n : Nat) : (s.zero a n).cfg = s.cfg := rfl
@[simp] theorem State.zero_stm (s : State) (a n : Nat) : (s.zero a n).stm = s.stm := rfl
@[simp] theorem State.zero_mig (s : State) (a n : Nat) : (s.zero a n).mig = s.mig := rfl
@[simp] theorem State.zero_sAlloc (s : State) (a n : Nat) : (s.zero a n).sAlloc = s.sAlloc := rfl
@[simp] theorem State.zero_bAlloc (s : State) (a n : Nat) : (s.zero a n).bAlloc = s.bAlloc := rfl
@[simp] theorem State.zero_bmp (s : State) (a n : Nat) : (s.zero a n).bmp = s.bmp := rfl
@[simp] theorem State.zero_hlk (s : State) (a n : Nat) : (s.zero a n).hlk = s.hlk := rfl
@[simp] theorem State.zero_dma (s : State) (a n : Nat) : (s.zero a n).dma = s.dma := rfl
@[simp] theorem State.zero_chans (s : State) (a n : Nat) : (s.zero a n).chans = s.chans := rfl
@[simp] theorem State.zero_upd (s : State) (a n : Nat) : (s.zero a n).upd = s.upd := rfl
@[simp] theorem State.zero_ing (s : State) (a n : Nat) : (s.zero a n).ing = s.ing := rfl
@[simp] theorem State.zero_plk (s : State) (a n : Nat) : (s.zero a n).plk = s.plk := rfl
@[simp] theorem State.zero_aud (s : State) (a n : Nat) : (s.zero a n).aud = s.aud := rfl
@[simp] theorem State.zero_evr (s : State) (a n : Nat) : (s.zero a n).evr = s.evr := rfl
@[simp] theorem State.zero_pwr (s : State) (a n : Nat) : (s.zero a n).pwr = s.pwr := rfl
@[simp] theorem State.zero_parts (s : State) (a n : Nat) : (s.zero a n).parts = s.parts := rfl
@[simp] theorem State.zero_clusters (s : State) (a n : Nat) : (s.zero a n).clusters = s.clusters := rfl
@[simp] theorem State.zero_cores (s : State) (a n : Nat) : (s.zero a n).cores = s.cores := rfl
@[simp] theorem State.zero_pending (s : State) (a n : Nat) : (s.zero a n).pending = s.pending := rfl

/-! ### copyMem -/

@[simp] theorem State.copyMem_time (s : State) (a b n : Nat) : (s.copyMem a b n).time = s.time := rfl
@[simp] theorem State.copyMem_draw (s : State) (a b n : Nat) : (s.copyMem a b n).draw = s.draw := rfl
@[simp] theorem State.copyMem_bus (s : State) (a b n : Nat) : (s.copyMem a b n).bus = s.bus := rfl
@[simp] theorem State.copyMem_badLine (s : State) (a b n : Nat) : (s.copyMem a b n).badLine = s.badLine := rfl
@[simp] theorem State.copyMem_mem (s : State) (a b n : Nat) : (s.copyMem a b n).mem = tcopy s.mem a b n := rfl
@[simp] theorem State.copyMem_flash (s : State) (a b n : Nat) : (s.copyMem a b n).flash = s.flash := rfl
@[simp] theorem State.copyMem_mgt (s : State) (a b n : Nat) : (s.copyMem a b n).mgt = s.mgt := rfl
@[simp] theorem State.copyMem_frm (s : State) (a b n : Nat) : (s.copyMem a b n).frm = s.frm := rfl
@[simp] theorem State.copyMem_cfg (s : State) (a b n : Nat) : (s.copyMem a b n).cfg = s.cfg := rfl
@[simp] theorem State.copyMem_stm (s : State) (a b n : Nat) : (s.copyMem a b n).stm = s.stm := rfl
@[simp] theorem State.copyMem_mig (s : State) (a b n : Nat) : (s.copyMem a b n).mig = s.mig := rfl
@[simp] theorem State.copyMem_sAlloc (s : State) (a b n : Nat) : (s.copyMem a b n).sAlloc = s.sAlloc := rfl
@[simp] theorem State.copyMem_bAlloc (s : State) (a b n : Nat) : (s.copyMem a b n).bAlloc = s.bAlloc := rfl
@[simp] theorem State.copyMem_bmp (s : State) (a b n : Nat) : (s.copyMem a b n).bmp = s.bmp := rfl
@[simp] theorem State.copyMem_hlk (s : State) (a b n : Nat) : (s.copyMem a b n).hlk = s.hlk := rfl
@[simp] theorem State.copyMem_dma (s : State) (a b n : Nat) : (s.copyMem a b n).dma = s.dma := rfl
@[simp] theorem State.copyMem_chans (s : State) (a b n : Nat) : (s.copyMem a b n).chans = s.chans := rfl
@[simp] theorem State.copyMem_upd (s : State) (a b n : Nat) : (s.copyMem a b n).upd = s.upd := rfl
@[simp] theorem State.copyMem_ing (s : State) (a b n : Nat) : (s.copyMem a b n).ing = s.ing := rfl
@[simp] theorem State.copyMem_plk (s : State) (a b n : Nat) : (s.copyMem a b n).plk = s.plk := rfl
@[simp] theorem State.copyMem_aud (s : State) (a b n : Nat) : (s.copyMem a b n).aud = s.aud := rfl
@[simp] theorem State.copyMem_evr (s : State) (a b n : Nat) : (s.copyMem a b n).evr = s.evr := rfl
@[simp] theorem State.copyMem_pwr (s : State) (a b n : Nat) : (s.copyMem a b n).pwr = s.pwr := rfl
@[simp] theorem State.copyMem_parts (s : State) (a b n : Nat) : (s.copyMem a b n).parts = s.parts := rfl
@[simp] theorem State.copyMem_clusters (s : State) (a b n : Nat) : (s.copyMem a b n).clusters = s.clusters := rfl
@[simp] theorem State.copyMem_cores (s : State) (a b n : Nat) : (s.copyMem a b n).cores = s.cores := rfl
@[simp] theorem State.copyMem_pending (s : State) (a b n : Nat) : (s.copyMem a b n).pending = s.pending := rfl

/-! ### flWr -/

@[simp] theorem State.flWr_time (s : State) (a : Nat) (l : List Byte) : (s.flWr a l).time = s.time := rfl
@[simp] theorem State.flWr_draw (s : State) (a : Nat) (l : List Byte) : (s.flWr a l).draw = s.draw := rfl
@[simp] theorem State.flWr_bus (s : State) (a : Nat) (l : List Byte) : (s.flWr a l).bus = s.bus := rfl
@[simp] theorem State.flWr_badLine (s : State) (a : Nat) (l : List Byte) : (s.flWr a l).badLine = s.badLine := rfl
@[simp] theorem State.flWr_mem (s : State) (a : Nat) (l : List Byte) : (s.flWr a l).mem = s.mem := rfl
@[simp] theorem State.flWr_flash (s : State) (a : Nat) (l : List Byte) : (s.flWr a l).flash = wrBytes s.flash a l := rfl
@[simp] theorem State.flWr_mgt (s : State) (a : Nat) (l : List Byte) : (s.flWr a l).mgt = s.mgt := rfl
@[simp] theorem State.flWr_frm (s : State) (a : Nat) (l : List Byte) : (s.flWr a l).frm = s.frm := rfl
@[simp] theorem State.flWr_cfg (s : State) (a : Nat) (l : List Byte) : (s.flWr a l).cfg = s.cfg := rfl
@[simp] theorem State.flWr_stm (s : State) (a : Nat) (l : List Byte) : (s.flWr a l).stm = s.stm := rfl
@[simp] theorem State.flWr_mig (s : State) (a : Nat) (l : List Byte) : (s.flWr a l).mig = s.mig := rfl
@[simp] theorem State.flWr_sAlloc (s : State) (a : Nat) (l : List Byte) : (s.flWr a l).sAlloc = s.sAlloc := rfl
@[simp] theorem State.flWr_bAlloc (s : State) (a : Nat) (l : List Byte) : (s.flWr a l).bAlloc = s.bAlloc := rfl
@[simp] theorem State.flWr_bmp (s : State) (a : Nat) (l : List Byte) : (s.flWr a l).bmp = s.bmp := rfl
@[simp] theorem State.flWr_hlk (s : State) (a : Nat) (l : List Byte) : (s.flWr a l).hlk = s.hlk := rfl
@[simp] theorem State.flWr_dma (s : State) (a : Nat) (l : List Byte) : (s.flWr a l).dma = s.dma := rfl
@[simp] theorem State.flWr_chans (s : State) (a : Nat) (l : List Byte) : (s.flWr a l).chans = s.chans := rfl
@[simp] theorem State.flWr_upd (s : State) (a : Nat) (l : List Byte) : (s.flWr a l).upd = s.upd := rfl
@[simp] theorem State.flWr_ing (s : State) (a : Nat) (l : List Byte) : (s.flWr a l).ing = s.ing := rfl
@[simp] theorem State.flWr_plk (s : State) (a : Nat) (l : List Byte) : (s.flWr a l).plk = s.plk := rfl
@[simp] theorem State.flWr_aud (s : State) (a : Nat) (l : List Byte) : (s.flWr a l).aud = s.aud := rfl
@[simp] theorem State.flWr_evr (s : State) (a : Nat) (l : List Byte) : (s.flWr a l).evr = s.evr := rfl
@[simp] theorem State.flWr_pwr (s : State) (a : Nat) (l : List Byte) : (s.flWr a l).pwr = s.pwr := rfl
@[simp] theorem State.flWr_parts (s : State) (a : Nat) (l : List Byte) : (s.flWr a l).parts = s.parts := rfl
@[simp] theorem State.flWr_clusters (s : State) (a : Nat) (l : List Byte) : (s.flWr a l).clusters = s.clusters := rfl
@[simp] theorem State.flWr_cores (s : State) (a : Nat) (l : List Byte) : (s.flWr a l).cores = s.cores := rfl
@[simp] theorem State.flWr_pending (s : State) (a : Nat) (l : List Byte) : (s.flWr a l).pending = s.pending := rfl

/-! ### drawNext -/

@[simp] theorem State.drawNext_time (s : State) : (s.drawNext).time = s.time := rfl
@[simp] theorem State.drawNext_draw (s : State) : (s.drawNext).draw = s.draw + 1 := rfl
@[simp] theorem State.drawNext_bus (s : State) : (s.drawNext).bus = s.bus := rfl
@[simp] theorem State.drawNext_badLine (s : State) : (s.drawNext).badLine = s.badLine := rfl
@[simp] theorem State.drawNext_mem (s : State) : (s.drawNext).mem = s.mem := rfl
@[simp] theorem State.drawNext_flash (s : State) : (s.drawNext).flash = s.flash := rfl
@[simp] theorem State.drawNext_mgt (s : State) : (s.drawNext).mgt = s.mgt := rfl
@[simp] theorem State.drawNext_frm (s : State) : (s.drawNext).frm = s.frm := rfl
@[simp] theorem State.drawNext_cfg (s : State) : (s.drawNext).cfg = s.cfg := rfl
@[simp] theorem State.drawNext_stm (s : State) : (s.drawNext).stm = s.stm := rfl
@[simp] theorem State.drawNext_mig (s : State) : (s.drawNext).mig = s.mig := rfl
@[simp] theorem State.drawNext_sAlloc (s : State) : (s.drawNext).sAlloc = s.sAlloc := rfl
@[simp] theorem State.drawNext_bAlloc (s : State) : (s.drawNext).bAlloc = s.bAlloc := rfl
@[simp] theorem State.drawNext_bmp (s : State) : (s.drawNext).bmp = s.bmp := rfl
@[simp] theorem State.drawNext_hlk (s : State) : (s.drawNext).hlk = s.hlk := rfl
@[simp] theorem State.drawNext_dma (s : State) : (s.drawNext).dma = s.dma := rfl
@[simp] theorem State.drawNext_chans (s : State) : (s.drawNext).chans = s.chans := rfl
@[simp] theorem State.drawNext_upd (s : State) : (s.drawNext).upd = s.upd := rfl
@[simp] theorem State.drawNext_ing (s : State) : (s.drawNext).ing = s.ing := rfl
@[simp] theorem State.drawNext_plk (s : State) : (s.drawNext).plk = s.plk := rfl
@[simp] theorem State.drawNext_aud (s : State) : (s.drawNext).aud = s.aud := rfl
@[simp] theorem State.drawNext_evr (s : State) : (s.drawNext).evr = s.evr := rfl
@[simp] theorem State.drawNext_pwr (s : State) : (s.drawNext).pwr = s.pwr := rfl
@[simp] theorem State.drawNext_parts (s : State) : (s.drawNext).parts = s.parts := rfl
@[simp] theorem State.drawNext_clusters (s : State) : (s.drawNext).clusters = s.clusters := rfl
@[simp] theorem State.drawNext_cores (s : State) : (s.drawNext).cores = s.cores := rfl
@[simp] theorem State.drawNext_pending (s : State) : (s.drawNext).pending = s.pending := rfl

/-! ### alert -/

@[simp] theorem State.alert_time (s : State) (i : Nat) : (s.alert i).time = s.time := rfl
@[simp] theorem State.alert_draw (s : State) (i : Nat) : (s.alert i).draw = s.draw := rfl
@[simp] theorem State.alert_bus (s : State) (i : Nat) : (s.alert i).bus = s.bus := rfl
@[simp] theorem State.alert_badLine (s : State) (i : Nat) : (s.alert i).badLine = s.badLine := rfl
@[simp] theorem State.alert_mem (s : State) (i : Nat) : (s.alert i).mem = s.mem := rfl
@[simp] theorem State.alert_flash (s : State) (i : Nat) : (s.alert i).flash = s.flash := rfl
@[simp] theorem State.alert_mgt (s : State) (i : Nat) : (s.alert i).mgt = s.mgt := rfl
@[simp] theorem State.alert_frm (s : State) (i : Nat) : (s.alert i).frm = s.frm := rfl
@[simp] theorem State.alert_cfg (s : State) (i : Nat) : (s.alert i).cfg = s.cfg := rfl
@[simp] theorem State.alert_stm (s : State) (i : Nat) : (s.alert i).stm = s.stm := rfl
@[simp] theorem State.alert_mig (s : State) (i : Nat) : (s.alert i).mig = s.mig := rfl
@[simp] theorem State.alert_sAlloc (s : State) (i : Nat) : (s.alert i).sAlloc = s.sAlloc := rfl
@[simp] theorem State.alert_bAlloc (s : State) (i : Nat) : (s.alert i).bAlloc = s.bAlloc := rfl
@[simp] theorem State.alert_bmp (s : State) (i : Nat) : (s.alert i).bmp = s.bmp := rfl
@[simp] theorem State.alert_hlk (s : State) (i : Nat) : (s.alert i).hlk = s.hlk := rfl
@[simp] theorem State.alert_dma (s : State) (i : Nat) : (s.alert i).dma = s.dma := rfl
@[simp] theorem State.alert_chans (s : State) (i : Nat) : (s.alert i).chans = s.chans := rfl
@[simp] theorem State.alert_upd (s : State) (i : Nat) : (s.alert i).upd = s.upd := rfl
@[simp] theorem State.alert_ing (s : State) (i : Nat) : (s.alert i).ing = s.ing := rfl
@[simp] theorem State.alert_plk (s : State) (i : Nat) : (s.alert i).plk = s.plk := rfl
@[simp] theorem State.alert_aud (s : State) (i : Nat) : (s.alert i).aud = s.aud := rfl
@[simp] theorem State.alert_evr (s : State) (i : Nat) : (s.alert i).evr = s.evr := rfl
@[simp] theorem State.alert_pwr (s : State) (i : Nat) : (s.alert i).pwr = { s.pwr with alert := s.pwr.alert ||| BitVec.ofNat 6 (2 ^ i) } := rfl
@[simp] theorem State.alert_parts (s : State) (i : Nat) : (s.alert i).parts = s.parts := rfl
@[simp] theorem State.alert_clusters (s : State) (i : Nat) : (s.alert i).clusters = s.clusters := rfl
@[simp] theorem State.alert_cores (s : State) (i : Nat) : (s.alert i).cores = s.cores := rfl
@[simp] theorem State.alert_pending (s : State) (i : Nat) : (s.alert i).pending = s.pending := rfl

/-! ## Reads after an update of the same kind -/

@[simp] theorem State.part_modPart_self (s : State) (k : Nat) (f : Part → Part) : (s.modPart k f).part k = f (s.part k) :=
  tget_tmod_self _ _ _ _
theorem State.part_modPart (s : State) (k : Nat) (f : Part → Part) (j : Nat) :
    (s.modPart k f).part j = if j = k then f (s.part k) else s.part j := tget_tmod _ _ _ _ _
@[simp] theorem State.cluster_modCluster_self (s : State) (k : Nat) (f : Cluster → Cluster) : (s.modCluster k f).cluster k = f (s.cluster k) :=
  tget_tmod_self _ _ _ _
theorem State.cluster_modCluster (s : State) (k : Nat) (f : Cluster → Cluster) (j : Nat) :
    (s.modCluster k f).cluster j = if j = k then f (s.cluster k) else s.cluster j := tget_tmod _ _ _ _ _
@[simp] theorem State.core_modCore_self (s : State) (k : Nat) (f : Core → Core) : (s.modCore k f).core k = f (s.core k) :=
  tget_tmod_self _ _ _ _
theorem State.core_modCore (s : State) (k : Nat) (f : Core → Core) (j : Nat) :
    (s.modCore k f).core j = if j = k then f (s.core k) else s.core j := tget_tmod _ _ _ _ _
@[simp] theorem State.stream_modStream_self (s : State) (k : Nat) (f : Stream → Stream) : (s.modStream k f).stream k = f (s.stream k) :=
  tget_tmod_self _ _ _ _
theorem State.stream_modStream (s : State) (k : Nat) (f : Stream → Stream) (j : Nat) :
    (s.modStream k f).stream j = if j = k then f (s.stream k) else s.stream j := tget_tmod _ _ _ _ _
@[simp] theorem State.migOf_modMig_self (s : State) (k : Nat) (f : Mig → Mig) : (s.modMig k f).migOf k = f (s.migOf k) :=
  tget_tmod_self _ _ _ _
theorem State.migOf_modMig (s : State) (k : Nat) (f : Mig → Mig) (j : Nat) :
    (s.modMig k f).migOf j = if j = k then f (s.migOf k) else s.migOf j := tget_tmod _ _ _ _ _
@[simp] theorem State.bmpOf_modBmp_self (s : State) (k : Nat) (f : Bmp → Bmp) : (s.modBmp k f).bmpOf k = f (s.bmpOf k) :=
  tget_tmod_self _ _ _ _
theorem State.bmpOf_modBmp (s : State) (k : Nat) (f : Bmp → Bmp) (j : Nat) :
    (s.modBmp k f).bmpOf j = if j = k then f (s.bmpOf k) else s.bmpOf j := tget_tmod _ _ _ _ _
@[simp] theorem State.dmaOf_modDma_self (s : State) (k : Nat) (f : DmaDie → DmaDie) : (s.modDma k f).dmaOf k = f (s.dmaOf k) :=
  tget_tmod_self _ _ _ _
theorem State.dmaOf_modDma (s : State) (k : Nat) (f : DmaDie → DmaDie) (j : Nat) :
    (s.modDma k f).dmaOf j = if j = k then f (s.dmaOf k) else s.dmaOf j := tget_tmod _ _ _ _ _
@[simp] theorem State.chan_modChan_self (s : State) (k : Nat) (f : Chan → Chan) : (s.modChan k f).chan k = f (s.chan k) :=
  tget_tmod_self _ _ _ _
theorem State.chan_modChan (s : State) (k : Nat) (f : Chan → Chan) (j : Nat) :
    (s.modChan k f).chan j = if j = k then f (s.chan k) else s.chan j := tget_tmod _ _ _ _ _
@[simp] theorem State.updOf_modUpd_self (s : State) (k : Nat) (f : Upd → Upd) : (s.modUpd k f).updOf k = f (s.updOf k) :=
  tget_tmod_self _ _ _ _
theorem State.updOf_modUpd (s : State) (k : Nat) (f : Upd → Upd) (j : Nat) :
    (s.modUpd k f).updOf j = if j = k then f (s.updOf k) else s.updOf j := tget_tmod _ _ _ _ _
@[simp] theorem State.ingOf_modIng_self (s : State) (k : Nat) (f : Ing → Ing) : (s.modIng k f).ingOf k = f (s.ingOf k) :=
  tget_tmod_self _ _ _ _
theorem State.ingOf_modIng (s : State) (k : Nat) (f : Ing → Ing) (j : Nat) :
    (s.modIng k f).ingOf j = if j = k then f (s.ingOf k) else s.ingOf j := tget_tmod _ _ _ _ _
@[simp] theorem State.mgtOf_modMgt_self (s : State) (k : Nat) (f : Mgt → Mgt) : (s.modMgt k f).mgtOf k = f (s.mgtOf k) :=
  tget_tmod_self _ _ _ _
theorem State.mgtOf_modMgt (s : State) (k : Nat) (f : Mgt → Mgt) (j : Nat) :
    (s.modMgt k f).mgtOf j = if j = k then f (s.mgtOf k) else s.mgtOf j := tget_tmod _ _ _ _ _
@[simp] theorem State.group_modGroup_self (s : State) (k : Nat) (f : LockGroup → LockGroup) : (s.modGroup k f).group k = f (s.group k) :=
  tget_tmod_self _ _ _ _
theorem State.group_modGroup (s : State) (k : Nat) (f : LockGroup → LockGroup) (j : Nat) :
    (s.modGroup k f).group j = if j = k then f (s.group k) else s.group j := tget_tmod _ _ _ _ _
@[simp] theorem State.pq_modPq_self (s : State) (k : Nat) (f : PeerQ → PeerQ) : (s.modPq k f).pq k = f (s.pq k) :=
  tget_tmod_self _ _ _ _
theorem State.pq_modPq (s : State) (k : Nat) (f : PeerQ → PeerQ) (j : Nat) :
    (s.modPq k f).pq j = if j = k then f (s.pq k) else s.pq j := tget_tmod _ _ _ _ _
@[simp] theorem State.pport_modPport_self (s : State) (k : Nat) (f : PeerPort → PeerPort) : (s.modPport k f).pport k = f (s.pport k) :=
  tget_tmod_self _ _ _ _
theorem State.pport_modPport (s : State) (k : Nat) (f : PeerPort → PeerPort) (j : Nat) :
    (s.modPport k f).pport j = if j = k then f (s.pport k) else s.pport j := tget_tmod _ _ _ _ _

/-! ## Shared operations: the recorder, the clock, the measurement log -/

@[simp] theorem State.event_time (s : State) (c x v : Nat) : (s.event c x v).time = s.time := by
  unfold State.event; split <;> (try split) <;> rfl
@[simp] theorem State.event_draw (s : State) (c x v : Nat) : (s.event c x v).draw = s.draw := by
  unfold State.event; split <;> (try split) <;> rfl
@[simp] theorem State.event_bus (s : State) (c x v : Nat) : (s.event c x v).bus = s.bus := by
  unfold State.event; split <;> (try split) <;> rfl
@[simp] theorem State.event_badLine (s : State) (c x v : Nat) : (s.event c x v).badLine = s.badLine := by
  unfold State.event; split <;> (try split) <;> rfl
@[simp] theorem State.event_mem (s : State) (c x v : Nat) : (s.event c x v).mem = s.mem := by
  unfold State.event; split <;> (try split) <;> rfl
@[simp] theorem State.event_flash (s : State) (c x v : Nat) : (s.event c x v).flash = s.flash := by
  unfold State.event; split <;> (try split) <;> rfl
@[simp] theorem State.event_mgt (s : State) (c x v : Nat) : (s.event c x v).mgt = s.mgt := by
  unfold State.event; split <;> (try split) <;> rfl
@[simp] theorem State.event_frm (s : State) (c x v : Nat) : (s.event c x v).frm = s.frm := by
  unfold State.event; split <;> (try split) <;> rfl
@[simp] theorem State.event_cfg (s : State) (c x v : Nat) : (s.event c x v).cfg = s.cfg := by
  unfold State.event; split <;> (try split) <;> rfl
@[simp] theorem State.event_stm (s : State) (c x v : Nat) : (s.event c x v).stm = s.stm := by
  unfold State.event; split <;> (try split) <;> rfl
@[simp] theorem State.event_mig (s : State) (c x v : Nat) : (s.event c x v).mig = s.mig := by
  unfold State.event; split <;> (try split) <;> rfl
@[simp] theorem State.event_sAlloc (s : State) (c x v : Nat) : (s.event c x v).sAlloc = s.sAlloc := by
  unfold State.event; split <;> (try split) <;> rfl
@[simp] theorem State.event_bAlloc (s : State) (c x v : Nat) : (s.event c x v).bAlloc = s.bAlloc := by
  unfold State.event; split <;> (try split) <;> rfl
@[simp] theorem State.event_bmp (s : State) (c x v : Nat) : (s.event c x v).bmp = s.bmp := by
  unfold State.event; split <;> (try split) <;> rfl
@[simp] theorem State.event_hlk (s : State) (c x v : Nat) : (s.event c x v).hlk = s.hlk := by
  unfold State.event; split <;> (try split) <;> rfl
@[simp] theorem State.event_dma (s : State) (c x v : Nat) : (s.event c x v).dma = s.dma := by
  unfold State.event; split <;> (try split) <;> rfl
@[simp] theorem State.event_chans (s : State) (c x v : Nat) : (s.event c x v).chans = s.chans := by
  unfold State.event; split <;> (try split) <;> rfl
@[simp] theorem State.event_upd (s : State) (c x v : Nat) : (s.event c x v).upd = s.upd := by
  unfold State.event; split <;> (try split) <;> rfl
@[simp] theorem State.event_ing (s : State) (c x v : Nat) : (s.event c x v).ing = s.ing := by
  unfold State.event; split <;> (try split) <;> rfl
@[simp] theorem State.event_plk (s : State) (c x v : Nat) : (s.event c x v).plk = s.plk := by
  unfold State.event; split <;> (try split) <;> rfl
@[simp] theorem State.event_aud (s : State) (c x v : Nat) : (s.event c x v).aud = s.aud := by
  unfold State.event; split <;> (try split) <;> rfl
@[simp] theorem State.event_pwr (s : State) (c x v : Nat) : (s.event c x v).pwr = s.pwr := by
  unfold State.event; split <;> (try split) <;> rfl
@[simp] theorem State.event_parts (s : State) (c x v : Nat) : (s.event c x v).parts = s.parts := by
  unfold State.event; split <;> (try split) <;> rfl
@[simp] theorem State.event_clusters (s : State) (c x v : Nat) : (s.event c x v).clusters = s.clusters := by
  unfold State.event; split <;> (try split) <;> rfl
@[simp] theorem State.event_cores (s : State) (c x v : Nat) : (s.event c x v).cores = s.cores := by
  unfold State.event; split <;> (try split) <;> rfl
@[simp] theorem State.event_pending (s : State) (c x v : Nat) : (s.event c x v).pending = s.pending := by
  unfold State.event; split <;> (try split) <;> rfl
@[simp] theorem State.charge_time (s : State) (n : Nat) : (s.charge n).time = s.time := by
  unfold State.charge; dsimp only; split <;> simp
@[simp] theorem State.charge_draw (s : State) (n : Nat) : (s.charge n).draw = s.draw := by
  unfold State.charge; dsimp only; split <;> simp
@[simp] theorem State.charge_bus (s : State) (n : Nat) : (s.charge n).bus = s.bus := by
  unfold State.charge; dsimp only; split <;> simp
@[simp] theorem State.charge_badLine (s : State) (n : Nat) : (s.charge n).badLine = s.badLine := by
  unfold State.charge; dsimp only; split <;> simp
@[simp] theorem State.charge_mem (s : State) (n : Nat) : (s.charge n).mem = s.mem := by
  unfold State.charge; dsimp only; split <;> simp
@[simp] theorem State.charge_flash (s : State) (n : Nat) : (s.charge n).flash = s.flash := by
  unfold State.charge; dsimp only; split <;> simp
@[simp] theorem State.charge_mgt (s : State) (n : Nat) : (s.charge n).mgt = s.mgt := by
  unfold State.charge; dsimp only; split <;> simp
@[simp] theorem State.charge_frm (s : State) (n : Nat) : (s.charge n).frm = s.frm := by
  unfold State.charge; dsimp only; split <;> simp
@[simp] theorem State.charge_cfg (s : State) (n : Nat) : (s.charge n).cfg = s.cfg := by
  unfold State.charge; dsimp only; split <;> simp
@[simp] theorem State.charge_stm (s : State) (n : Nat) : (s.charge n).stm = s.stm := by
  unfold State.charge; dsimp only; split <;> simp
@[simp] theorem State.charge_mig (s : State) (n : Nat) : (s.charge n).mig = s.mig := by
  unfold State.charge; dsimp only; split <;> simp
@[simp] theorem State.charge_sAlloc (s : State) (n : Nat) : (s.charge n).sAlloc = s.sAlloc := by
  unfold State.charge; dsimp only; split <;> simp
@[simp] theorem State.charge_bAlloc (s : State) (n : Nat) : (s.charge n).bAlloc = s.bAlloc := by
  unfold State.charge; dsimp only; split <;> simp
@[simp] theorem State.charge_bmp (s : State) (n : Nat) : (s.charge n).bmp = s.bmp := by
  unfold State.charge; dsimp only; split <;> simp
@[simp] theorem State.charge_hlk (s : State) (n : Nat) : (s.charge n).hlk = s.hlk := by
  unfold State.charge; dsimp only; split <;> simp
@[simp] theorem State.charge_dma (s : State) (n : Nat) : (s.charge n).dma = s.dma := by
  unfold State.charge; dsimp only; split <;> simp
@[simp] theorem State.charge_chans (s : State) (n : Nat) : (s.charge n).chans = s.chans := by
  unfold State.charge; dsimp only; split <;> simp
@[simp] theorem State.charge_upd (s : State) (n : Nat) : (s.charge n).upd = s.upd := by
  unfold State.charge; dsimp only; split <;> simp
@[simp] theorem State.charge_ing (s : State) (n : Nat) : (s.charge n).ing = s.ing := by
  unfold State.charge; dsimp only; split <;> simp
@[simp] theorem State.charge_plk (s : State) (n : Nat) : (s.charge n).plk = s.plk := by
  unfold State.charge; dsimp only; split <;> simp
@[simp] theorem State.charge_pwr (s : State) (n : Nat) : (s.charge n).pwr = s.pwr := by
  unfold State.charge; dsimp only; split <;> simp
@[simp] theorem State.charge_parts (s : State) (n : Nat) : (s.charge n).parts = s.parts := by
  unfold State.charge; dsimp only; split <;> simp
@[simp] theorem State.charge_clusters (s : State) (n : Nat) : (s.charge n).clusters = s.clusters := by
  unfold State.charge; dsimp only; split <;> simp
@[simp] theorem State.charge_cores (s : State) (n : Nat) : (s.charge n).cores = s.cores := by
  unfold State.charge; dsimp only; split <;> simp
@[simp] theorem State.charge_pending (s : State) (n : Nat) : (s.charge n).pending = s.pending := by
  unfold State.charge; dsimp only; split <;> simp
@[simp] theorem State.advanceTo_draw (s : State) (t : Nat) : (s.advanceTo t).draw = s.draw := by
  unfold State.advanceTo; split <;> simp
@[simp] theorem State.advanceTo_bus (s : State) (t : Nat) : (s.advanceTo t).bus = s.bus := by
  unfold State.advanceTo; split <;> simp
@[simp] theorem State.advanceTo_badLine (s : State) (t : Nat) : (s.advanceTo t).badLine = s.badLine := by
  unfold State.advanceTo; split <;> simp
@[simp] theorem State.advanceTo_mem (s : State) (t : Nat) : (s.advanceTo t).mem = s.mem := by
  unfold State.advanceTo; split <;> simp
@[simp] theorem State.advanceTo_flash (s : State) (t : Nat) : (s.advanceTo t).flash = s.flash := by
  unfold State.advanceTo; split <;> simp
@[simp] theorem State.advanceTo_mgt (s : State) (t : Nat) : (s.advanceTo t).mgt = s.mgt := by
  unfold State.advanceTo; split <;> simp
@[simp] theorem State.advanceTo_frm (s : State) (t : Nat) : (s.advanceTo t).frm = s.frm := by
  unfold State.advanceTo; split <;> simp
@[simp] theorem State.advanceTo_cfg (s : State) (t : Nat) : (s.advanceTo t).cfg = s.cfg := by
  unfold State.advanceTo; split <;> simp
@[simp] theorem State.advanceTo_stm (s : State) (t : Nat) : (s.advanceTo t).stm = s.stm := by
  unfold State.advanceTo; split <;> simp
@[simp] theorem State.advanceTo_mig (s : State) (t : Nat) : (s.advanceTo t).mig = s.mig := by
  unfold State.advanceTo; split <;> simp
@[simp] theorem State.advanceTo_sAlloc (s : State) (t : Nat) : (s.advanceTo t).sAlloc = s.sAlloc := by
  unfold State.advanceTo; split <;> simp
@[simp] theorem State.advanceTo_bAlloc (s : State) (t : Nat) : (s.advanceTo t).bAlloc = s.bAlloc := by
  unfold State.advanceTo; split <;> simp
@[simp] theorem State.advanceTo_bmp (s : State) (t : Nat) : (s.advanceTo t).bmp = s.bmp := by
  unfold State.advanceTo; split <;> simp
@[simp] theorem State.advanceTo_hlk (s : State) (t : Nat) : (s.advanceTo t).hlk = s.hlk := by
  unfold State.advanceTo; split <;> simp
@[simp] theorem State.advanceTo_dma (s : State) (t : Nat) : (s.advanceTo t).dma = s.dma := by
  unfold State.advanceTo; split <;> simp
@[simp] theorem State.advanceTo_chans (s : State) (t : Nat) : (s.advanceTo t).chans = s.chans := by
  unfold State.advanceTo; split <;> simp
@[simp] theorem State.advanceTo_upd (s : State) (t : Nat) : (s.advanceTo t).upd = s.upd := by
  unfold State.advanceTo; split <;> simp
@[simp] theorem State.advanceTo_ing (s : State) (t : Nat) : (s.advanceTo t).ing = s.ing := by
  unfold State.advanceTo; split <;> simp
@[simp] theorem State.advanceTo_plk (s : State) (t : Nat) : (s.advanceTo t).plk = s.plk := by
  unfold State.advanceTo; split <;> simp
@[simp] theorem State.advanceTo_pwr (s : State) (t : Nat) : (s.advanceTo t).pwr = s.pwr := by
  unfold State.advanceTo; split <;> simp
@[simp] theorem State.advanceTo_parts (s : State) (t : Nat) : (s.advanceTo t).parts = s.parts := by
  unfold State.advanceTo; split <;> simp
@[simp] theorem State.advanceTo_clusters (s : State) (t : Nat) : (s.advanceTo t).clusters = s.clusters := by
  unfold State.advanceTo; split <;> simp
@[simp] theorem State.advanceTo_cores (s : State) (t : Nat) : (s.advanceTo t).cores = s.cores := by
  unfold State.advanceTo; split <;> simp
@[simp] theorem State.advanceTo_pending (s : State) (t : Nat) : (s.advanceTo t).pending = s.pending := by
  unfold State.advanceTo; split <;> simp
@[simp] theorem State.measure_time (s : State) (k : Nat) (r : Status) (l : List Byte) (d : W64) :
    (s.measure k r l d).time = s.time := by
  unfold State.measure; dsimp only; split <;> simp
@[simp] theorem State.measure_draw (s : State) (k : Nat) (r : Status) (l : List Byte) (d : W64) :
    (s.measure k r l d).draw = s.draw := by
  unfold State.measure; dsimp only; split <;> simp
@[simp] theorem State.measure_bus (s : State) (k : Nat) (r : Status) (l : List Byte) (d : W64) :
    (s.measure k r l d).bus = s.bus := by
  unfold State.measure; dsimp only; split <;> simp
@[simp] theorem State.measure_badLine (s : State) (k : Nat) (r : Status) (l : List Byte) (d : W64) :
    (s.measure k r l d).badLine = s.badLine := by
  unfold State.measure; dsimp only; split <;> simp
@[simp] theorem State.measure_mem (s : State) (k : Nat) (r : Status) (l : List Byte) (d : W64) :
    (s.measure k r l d).mem = s.mem := by
  unfold State.measure; dsimp only; split <;> simp
@[simp] theorem State.measure_flash (s : State) (k : Nat) (r : Status) (l : List Byte) (d : W64) :
    (s.measure k r l d).flash = s.flash := by
  unfold State.measure; dsimp only; split <;> simp
@[simp] theorem State.measure_mgt (s : State) (k : Nat) (r : Status) (l : List Byte) (d : W64) :
    (s.measure k r l d).mgt = s.mgt := by
  unfold State.measure; dsimp only; split <;> simp
@[simp] theorem State.measure_frm (s : State) (k : Nat) (r : Status) (l : List Byte) (d : W64) :
    (s.measure k r l d).frm = s.frm := by
  unfold State.measure; dsimp only; split <;> simp
@[simp] theorem State.measure_cfg (s : State) (k : Nat) (r : Status) (l : List Byte) (d : W64) :
    (s.measure k r l d).cfg = s.cfg := by
  unfold State.measure; dsimp only; split <;> simp
@[simp] theorem State.measure_stm (s : State) (k : Nat) (r : Status) (l : List Byte) (d : W64) :
    (s.measure k r l d).stm = s.stm := by
  unfold State.measure; dsimp only; split <;> simp
@[simp] theorem State.measure_mig (s : State) (k : Nat) (r : Status) (l : List Byte) (d : W64) :
    (s.measure k r l d).mig = s.mig := by
  unfold State.measure; dsimp only; split <;> simp
@[simp] theorem State.measure_sAlloc (s : State) (k : Nat) (r : Status) (l : List Byte) (d : W64) :
    (s.measure k r l d).sAlloc = s.sAlloc := by
  unfold State.measure; dsimp only; split <;> simp
@[simp] theorem State.measure_bAlloc (s : State) (k : Nat) (r : Status) (l : List Byte) (d : W64) :
    (s.measure k r l d).bAlloc = s.bAlloc := by
  unfold State.measure; dsimp only; split <;> simp
@[simp] theorem State.measure_bmp (s : State) (k : Nat) (r : Status) (l : List Byte) (d : W64) :
    (s.measure k r l d).bmp = s.bmp := by
  unfold State.measure; dsimp only; split <;> simp
@[simp] theorem State.measure_hlk (s : State) (k : Nat) (r : Status) (l : List Byte) (d : W64) :
    (s.measure k r l d).hlk = s.hlk := by
  unfold State.measure; dsimp only; split <;> simp
@[simp] theorem State.measure_dma (s : State) (k : Nat) (r : Status) (l : List Byte) (d : W64) :
    (s.measure k r l d).dma = s.dma := by
  unfold State.measure; dsimp only; split <;> simp
@[simp] theorem State.measure_chans (s : State) (k : Nat) (r : Status) (l : List Byte) (d : W64) :
    (s.measure k r l d).chans = s.chans := by
  unfold State.measure; dsimp only; split <;> simp
@[simp] theorem State.measure_upd (s : State) (k : Nat) (r : Status) (l : List Byte) (d : W64) :
    (s.measure k r l d).upd = s.upd := by
  unfold State.measure; dsimp only; split <;> simp
@[simp] theorem State.measure_ing (s : State) (k : Nat) (r : Status) (l : List Byte) (d : W64) :
    (s.measure k r l d).ing = s.ing := by
  unfold State.measure; dsimp only; split <;> simp
@[simp] theorem State.measure_plk (s : State) (k : Nat) (r : Status) (l : List Byte) (d : W64) :
    (s.measure k r l d).plk = s.plk := by
  unfold State.measure; dsimp only; split <;> simp
@[simp] theorem State.measure_aud (s : State) (k : Nat) (r : Status) (l : List Byte) (d : W64) :
    (s.measure k r l d).aud = s.aud := by
  unfold State.measure; dsimp only; split <;> simp
@[simp] theorem State.measure_parts (s : State) (k : Nat) (r : Status) (l : List Byte) (d : W64) :
    (s.measure k r l d).parts = s.parts := by
  unfold State.measure; dsimp only; split <;> simp
@[simp] theorem State.measure_clusters (s : State) (k : Nat) (r : Status) (l : List Byte) (d : W64) :
    (s.measure k r l d).clusters = s.clusters := by
  unfold State.measure; dsimp only; split <;> simp
@[simp] theorem State.measure_cores (s : State) (k : Nat) (r : Status) (l : List Byte) (d : W64) :
    (s.measure k r l d).cores = s.cores := by
  unfold State.measure; dsimp only; split <;> simp
@[simp] theorem State.measure_pending (s : State) (k : Nat) (r : Status) (l : List Byte) (d : W64) :
    (s.measure k r l d).pending = s.pending := by
  unfold State.measure; dsimp only; split <;> simp

/-- The clock after an advance: the later of the two times. -/
theorem State.advanceTo_time (s : State) (t : Nat) : (s.advanceTo t).time = Nat.max s.time t := by
  unfold State.advanceTo
  split
  · next h => exact (Nat.max_eq_left h).symm
  · next h => exact (Nat.max_eq_right (Nat.le_of_lt (Nat.lt_of_not_le h))).symm

/-- The clock never runs back in an advance. -/
theorem State.time_le_advanceTo (s : State) (t : Nat) : s.time ≤ (s.advanceTo t).time := by
  rw [State.advanceTo_time]; exact Nat.le_max_left _ _

/-- A command of the module does nothing while the clocks stand still. -/
theorem State.live_of_not_alive {s : State} (h : s.alive = false) (f : State → State) : s.live f = s := by simp [State.live, h]

@[simp] theorem State.live_of_alive {s : State} (h : s.alive = true) (f : State → State) : s.live f = f s := by simp [State.live, h]

end Sys2Proof.Machine
end

