-- ==== Sys2Proof/Laws/Memory.lean ====
section
/-! SUPPORT. Every operation on memory and flash keeps the canonical form, and what a store changes. -/
namespace Sys2Proof.Machine

theorem Memory.wf_reset : State.reset.MemOk := ⟨rfl, rfl⟩

theorem Memory.wf_wrBytes {m : Mem} (a : Nat) (l : List Byte) (h : Memory.wf m = true) : Memory.wf (wrBytes m a l) = true :=
  twf_wrBytes a l h

theorem Memory.wf_tclear {m : Mem} (a n : Nat) (h : Memory.wf m = true) : Memory.wf (tclear m a n) = true := twf_tclear a n h

theorem Memory.wf_tcopy {m : Mem} (a b n : Nat) (h : Memory.wf m = true) : Memory.wf (tcopy m a b n) = true := twf_tcopy a b n h

theorem Memory.wf_filter {m : Mem} (p : Nat × Byte → Bool) (h : Memory.wf m = true) : Memory.wf (m.filter p) = true := twf_filter p h

/-- A slice of one memory put into another (flash to HBM, HBM to flash). -/
theorem Memory.wf_slice {m f : Mem} (a n b k : Nat) (hm : Memory.wf m = true) (hf : Memory.wf f = true) :
    Memory.wf (tputAll (tclear m a n) (tslice f b n k)) = true :=
  twf_tputAll (twf_tclear a n hm) (tslice_ne hf b n k)

theorem State.memOk_wr {s : State} (a : Nat) (l : List Byte) (h : s.MemOk) : (s.wr a l).MemOk :=
  ⟨Memory.wf_wrBytes a l h.1, h.2⟩

theorem State.memOk_zero {s : State} (a n : Nat) (h : s.MemOk) : (s.zero a n).MemOk := ⟨Memory.wf_tclear a n h.1, h.2⟩

theorem State.memOk_copyMem {s : State} (a b n : Nat) (h : s.MemOk) : (s.copyMem a b n).MemOk := ⟨Memory.wf_tcopy a b n h.1, h.2⟩

theorem State.memOk_flWr {s : State} (a : Nat) (l : List Byte) (h : s.MemOk) : (s.flWr a l).MemOk :=
  ⟨h.1, Memory.wf_wrBytes a l h.2⟩

/-- An update that leaves both memories alone keeps the form. -/
theorem State.memOk_of_eq {s t : State} (h : s.MemOk) (hm : t.mem = s.mem) (hf : t.flash = s.flash) : t.MemOk := by
  unfold State.MemOk at *
  rw [hm, hf]
  exact h

/-- A loss of power and a full reset keep the form. -/
theorem State.memOk_cleared {s : State} (w : Pwr) (h : s.MemOk) : (s.cleared w).MemOk := ⟨Memory.wf_filter _ h.1, h.2⟩

/-- A store changes only the bytes it stores. -/
theorem State.memSameBut_wr (s : State) (a : Nat) (l : List Byte) : s.MemSameBut (s.wr a l) a l.length :=
  fun _ hx => tget_wrBytes_other hx

/-- What a store leaves in the bytes it stores. -/
theorem State.rd_wr (s : State) (a : Nat) (l : List Byte) : (s.wr a l).rd a l.length = l := rdBytes_wrBytes _ _ _

/-- A fold of steps that keep the form keeps it. -/
theorem State.memOk_foldl {α : Type} {f : State → α → State} (hf : ∀ s x, s.MemOk → (f s x).MemOk) (l : List α) {s : State}
    (h : s.MemOk) : (l.foldl f s).MemOk := by
  induction l generalizing s with
  | nil => exact h
  | cons x l ih => exact ih (hf s x h)

end Sys2Proof.Machine
end

