-- ==== Sys2Proof/Laws/PerInstr.lean ====
section
/-! SUPPORT. The family of laws made per command: a well-formed command names only parts that the module has. -/
namespace Sys2Proof.Laws.Wf

/-- Every number by which a well-formed command names a part is below the count of such parts. -/
def Statement (i : Instr) : Prop := i.wf = true → ∀ x ∈ i.targets, x.1 < x.2

theorem of_wf (i : Instr) : Statement i := by
  intro h x hx
  unfold Instr.wf at h
  rw [Bool.and_eq_true] at h
  exact of_decide_eq_true (List.all_eq_true.mp h.1 x hx)

theorem p42vStart (mv : Nat) : Statement (.p42vStart mv) := of_wf _
theorem railsInRegulation : Statement (.railsInRegulation) := of_wf _
theorem p42vOutOfRange (mv : Nat) : Statement (.p42vOutOfRange mv) := of_wf _
theorem lossOf42v : Statement (.lossOf42v) := of_wf _
theorem railFault : Statement (.railFault) := of_wf _
theorem thermalTrip : Statement (.thermalTrip) := of_wf _
theorem modResetAssert : Statement (.modResetAssert) := of_wf _
theorem modResetDeassert (goodUs : Nat) (assertedUs : Nat) (refStable : Bool) : Statement (.modResetDeassert goodUs assertedUs refStable) := of_wf _
theorem romIdentity (derived : BitVec 512) (certified : BitVec 512) : Statement (.romIdentity derived certified) := of_wf _
theorem fwVerify (a : Seal) (b : Seal) : Statement (.fwVerify a b) := of_wf _
theorem recorderRestore (snapA : Option SigFact) (snapB : Option SigFact) (repA : Option SigFact) (repB : Option SigFact) (okKeys : Bool) (okHelper : Bool) : Statement (.recorderRestore snapA snapB repA repB okKeys okHelper) := of_wf _
theorem arraySelfTest (bad : List (Nat × Nat)) : Statement (.arraySelfTest bad) := of_wf _
theorem hbmTraining (failed : List (Nat × Nat)) : Statement (.hbmTraining failed) := of_wf _
theorem linkTraining (ports : List PortUp) : Statement (.linkTraining ports) := of_wf _
theorem readyEntry : Statement (.readyEntry) := of_wf _
theorem smbWrite (addr : Nat) (val : W64) : Statement (.smbWrite addr val) := of_wf _
theorem smbSetReadAddress (addr : Nat) : Statement (.smbSetReadAddress addr) := of_wf _
theorem smbRead : Statement (.smbRead) := of_wf _
theorem ppsInEdge : Statement (.ppsInEdge) := of_wf _
theorem ppsOutPulse : Statement (.ppsOutPulse) := of_wf _
theorem ppsOutEnd : Statement (.ppsOutEnd) := of_wf _
theorem throttleUpdate (temps : List DieTemp) : Statement (.throttleUpdate temps) := of_wf _
theorem powerTermUpdate (avgW : Nat) : Statement (.powerTermUpdate avgW) := of_wf _
theorem currentGuardHold (ma : Nat) : Statement (.currentGuardHold ma) := of_wf _
theorem guardHoldExpiry (ma : Nat) : Statement (.guardHoldExpiry ma) := of_wf _
theorem registerWrite (addr : Nat) (width : Nat) (val : W64) : Statement (.registerWrite addr width val) := of_wf _
theorem hostRequest (r : HostReq) : Statement (.hostRequest r) := of_wf _
theorem hostWriteAck (stream : Nat) (n : Nat) : Statement (.hostWriteAck stream n) := of_wf _
theorem hostReset : Statement (.hostReset) := of_wf _
theorem hostLinkDownTimeout : Statement (.hostLinkDownTimeout) := of_wf _
theorem hostLinkUp (lanes : BitVec 4) : Statement (.hostLinkUp lanes) := of_wf _
theorem hostLinkRetrain (us : Nat) : Statement (.hostLinkRetrain us) := of_wf _
theorem hostLaneFailure (lane : Nat) : Statement (.hostLaneFailure lane) := of_wf _
theorem linkReplay (port : Port) (flits : Nat) : Statement (.linkReplay port flits) := of_wf _
theorem hlkRetrain : Statement (.hlkRetrain) := of_wf _
theorem handshake (epoch : BitVec 16) : Statement (.handshake epoch) := of_wf _
theorem holdBaseWrite (val : W64) : Statement (.holdBaseWrite val) := of_wf _
theorem frmCalWrite (val : W64) : Statement (.frmCalWrite val) := of_wf _
theorem groupBaseTick (g : Nat) : Statement (.groupBaseTick g) := of_wf _
theorem admissionCut (p : Nat) : Statement (.admissionCut p) := of_wf _
theorem decisionPoint (p : Nat) : Statement (.decisionPoint p) := of_wf _
theorem frameStart (p : Nat) : Statement (.frameStart p) := of_wf _
theorem moduleAuditPoint : Statement (.moduleAuditPoint) := of_wf _
theorem clusterFrameDone (g : Nat) : Statement (.clusterFrameDone g) := of_wf _
theorem drainRequest (g : Nat) : Statement (.drainRequest g) := of_wf _
theorem resume (p : Nat) : Statement (.resume p) := of_wf _
theorem clrslk (p : Nat) : Statement (.clrslk p) := of_wf _
theorem commandTailDoorbell (stream : Nat) (index : Nat) : Statement (.commandTailDoorbell stream index) := of_wf _
theorem completionHeadDoorbell (stream : Nat) (index : Nat) : Statement (.completionHeadDoorbell stream index) := of_wf _
theorem commandFetch (stream : Nat) : Statement (.commandFetch stream) := of_wf _
theorem commandReread (stream : Nat) : Statement (.commandReread stream) := of_wf _
theorem scmdSetStream (stream : Nat) : Statement (.scmdSetStream stream) := of_wf _
theorem arm (stream : Nat) : Statement (.arm stream) := of_wf _
theorem halt (stream : Nat) : Statement (.halt stream) := of_wf _
theorem disarm (stream : Nat) : Statement (.disarm stream) := of_wf _
theorem reload (stream : Nat) : Statement (.reload stream) := of_wf _
theorem query (stream : Nat) : Statement (.query stream) := of_wf _
theorem reservedAction (stream : Nat) (action : BitVec 4) : Statement (.reservedAction stream action) := of_wf _
theorem stmTableBaseWrite (val : W64) : Statement (.stmTableBaseWrite val) := of_wf _
theorem stmArgBaseWrite (val : W64) : Statement (.stmArgBaseWrite val) := of_wf _
theorem nop (stream : Nat) : Statement (.nop stream) := of_wf _
theorem run (stream : Nat) : Statement (.run stream) := of_wf _
theorem dma (stream : Nat) : Statement (.dma stream) := of_wf _
theorem update (stream : Nat) : Statement (.update stream) := of_wf _
theorem exportShard (stream : Nat) : Statement (.exportShard stream) := of_wf _
theorem importShard (stream : Nat) : Statement (.importShard stream) := of_wf _
theorem map (stream : Nat) : Statement (.map stream) := of_wf _
theorem unmap (stream : Nat) : Statement (.unmap stream) := of_wf _
theorem place (stream : Nat) : Statement (.place stream) := of_wf _
theorem evict (stream : Nat) : Statement (.evict stream) := of_wf _
theorem dropb (stream : Nat) : Statement (.dropb stream) := of_wf _
theorem attr (stream : Nat) : Statement (.attr stream) := of_wf _
theorem copy (stream : Nat) : Statement (.copy stream) := of_wf _
theorem fence (stream : Nat) : Statement (.fence stream) := of_wf _
theorem signal (stream : Nat) : Statement (.signal stream) := of_wf _
theorem wait (stream : Nat) : Statement (.wait stream) := of_wf _
theorem waitTimeout (stream : Nat) : Statement (.waitTimeout stream) := of_wf _
theorem loadBitstream (stream : Nat) : Statement (.loadBitstream stream) := of_wf _
theorem tieSum (stream : Nat) : Statement (.tieSum stream) := of_wf _
theorem ingest (stream : Nat) : Statement (.ingest stream) := of_wf _
theorem load : Statement (.load) := of_wf _
theorem flash : Statement (.flash) := of_wf _
theorem abort : Statement (.abort) := of_wf _
theorem keyreg (x : Seal) : Statement (.keyreg x) := of_wf _
theorem loadVerify (body : SigFact) (path : ChainFact) : Statement (.loadVerify body path) := of_wf _
theorem loadApply : Statement (.loadApply) := of_wf _
theorem loadDone : Statement (.loadDone) := of_wf _
theorem repairStart (cluster : BitVec 10) (spare : BitVec 10) : Statement (.repairStart cluster spare) := of_wf _
theorem clusterFailure (g : Nat) : Statement (.clusterFailure g) := of_wf _
theorem repairCopy (p : Nat) (lost : List Nat) (countsLost : Bool) : Statement (.repairCopy p lost countsLost) := of_wf _
theorem routerFault (g : Nat) : Statement (.routerFault g) := of_wf _
theorem dieControllerFailure (d : Nat) : Statement (.dieControllerFailure d) := of_wf _
theorem ringBreak (member : Nat) (ccw : Bool) (isolated : List Nat) : Statement (.ringBreak member ccw isolated) := of_wf _
theorem eccCorrectable (at_ : EccPlace) : Statement (.eccCorrectable at_) := of_wf _
theorem eccUncorrectable (at_ : EccPlace) (by_ : EccReader) : Statement (.eccUncorrectable at_ by_) := of_wf _
theorem mpRestart (ms : Nat) : Statement (.mpRestart ms) := of_wf _
theorem patrolScrub (stack : Nat) (corrected : Nat) : Statement (.patrolScrub stack corrected) := of_wf _
theorem retire (d : Nat) (stack : BitVec 2) (pch : BitVec 5) : Statement (.retire d stack pch) := of_wf _
theorem clrlate (p : Nat) : Statement (.clrlate p) := of_wf _
theorem footprintPin (stream : Nat) : Statement (.footprintPin stream) := of_wf _
theorem migrationCopyDone (d : Nat) (p : Nat) (page : Nat) (us : Nat) : Statement (.migrationCopyDone d p page us) := of_wf _
theorem dirtyRequest (p : Nat) (page : Nat) : Statement (.dirtyRequest p page) := of_wf _
theorem tlbWalk (g : Nat) (page : Nat) (cycles : Nat) : Statement (.tlbWalk g page cycles) := of_wf _
theorem tlbInvalidate (g : Nat) (p : Nat) (page : Nat) : Statement (.tlbInvalidate g p page) := of_wf _
theorem invalidateAck (g : Nat) (p : Nat) (page : Nat) : Statement (.invalidateAck g p page) := of_wf _
theorem bmpRetrain (n : Nat) : Statement (.bmpRetrain n) := of_wf _
theorem boardPortRetrain (n : Nat) (us : Nat) : Statement (.boardPortRetrain n us) := of_wf _
theorem boardPortDown (n : Nat) : Statement (.boardPortDown n) := of_wf _
theorem poisonedLine (addr : Nat) (by_ : EccReader) : Statement (.poisonedLine addr by_) := of_wf _
theorem mac (c : Nat) (h : WordHdr) (f : MacArgs) (rep : Nat) (parity : List (Nat × Nat × Nat)) : Statement (.mac c h f rep parity) := of_wf _
theorem drainWord (c : Nat) (h : WordHdr) (f : DrainArgs) (rep : Nat) : Statement (.drainWord c h f rep) := of_wf _
theorem fetch (c : Nat) (h : WordHdr) (f : MovArgs) : Statement (.fetch c h f) := of_wf _
theorem fetchWithDrainFlag (c : Nat) (h : WordHdr) (f : MovArgs) : Statement (.fetchWithDrainFlag c h f) := of_wf _
theorem drain (c : Nat) (h : WordHdr) (f : MovArgs) : Statement (.drain c h f) := of_wf _
theorem addw (c : Nat) (h : WordHdr) (f : MovArgs) : Statement (.addw c h f) := of_wf _
theorem maxm (c : Nat) (h : WordHdr) (f : MovArgs) : Statement (.maxm c h f) := of_wf _
theorem fetchComplete (c : Nat) (late : Nat) : Statement (.fetchComplete c late) := of_wf _
theorem drainComplete (c : Nat) : Statement (.drainComplete c) := of_wf _
theorem synSignal (c : Nat) (h : WordHdr) (f : SynArgs) : Statement (.synSignal c h f) := of_wf _
theorem synWait (c : Nat) (h : WordHdr) (f : SynArgs) : Statement (.synWait c h f) := of_wf _
theorem tokenIncrementArrival (c : Nat) (ctr : BitVec 4) (val : BitVec 16) : Statement (.tokenIncrementArrival c ctr val) := of_wf _
theorem qput (c : Nat) (h : WordHdr) (f : SynArgs) : Statement (.qput c h f) := of_wf _
theorem qget (c : Nat) (h : WordHdr) (f : SynArgs) : Statement (.qget c h f) := of_wf _
theorem qrel (c : Nat) (h : WordHdr) (f : SynArgs) : Statement (.qrel c h f) := of_wf _
theorem queueAnnounceArrival (p : Nat) (qid : Nat) (val : BitVec 16) : Statement (.queueAnnounceArrival p qid val) := of_wf _
theorem queueCreditArrival (p : Nat) (qid : Nat) (val : BitVec 16) : Statement (.queueCreditArrival p qid val) := of_wf _
theorem cbar (c : Nat) (h : WordHdr) (f : SynArgs) : Statement (.cbar c h f) := of_wf _
theorem conversionDone (c : Nat) : Statement (.conversionDone c) := of_wf _
theorem vecNop (u : VUnit) (x : VArgs) : Statement (.vecNop u x) := of_wf _
theorem add (u : VUnit) (x : VArgs) : Statement (.add u x) := of_wf _
theorem sub (u : VUnit) (x : VArgs) : Statement (.sub u x) := of_wf _
theorem mul (u : VUnit) (x : VArgs) : Statement (.mul u x) := of_wf _
theorem fma (u : VUnit) (x : VArgs) : Statement (.fma u x) := of_wf _
theorem fnma (u : VUnit) (x : VArgs) : Statement (.fnma u x) := of_wf _
theorem min (u : VUnit) (x : VArgs) : Statement (.min u x) := of_wf _
theorem max (u : VUnit) (x : VArgs) : Statement (.max u x) := of_wf _
theorem clamp (u : VUnit) (x : VArgs) : Statement (.clamp u x) := of_wf _
theorem abs (u : VUnit) (x : VArgs) : Statement (.abs u x) := of_wf _
theorem neg (u : VUnit) (x : VArgs) : Statement (.neg u x) := of_wf _
theorem sign (u : VUnit) (x : VArgs) : Statement (.sign u x) := of_wf _
theorem div (u : VUnit) (x : VArgs) : Statement (.div u x) := of_wf _
theorem sqrt (u : VUnit) (x : VArgs) : Statement (.sqrt u x) := of_wf _
theorem rsqrt (u : VUnit) (x : VArgs) : Statement (.rsqrt u x) := of_wf _
theorem rcp (u : VUnit) (x : VArgs) : Statement (.rcp u x) := of_wf _
theorem exp2 (u : VUnit) (x : VArgs) : Statement (.exp2 u x) := of_wf _
theorem log2 (u : VUnit) (x : VArgs) : Statement (.log2 u x) := of_wf _
theorem exp (u : VUnit) (x : VArgs) : Statement (.exp u x) := of_wf _
theorem tanh (u : VUnit) (x : VArgs) : Statement (.tanh u x) := of_wf _
theorem erf (u : VUnit) (x : VArgs) : Statement (.erf u x) := of_wf _
theorem sel (u : VUnit) (x : VArgs) : Statement (.sel u x) := of_wf _
theorem mov (u : VUnit) (x : VArgs) : Statement (.mov u x) := of_wf _
theorem ceq (u : VUnit) (x : VArgs) : Statement (.ceq u x) := of_wf _
theorem cne (u : VUnit) (x : VArgs) : Statement (.cne u x) := of_wf _
theorem clt (u : VUnit) (x : VArgs) : Statement (.clt u x) := of_wf _
theorem cle (u : VUnit) (x : VArgs) : Statement (.cle u x) := of_wf _
theorem mand (u : VUnit) (x : VArgs) : Statement (.mand u x) := of_wf _
theorem mor (u : VUnit) (x : VArgs) : Statement (.mor u x) := of_wf _
theorem mxor (u : VUnit) (x : VArgs) : Statement (.mxor u x) := of_wf _
theorem mnot (u : VUnit) (x : VArgs) : Statement (.mnot u x) := of_wf _
theorem mfirst (u : VUnit) (x : VArgs) : Statement (.mfirst u x) := of_wf _
theorem mcnt (u : VUnit) (x : VArgs) : Statement (.mcnt u x) := of_wf _
theorem mflag (u : VUnit) (x : VArgs) : Statement (.mflag u x) := of_wf _
theorem rsum (u : VUnit) (x : VArgs) : Statement (.rsum u x) := of_wf _
theorem rsumsq (u : VUnit) (x : VArgs) : Statement (.rsumsq u x) := of_wf _
theorem rmax (u : VUnit) (x : VArgs) : Statement (.rmax u x) := of_wf _
theorem rmin (u : VUnit) (x : VArgs) : Statement (.rmin u x) := of_wf _
theorem ramax (u : VUnit) (x : VArgs) : Statement (.ramax u x) := of_wf _
theorem bcast (u : VUnit) (x : VArgs) : Statement (.bcast u x) := of_wf _
theorem iota (u : VUnit) (x : VArgs) : Statement (.iota u x) := of_wf _
theorem f2i (u : VUnit) (x : VArgs) : Statement (.f2i u x) := of_wf _
theorem i2f (u : VUnit) (x : VArgs) : Statement (.i2f u x) := of_wf _
theorem ld (u : VUnit) (x : VArgs) : Statement (.ld u x) := of_wf _
theorem st (u : VUnit) (x : VArgs) : Statement (.st u x) := of_wf _
theorem ldb (u : VUnit) (x : VArgs) : Statement (.ldb u x) := of_wf _
theorem ldq (u : VUnit) (x : VArgs) : Statement (.ldq u x) := of_wf _
theorem stq (u : VUnit) (x : VArgs) : Statement (.stq u x) := of_wf _
theorem sld (u : VUnit) (x : VArgs) : Statement (.sld u x) := of_wf _
theorem sst (u : VUnit) (x : VArgs) : Statement (.sst u x) := of_wf _
theorem cvtb (u : VUnit) (x : VArgs) : Statement (.cvtb u x) := of_wf _
theorem sli (u : VUnit) (x : VArgs) : Statement (.sli u x) := of_wf _
theorem sadd (u : VUnit) (x : VArgs) : Statement (.sadd u x) := of_wf _
theorem ssub (u : VUnit) (x : VArgs) : Statement (.ssub u x) := of_wf _
theorem smul (u : VUnit) (x : VArgs) : Statement (.smul u x) := of_wf _
theorem sfadd (u : VUnit) (x : VArgs) : Statement (.sfadd u x) := of_wf _
theorem sfmul (u : VUnit) (x : VArgs) : Statement (.sfmul u x) := of_wf _
theorem sfdiv (u : VUnit) (x : VArgs) : Statement (.sfdiv u x) := of_wf _
theorem br (u : VUnit) (x : VArgs) : Statement (.br u x) := of_wf _
theorem bz (u : VUnit) (x : VArgs) : Statement (.bz u x) := of_wf _
theorem bnz (u : VUnit) (x : VArgs) : Statement (.bnz u x) := of_wf _
theorem blt (u : VUnit) (x : VArgs) : Statement (.blt u x) := of_wf _
theorem call (u : VUnit) (x : VArgs) : Statement (.call u x) := of_wf _
theorem ret (u : VUnit) (x : VArgs) : Statement (.ret u x) := of_wf _
theorem programHalt (u : VUnit) (x : VArgs) : Statement (.programHalt u x) := of_wf _
theorem dmaStart (ch : Nat) : Statement (.dmaStart ch) := of_wf _
theorem dmaDescriptor (ch : Nat) (preempted : List (BitVec 2)) : Statement (.dmaDescriptor ch preempted) := of_wf _
theorem dmaRetry (ch : Nat) : Statement (.dmaRetry ch) := of_wf _
theorem dmaStop (ch : Nat) : Statement (.dmaStop ch) := of_wf _
theorem updatePass2 (d : Nat) : Statement (.updatePass2 d) := of_wf _
theorem groupTimeout (d : Nat) (stream : Nat) : Statement (.groupTimeout d stream) := of_wf _
theorem updAbort (d : Nat) : Statement (.updAbort d) := of_wf _
theorem updConfigWrite (d : Nat) (off : Nat) (val : W64) : Statement (.updConfigWrite d off val) := of_wf _
theorem ingestRecord (e : Nat) : Statement (.ingestRecord e) := of_wf _
theorem ingestTailPoll (e : Nat) : Statement (.ingestTailPoll e) := of_wf _
theorem batchDeadline (e : Nat) : Statement (.batchDeadline e) := of_wf _
theorem ingestAbort (e : Nat) : Statement (.ingestAbort e) := of_wf _
theorem peerWrite (q : Nat) : Statement (.peerWrite q) := of_wf _
theorem peerRead (q : Nat) (data : List Byte) : Statement (.peerRead q data) := of_wf _
theorem peerAddw (q : Nat) : Statement (.peerAddw q) := of_wf _
theorem note (q : Nat) : Statement (.note q) := of_wf _
theorem peerEntryDone (q : Nat) (failed : BitVec 8) (moved : Nat) : Statement (.peerEntryDone q failed moved) := of_wf _
theorem peerRequest (r : PeerIn) : Statement (.peerRequest r) := of_wf _
theorem peerFlitForward (f : PeerFlit) : Statement (.peerFlitForward f) := of_wf _
theorem queueTailWrite (q : Nat) (tail : BitVec 16) : Statement (.queueTailWrite q tail) := of_wf _
theorem queueBell (addr : Nat) (word : W64) : Statement (.queueBell addr word) := of_wf _
theorem queueStop (q : Nat) : Statement (.queueStop q) := of_wf _
theorem queueEnable (q : Nat) (val : W64) : Statement (.queueEnable q val) := of_wf _
theorem plkRetrain (n : Nat) : Statement (.plkRetrain n) := of_wf _
theorem peerPortRetrain (n : Nat) (us : Nat) : Statement (.peerPortRetrain n us) := of_wf _
theorem peerPortDown (n : Nat) : Statement (.peerPortDown n) := of_wf _
theorem timeMasterSet : Statement (.timeMasterSet) := of_wf _
theorem timingFlitExchange (port : Nat) (master : BitVec 8) (hops : BitVec 8) (skews : List (Nat × BitVec 16)) (second : Option (BitVec 8)) : Statement (.timingFlitExchange port master hops skews second) := of_wf _
theorem timeAnnouncement (port : Nat) (master : BitVec 8) (hops : BitVec 8) (shared : Nat) (period : BitVec 24) (groups : List GroupAnn) : Statement (.timeAnnouncement port master hops shared period groups) := of_wf _
theorem throttleLevelReport (module_ : BitVec 8) (group : Nat) (level : BitVec 4) (index : Nat) : Statement (.throttleLevelReport module_ group level index) := of_wf _
theorem recon (pool : BitVec 4) (target : BitVec 5) : Statement (.recon pool target) := of_wf _
theorem dump : Statement (.dump) := of_wf _
theorem dumpDone : Statement (.dumpDone) := of_wf _
theorem snap : Statement (.snap) := of_wf _
theorem periodicSnapshot : Statement (.periodicSnapshot) := of_wf _
theorem clear (x : Seal) : Statement (.clear x) := of_wf _
theorem clrmax : Statement (.clrmax) := of_wf _
theorem fwupd (x : Seal) : Statement (.fwupd x) := of_wf _
theorem quote : Statement (.quote) := of_wf _
theorem quoteDone : Statement (.quoteDone) := of_wf _
theorem pwrLimitWrite (val : W64) : Statement (.pwrLimitWrite val) := of_wf _
theorem p42vBelow30V : Statement (.p42vBelow30V) := of_wf _
theorem supportEnd : Statement (.supportEnd) := of_wf _
theorem bmpEnable (n : Nat) (en : Bool) : Statement (.bmpEnable n en) := of_wf _
theorem plkEnable (n : Nat) (en : Bool) : Statement (.plkEnable n en) := of_wf _

end Sys2Proof.Laws.Wf
end

