-- ==== Sys2Proof/Tests/Slice0.lean ====
section
/-! SUPPORT. Ill-formed commands that the checks refuse, and for every statement with hypotheses a concrete state and operands that
meet them. The expected values of the other tests come from the manual's tables and worked examples. -/
namespace Sys2Proof.Tests
open Sys2Proof Sys2Proof.Machine

-- One theorem at a time: the kernel's evaluations then share no memory limit.
set_option Elab.async false

/-! ## Well-formedness -/

/-- Commands that name a part the module does not have. -/
def illFormedNumbers : List Instr :=
  [.smbWrite 0x1000000000000 0, .hostWriteAck 16384 1, .hostLaneFailure 4, .groupBaseTick 16, .admissionCut 64, .clusterFrameDone 640,
   .commandTailDoorbell 0 65536, .dieControllerFailure 4, .ringBreak 5 false [], .eccCorrectable (.coreStore 10240), .eccCorrectable (.shelf 640 0),
   .eccCorrectable (.dieController 4), .eccCorrectable (.hbm 0x1000000000000), .patrolScrub 16 0, .migrationCopyDone 0 0 0x800000 0, .bmpRetrain 4,
   .queueAnnounceArrival 0 64 1, .add (.core 10240 {}) {}, .add (.engine 4) {}, .dmaStart 256, .peerWrite 16, .plkRetrain 2, .tlbInvalidate 644 0 0]

/-- Commands whose list or access has a bad item. -/
def illFormedShapes : List Instr :=
  [.arraySelfTest [(40960, 0)], .arraySelfTest [(0, 16)], .hbmTraining [(16, 0)], .hbmTraining [(0, 32)], .throttleUpdate [⟨5, 0, 0⟩],
   .registerWrite 0x300000000004 8 0, .registerWrite 0x300000000000 2 0, .hostRequest (.writePage 0xFFFF [0, 0]), .hostRequest (.readPage 0 0),
   .hostRequest (.writeWindow 0 []), .hostRequest (.readWindow 0x10000000 1), .repairCopy 0 [0x18000] false, .ringBreak 0 false [5],
   .eccUncorrectable .mpMemory (.coreFetch 10240 0 0 0 false), .eccUncorrectable .mpMemory (.dma 256), .eccUncorrectable .mpMemory (.engine 4),
   .eccUncorrectable .mpMemory (.migration 0x800000 0), .poisonedLine 0x100000000000 (.stream 16384 false)]

/-- Words and requests with a bad operand. -/
def illFormedWords : List Instr :=
  [.mac 0 {} {} 1 [], .mac 0 {} {} 0 [(4, 0, 0)], .mac 0 {} {} 0 [(0, 16, 0)], .drainWord 0 {} {} 1, .updConfigWrite 0 4 0, .peerRequest ⟨0, .write 0xFFFFFFFFFFC0 (List.replicate 65 0)⟩,
   .peerRequest ⟨0, .read 0 0⟩, .peerRequest ⟨0, .addw 0 []⟩, .peerRequest ⟨0, .count 4 0⟩, .peerRequest ⟨2, .read 0 64⟩, .peerFlitForward ⟨2, 0⟩, .timingFlitExchange 0 0 0 [(16, 0)] none,
   .timeAnnouncement 0 0 0 0 0 [{ group := 16, time := 0, index := 0, level := 0 }]]

/-- One ill-formed command for each kind of check. -/
def illFormed : List Instr := illFormedNumbers ++ illFormedShapes ++ illFormedWords

theorem test_wf_refuses_ill_formed : illFormed.all (fun i => !i.wf) = true := by decide +kernel

theorem test_wf_takes_bounds : Instr.wf (.clusterFrameDone 639) = true ∧ Instr.wf (.dmaStart 255) = true ∧ Instr.wf (.mac 10239 {} {} 0 [(3, 15, 1023)]) = true
    ∧ Instr.wf (.tlbInvalidate 643 63 0x7FFFFF) = true
    ∧ Instr.wf (.hostRequest (.writePage 0xFFFF [0])) = true := by decide +kernel

/-! ## The machine -/

/-- The state a command leaves. -/
def after (o : Host.Outcome State Fault Refusal) : State :=
  match o with
  | .next t => t
  | _ => State.reset

/-- Store little-endian numbers: offset from `a`, bytes, value. -/
def put (s : State) (a : Nat) (l : List (Nat × Nat × Nat)) : State := l.foldl (fun s e => s.wrN (a + e.1) e.2.1 e.2.2) s

/-- The module in stage RUNNING with its recorder restored. -/
def up : State := { State.reset with pwr := { stage := .running, idok := true, mv := 42000 }, evr := { restored := true } }

theorem witness_step : ({ up with pending := [.hostReset] } : State).pending = [.hostReset] ∧ State.reset.pending = [] := ⟨rfl, rfl⟩

theorem witness_memory_form : State.reset.MemOk ∧ step State.reset = .next (idleCycle State.reset) := ⟨⟨rfl, rfl⟩, rfl⟩

theorem witness_exec_queue : exec .clrmax up = .next { up with pwr := { up.pwr with pmax := 0 } } ∧ up.Between := ⟨rfl, rfl, rfl⟩

/-! ## Power -/

/-- P42V is off. -/
def dark : State := { State.reset with pwr := { railsUp := false, inReset := true } }
/-- The rails are up and MOD_RESET_N is asserted. -/
def inReset : State := { State.reset with pwr := { inReset := true } }

theorem witness_power_sequence :
    (dark.pwr.railsUp = false ∧ dark.pwr.latched = false ∧ 38000 < 38001 ∧ 38001 ≤ 48000 ∧ dark.pwr.starting = false) ∧
    ({ dark with pwr := { dark.pwr with starting := true } } : State).pwr.starting = true ∧
    (inReset.pwr.railsUp = true ∧ inReset.pwr.inReset = true ∧ inReset.pwr.lockedOut = false) ∧
    ({ inReset.pwr with lockedOut := true } : Pwr).lockedOut = true ∧ State.reset.alive = true ∧ dark.alive = false := by decide

/-- The rails are up in reset with P42V as given; the rails are down and the bias supply is there. -/
def inResetAt (mv : BitVec 16) : State := { State.reset with pwr := { inReset := true, p42v := mv } }
def darkWithBias : State := { State.reset with pwr := { railsUp := false, inReset := true, bias := true } }

theorem witness_voltage_at_start : (∀ n ∈ [37999, 46001, 46000], (inResetAt (BitVec.ofNat 16 n)).pwr.railsUp = true ∧ (inResetAt (BitVec.ofNat 16 n)).pwr.inReset = true
      ∧ (inResetAt (BitVec.ofNat 16 n)).pwr.lockedOut = false) ∧ (inResetAt 37999).pwr.p42v.toNat < 38000 ∧ 46000 < (inResetAt 46001).pwr.p42v.toNat
    ∧ 38000 ≤ (inResetAt 46000).pwr.p42v.toNat ∧ (inResetAt 46000).pwr.p42v.toNat ≤ 46000
    ∧ darkWithBias.pwr.railsUp = false ∧ darkWithBias.pwr.starting = false ∧ darkWithBias.pwr.bias = true := by decide +kernel

/-- The module at a start-up stage. -/
def stageAt (g : Stage) : State := { State.reset with pwr := { stage := g, idok := true }, aud := { linksInit := decide (g = .links) } }

theorem witness_start_up :
    (∀ g ∈ [Stage.rom, .fw, .restore, .selftest, .hbm, .links], (stageAt g).alive = true ∧ (stageAt g).pwr.stage = g) ∧
    (stageAt .links).aud.linksInit = true := by decide

/-- A seal whose facts are of other bytes than those it is asked about. -/
def rootSeal : Seal := { body := { digest := 0, sig := 0 }, path := { chain := 0, signer := .root } }
/-- The facts of a section `sec` that verifies under the root key over the bytes `l` (07 R207). -/
def sealOf (l sec : List Byte) : Seal :=
  { body := { digest := digestOf l, sig := BitVec.ofNat 512 (beNat ((sec.drop 8).take 64)) },
    path := { chain := digestOf ((sec.drop 0x48).take (bytesN sec 4 4)), signer := .root } }

/-- Copy A of Bubarus is 192 bytes, signed from byte 64 on; of copy B an update has written one byte (17 R484). -/
def twoCopies : State :=
  { stageAt .fw with flash := (put (put State.reset (fwBase false) [(0, 4, 0x57464651), (4, 2, 0x0100), (8, 8, 1), (0x10, 8, 192), (0x20, 8, 64), (64, 1, 1),
                                                                    (72, 1, 7)]) (fwBase true) [(0, 1, 1)]).mem }
def copySeal : Seal := sealOf (fwRd twoCopies false 0 64) (fwSection twoCopies false)

theorem witness_firmware_copies : (fwCopyOk twoCopies false copySeal || fwCopyOk twoCopies true rootSeal) = true
    ∧ (fwCopyOk twoCopies false rootSeal || fwCopyOk twoCopies true rootSeal) = false ∧ twoCopies.alive = true ∧ twoCopies.pwr.stage = .fw := by
  decide +kernel

/-- A byte of SIG that differs from the one the fact is of fails the copy (07 R207). -/
theorem test_corrupt_signature : fwCopyOk { twoCopies with flash := tput twoCopies.flash (fwBase false + 80) 1 } false copySeal = false := by decide +kernel

theorem witness_throttle : up.alive = true ∧ up.pwr.guardHeld = false ∧ 39600 ≤ 39600 ∧ ({ up.pwr with guardHeld := true } : Pwr).guardHeld = true
    ∧ (1 ≤ 14 ∧ 950 + 10 * 14 ≤ 1099 ∧ 1099 < 950 + 10 * 14 + 10) ∧ up.pwr.limit.toNat = 1500 ∧ 1424 * 100 < 95 * 1500
    ∧ ¬ (1425 * 100 < 95 * 1500) := by decide

theorem test_throttle_terms : tempTerm 950 959 = 0 ∧ tempTerm 950 960 = 1 ∧ tempTerm 950 1099 = 14 ∧ tempTerm 950 1100 = 15 := by decide

/-- Shared time is locked, PPS_OUT is released, and calendar time has been set. -/
def timed : State := { up with plk := { locked := true }, pwr := { up.pwr with ppsOut := true }, frm := { calSet := true } }

theorem witness_pps_power : timed.alive = true ∧ timed.plk.locked = true ∧ (0 : Int) ≤ (timed.time : Int) + timed.plk.toffset ∧ timed.pwr.ppsOut = true
    ∧ timed.frm.calSet = true ∧ timed.frm.calTb.toNat ≤ timed.time ∧ (600#64).toNat % 2048 = 600 ∧ (1500#64).toNat % 2048 = 1500
    ∧ (1501#64).toNat % 2048 = 1501 := by decide

/-! ## Registers, host, SMBus -/

theorem witness_registers : up.alive = true ∧ up.hlk.heldReqs = [] ∧ (4 < 5 ∧ 3 < 4) ∧ (0xFFFFFFFF#64).toNat < 2 ^ 32
    ∧ regAccessOk (scratchAt 4 3 + 4) 8 = false ∧ regBase ≤ scratchAt 4 3 + 4 ∧ scratchAt 4 3 + 4 < regEnd
    ∧ (up.mgtOf (dieCode (regDie (scratchAt 4 3 + 4)))).errVal = false := by decide +kernel

/-- The host link is up. -/
def linked : State := { up with hlk := { state := .up, lanes := 0xF, epoch := 3 } }
/-- The host has been lost and the link is training. -/
def lost : State := { up with hlk := { state := .training, needhs := true, epoch := 3, irqEn := true } }

theorem witness_host_window : linked.alive = true ∧ linked.hlk.state ≠ .down ∧ linkHolds linked = false ∧ linked.hlk.heldReqs = [] ∧ linked.Between ∧ 64 ≤ windowBytes ∧ (linked.hlk.winBase.toNat + 0) % 64 + 64 ≤ 64
    ∧ linked.hlk.winBase.toNat + 0 < hostBase ∧ locate linked (linked.hlk.winBase.toNat + 0) = .mem ∧ boardWaits linked (linked.hlk.winBase.toNat + 0) = false
    ∧ locate { linked with hlk := { linked.hlk with winBase := 0x500000000000 } } 0x500000000000 = .none
    ∧ linked.pwr.stage ≠ .rom ∧ locate linked linked.pwr.smbAddr.toNat = .mem ∧ boardWaits linked linked.pwr.smbAddr.toNat = false
    ∧ linkHolds { linked with hlk := { linked.hlk with state := .training, downAt := some 0 } } = true
    ∧ (let s : State := { linked with hlk := { linked.hlk with winBase := BitVec.ofNat _ (boardBase + 3 * portFrames * pageSize) },
                                      bmp := [(3, { state := .training, lanes := 0xFF, frames := 64, downAt := some 0 })] }
       s.hlk.winBase.toNat + 0 < hostBase ∧ locate s (s.hlk.winBase.toNat + 0) = .mem ∧ boardWaits s (s.hlk.winBase.toNat + 0) = true
         ∧ s.alive = true ∧ s.hlk.state ≠ .down ∧ linkHolds s = false) := by
  unfold State.Between
  decide +kernel

theorem witness_host_link : lost.alive = true ∧ lost.hlk.state = .training ∧ lost.hlk.state ≠ .up ∧ lost.hlk.width = 0 ∧ lanesOut lost .hlk = 0
    ∧ 9999 < 10000 ∧ linked.hlk.state ≠ .down ∧ linked.hlk.width = 0 ∧ lanesOut linked .hlk = 0 ∧ linked.hlk.state = .up
    ∧ lost.hlk.heldReqs = [] ∧ linked.hlk.heldReqs = [] ∧ mayTrain lost 8 = true ∧ mayTrain linked 8 = true ∧ mayTrain (stageAt .fw) 8 = false
    ∧ (stageAt .fw).alive = true
    ∧ ({ lost.hlk with state := .down, downAt := some 5 } : Hlk).downAt.isSome = true := by decide +kernel

theorem witness_quiet_streams : quietStreams lost ∧ quietStreams linked := ⟨fun _ => ⟨rfl, rfl, rfl⟩, fun _ => ⟨rfl, rfl, rfl⟩⟩

/-- Stream 5 has two host writes that are not acknowledged. -/
def unacked : State := { linked with stm := { streams := [(5, { state := .running, unacked := [(7, 2, 0)] })] } }

/-- The record of the one command of stream 5 is in flight to host memory. -/
def sevenCmd : Cmd := { bytes := List.replicate 64 0, seq := 7, aframe := 1, tick := 0 }
def recordOut : State :=
  { linked with stm := { streams := [(5, { state := .running, inRange := true, inflight := [⟨7, true, [], 0⟩], cmds := [sevenCmd] })] } }

theorem witness_record_out : recordOut.alive = true ∧ recordOut.hlk.needhs = false ∧ (recordOut.stream 5).unacked = []
    ∧ (recordOut.stream 5).inflight = [⟨7, true, [], 0⟩] ∧ (recordOut.stream 5).inRange = true ∧ linkHolds recordOut = false ∧ (recordOut.stream 5).cmds = [sevenCmd] ∧ (recordOut.stream 5).heldUnacked = 0
    ∧ (recordOut.stream 5).state = .running ∧ ((recordOut.ackOne 5).stream 5).lseq = 7 := by decide +kernel

theorem witness_handshake : ({ lost with hlk := { lost.hlk with state := .up } } : State).hlk.needhs = true ∧ lost.hlk.state ≠ .up
    ∧ (∀ e ∈ unacked.stm.streams, e.2.state ≠ .hostLost) ∧ unacked.hlk.needhs = false ∧ linkHolds unacked = false
    ∧ (unacked.stream 5).unacked = [(7, 2, 0)] := by decide

/-! ## Frames -/

/-- Partition 9 runs on cluster 100 with FRM_PERIOD 300,000; its next tick is at 900,000. -/
def ticks : State := { linked with
  time := 600000
  frm := { period := 300000, epoch := some 0, groups := [(2, { en := true, hasSeq := true, next := 900000, index := 2 })] }
  parts := [(9, { defined := true, state := .running, clusters := [100], next := 900000, lastTick := 600000, running := true, doneAt := 700000,
                  credTotal := 8, credFree := 8 })]
  clusters := [(100, { state := .assigned, part := 9 })] }

/-- Partition 9 of `ticks` with other contents. -/
def withPart (f : Part → Part) : State := ticks.modPart 9 f

theorem witness_group_base_tick : ticks.alive = true ∧ 2 < 16 ∧ (ticks.group 2).hasSeq = true ∧ (ticks.group 2).xmod = false := by decide +kernel

/-- Cluster 100 has not reported frame-done. -/
def behind (n : Nat) : State := (withPart (fun q => { q with consec := n })).modCluster 100 (fun k => { k with frameOn := true })

/-- What the decision point of partition 9 judges. -/
def judged9 (s : State) : State := judged (s.passHeld 9) 9

theorem witness_decision_point :
    (ticks.alive = true ∧ ticking ((ticks.passHeld 9).part 9) = true ∧ ((judged9 ticks).part 9).state = .running ∧ ((judged9 ticks).part 9).goDown = false ∧
      frameIsDone (judged9 ticks) 9 = true ∧ ((judged9 ticks).part 9).drainReq = false ∧ ((judged9 ticks).part 9).locked = false ∧
      ((judged9 ticks).part 9).repairs = []) ∧
    (∀ n ∈ [1, 2], ticking (((behind n).passHeld 9).part 9) = true ∧ ((judged9 (behind n)).part 9).state = .running ∧
      ((judged9 (behind n)).part 9).goDown = false ∧ frameIsDone (judged9 (behind n)) 9 = false ∧ ((judged9 (behind n)).part 9).consec = n ∧
      ((judged9 (behind n)).part 9).repairs = []) := by decide +kernel

theorem witness_frame_start : ((ticks.passHeld 9).part 9).cut = false ∧ ticking ((ticks.passHeld 9).part 9) = true
    ∧ ((withPart (fun q => { q with verdict := some (.go 3) })).part 9).verdict = some (.go 3) ∧ (ticks.part 9).locked = false := by decide +kernel

theorem witness_frame_done :
    (partOfCluster (behind 0) 100 = some 9 ∧ ((behind 0).part 9).running = true ∧ ((behind 0).cluster 100).frameOn = true ∧
      ((behind 0).cluster 100).failed = false ∧ (∀ k ∈ coresOf (behind 0) 100, coreDone k = true)) ∧
    (let s := ticks.modCluster 100 (fun k => { k with drainReq := true })
     partOfCluster s 100 = some 9 ∧ (s.cluster 100).drainReq = true ∧ (s.cluster 100).frameOn = false ∧ (s.cluster 100).state = .assigned ∧
      (∀ k ∈ coresOf s 100, portQuiet k = true)) ∧
    (let s := withPart (fun q => { q with state := .halted })
     (s.part 9).defined = true ∧ (s.part 9).state = .halted ∧ (s.part 9).cons = false) ∧ (ticks.part 9).state ≠ .halted := by decide +kernel

/-! ## Streams -/

/-- The 64 bytes of a command from its opcode and some fields. -/
def cmdBytes (op : Nat) (l : List (Nat × Nat × Nat)) : List Byte := (put State.reset 0 ((0, 1, op) :: l)).rd 0 64

/-- `linked` with stream 5 of partition 9 as given. -/
def withStream (x : Stream) : State := { ticks with stm := { streams := [(5, { x with part := 9, inRange := true })] } }

/-- A ring with 16 places, HEAD 2 and TAIL 5; its records go to 0x10000000. -/
def ring : Stream := { state := .running, clog2 := 4, plog2 := 4, head := 2, tail := 5, ptail := 3, phead := 0, pring := 0x10000000, credits := 8,
                       cring := 0x20000000, nseq := 7 }

theorem witness_module_audit : (∀ d, d < 5 → bufferHolders (withStream ring) d = []) ∧
    (∀ l, l < 30 → ((tget {} (withStream ring).aud.links l).free.toNat + (tget {} (withStream ring).aud.links l).occ.toNat
      + (tget {} (withStream ring).aud.links l).inflight.toNat) = (tget {} (withStream ring).aud.links l).total.toNat) ∧
    (∀ d, d < 5 → (tget {} (withStream ring).aud.dma d).skew = 0) ∧ (tget {} [(4, ({ skew := -1 } : DmaPool))] 4).skew ≠ 0 ∧
    (∀ e ∈ (withStream ring).stm.streams, e.2.inRange = true ∧ ((withStream ring).part e.2.part.toNat).defined = true) := by decide +kernel

theorem witness_command_doorbell : (withStream ring).alive = true ∧ 5 < 16384 ∧ 15 < 65536 ∧ ((withStream ring).stream 5).state ≠ .idle ∧ 15 < 2 ^ 4
    ∧ (5 + 16 - 2) % 16 ≤ (15 + 16 - 2) % 16 ∧ ¬ ((5 + 16 - 2) % 16 ≤ (4 + 16 - 2) % 16) ∧ ¬ 16 < 2 ^ 4
    ∧ ((withStream { ring with state := .idle }).stream 5).state = .idle := by decide +kernel

theorem test_command_doorbell_takes_index : ((after (exec (.commandTailDoorbell 5 15) (withStream ring))).stream 5).tail = 15 := by decide +kernel

theorem test_command_doorbell_that_uncovers : let t := after (exec (.commandTailDoorbell 5 4) (withStream ring))
    (t.stream 5).tail = 5 ∧ slotOfKey t.evr.slots 0x0300 5 = some 0 ∧ (tget {} t.evr.slots 0).vmax = 4 := by decide +kernel

/-- A NOP that has been admitted. -/
def nopCmd : Cmd := { bytes := cmdBytes 0 [(2, 2, 7)], seq := 7, aframe := 1, tick := 600000 }

/-- The completion ring is full, and a NOP has been admitted. -/
def fullRing : State := withStream { ring with phead := 4, cmds := [nopCmd] }

theorem witness_entry_there : entryThere (withStream ring) 5 ∧ entryThere fullRing 5 := by
  unfold entryThere
  decide +kernel

theorem witness_completion_doorbell : 15 < 2 ^ (fullRing.stream 5).plog2 ∧ 2 ^ (fullRing.stream 5).plog2 ≤ 16 ∧ (fullRing.stream 5).state ≠ .hostLost
    ∧ (fullRing.stream 5).inflight = [] ∧ ((fullRing.stream 5).ptail.toNat + 1) % 2 ^ (fullRing.stream 5).plog2 = (fullRing.stream 5).phead.toNat
    ∧ fullRing.alive = true ∧ nextOf fullRing 5 0 = some nopCmd ∧ (fullRing.stream 5).cmds = [nopCmd] ∧ (fullRing.stream 5).unacked = []
    ∧ (fullRing.stream 5).heldUnacked = 0 ∧ (fullRing.stream 5).state = .running := by decide +kernel

/-- The command at ring place 2 is number `seq`. -/
def fetchable (seq : Nat) : State := put (withStream ring) 0x20000080 [(2, 2, seq)]

/-- The command of stream 5 at ring place 2 reads as `b`. -/
def readsAs (s : State) (b : List Byte) : Bool :=
  match readMem s none ((s.stream 5).cring.toNat + 64 * (((s.stream 5).head.toNat + 0) % 2 ^ (s.stream 5).clog2)) 64 with
  | .ok l => l = b
  | _ => false

theorem witness_fetch : fetchPlace ((fetchable 7).stream 5) = some 0 ∧ ((fetchable 7).stream 5).stuck = false ∧ ((fetchable 7).stream 5).retrying = false
    ∧ readsAs (fetchable 7) (cmdBytes 0 [(2, 2, 7)]) = true ∧ seqPhaseOk ((fetchable 7).stream 5) 0 (cmdBytes 0 [(2, 2, 7)]) = true
    ∧ ((fetchable 7).takeUp (cmdBytes 0 [(2, 2, 7)])).isSome = true ∧ byteAt (cmdBytes 0 [(2, 2, 7)]) 0 ≠ 2 ∧ fetchPlace ((fetchable 8).stream 5) = some 0
    ∧ readsAs (fetchable 8) (cmdBytes 0 [(2, 2, 8)]) = true ∧ seqPhaseOk ((fetchable 8).stream 5) 0 (cmdBytes 0 [(2, 2, 8)]) = false := by decide +kernel

theorem witness_reread : (∀ n ∈ [0, 7], let s := put (withStream { ring with retrying := true, rereads := n }) 0x20000080 [(2, 2, 8)]
    s.alive = true ∧ (s.stream 5).stuck = false ∧ (s.stream 5).retrying = true ∧ fetchPlace (s.stream 5) = some 0
      ∧ readsAs s (cmdBytes 0 [(2, 2, 8)]) = true ∧ seqPhaseOk (s.stream 5) 0 (cmdBytes 0 [(2, 2, 8)]) = false) := by decide +kernel

/-- The table entry of stream 5 is in order, or has no credits. -/
def armable (x : Stream) (credits : Nat) : State :=
  let s := withStream x
  put { s with cfg := { s.cfg with ranges := [⟨0, 16, 9, false, 0⟩] } } (entryAddr s 5)
    [(0x10, 1, 6), (0x11, 1, 6), (6, 1, credits), (8, 8, 0x20000000), (0x18, 8, 0x10000000), (3, 1, 1), (0x14, 2, 63)]

theorem witness_stream_actions :
    (let s := armable { state := .idle } 8
     s.alive = true ∧ (s.stream 5).state = .idle ∧ armOk s 5 (s.rd (entryAddr s 5) 64) = true) ∧
    (let s := armable { state := .idle } 0
     (s.stream 5).state = .idle ∧ armOk s 5 (s.rd (entryAddr s 5) 64) = false) ∧
    ((withStream ring).stream 5).live = true ∧
    ((withStream { ring with state := .halted }).stream 5).state = .halted ∧ ((withStream ring).stream 5).cmds = [] ∧
    (fullRing.stream 5).cmds ≠ [] ∧
    (let s := armable { state := .halted } 8
     let e := s.rd (entryAddr s 5) 64
     (s.stream 5).state ≠ .idle ∧ byteAt e 6 ≠ 0 ∧ byteAt e 3 < 4 ∧ fieldNat (bytesN e 0x12 2) 14 11 = 0 ∧ (s.stream 5).cmds.length ≤ byteAt e 6 ∧
       (s.stream 5).cmds.length < 256 ∧ ((rangeOf s 5).map (·.part)) = some 9) ∧ 6 ≤ (6#4).toNat := by decide +kernel

theorem witness_query_range : ∀ r, rangeOf (armable { state := .halted } 8) 5 = some r → r.part < 64 := by
  intro r h
  have e : rangeOf (armable { state := .halted } 8) 5 = some ⟨0, 16, 9, false, 0⟩ := by decide +kernel
  rw [e] at h
  cases h
  decide

theorem witness_stream_bases : (∀ e ∈ (withStream { state := .idle }).stm.streams, e.2.state = .idle)
    ∧ (∃ e ∈ (withStream ring).stm.streams, e.2.state ≠ .idle) := by decide +kernel

/-! ## Commands -/

/-- Stream 5 runs one admitted command. -/
def running (c : Cmd) : State := withStream { ring with cmds := [c], msixEn := true }
def admitted (op : Nat) (l : List (Nat × Nat × Nat)) : Cmd := { bytes := cmdBytes op l, seq := 7, aframe := 1, tick := 600000 }

theorem witness_lone_command : ∀ c ∈ [nopCmd, admitted 7 [], admitted 8 [(8, 8, 0x30000000)], admitted 9 []], loneCommand (running c) 5 c := by
  unfold loneCommand
  decide +kernel

theorem witness_completions :
    (∀ op ∈ [0, 7, 8, 9], (admitted op [(8, 8, 0x30000000)]).phase = .admitted ∧ opOf (admitted op [(8, 8, 0x30000000)]) = op
      ∧ (admitted op [(8, 8, 0x30000000)]).bytes.length = 64) ∧
    (admitted 9 []).timedOut = false ∧ ({ admitted 9 [] with timedOut := true } : Cmd).timedOut = true ∧
    (let s := running (admitted 8 [(8, 8, 0x30000000)])
     locate s 0x30000000 = .mem ∧ recordAt s 5 + 32 ≤ 0x30000000 ∧ entryAddr s 5 + 64 ≤ 0x30000000) ∧
    (let s := running nopCmd
     (s.stream 5).msixEn = true ∧ (s.stream 5).irqDone = false ∧ (s.stream 5).irqWant = false ∧ (s.stream 5).irqBatches = [] ∧ s.hlk.needhs = false ∧ linkHolds s = false) ∧
    locate (running nopCmd) 0x500000000000 = .none := by decide +kernel

/-- The counter of a SIGNAL wraps (09 R294). -/
theorem test_signal_wraps : (after (exec (.signal 5) (put (running (admitted 8 [(8, 8, 0x30000000), (0x10, 8, 2)])) 0x30000000
    [(0, 8, 2 ^ 64 - 1)]))).rdN 0x30000000 8 = 1 := by decide +kernel

/-- A RUN of program 3 holds slot 2; its footprint is page 1. -/
def runState : State :=
  let c := admitted 1 [(8, 1, 3)]
  let s := (running c).modPart 9 (fun q => { q with slots := [{ slot := 2, stream := 5, seq := 7, prog := 3, depth := 1, k := 0 }], ptBase := 0x40000000
                                                    programs := [{ prog := 3, depth := 1, footprint := 1, slots := 4, itab := 0, fplist := 0x50000000 }] })
  (put s 0x40000000 [(0, 8, 0x40008001), (0x10000000, 4, 0x80000001)]).writeLeaf 9 1 { state := 3, sframe := 512, bframe := 4, hstack := 2 }

theorem witness_run_dma_load :
    (nextOf runState 5 1 = some (admitted 1 [(8, 1, 3)]) ∧
      ((runState.part 9).slots.find? (fun u => u.stream = 5 && u.seq = 7)).map (·.slot) = some 2 ∧
      locate runState (runState.stm.argBase.toNat + 4096 * 9 + 64 * 2) = .mem) ∧
    nextPin runState 9 = some (admitted 1 [(8, 1, 3)]).adm ∧
    ((runState.stream 5).cmds.find? Cmd.unpinned = some (admitted 1 [(8, 1, 3)]) ∧ (programOf runState 9 3).isSome = true ∧
      (programOf runState 9 3).map (footprint runState) = some [(1, true)] ∧ leafAddr runState 0x40000000 1 = some 0x40008010 ∧
      readLeaf runState 9 1 = some { state := 3, sframe := 512, bframe := 4, hstack := 2 }) ∧
    (nextOf (running (admitted 0xA [])) 5 0xA = some (admitted 0xA []) ∧ waitingLoads (running (admitted 0xA [])) < 8) ∧
    nextOf (running (admitted 2 [(0x10, 1, 255)])) 5 2 = some (admitted 2 [(0x10, 1, 255)]) := by decide +kernel

/-- A HINT of page 1 has been admitted; its page has the leaf entry `l`, and the engine of `copies` places is busy. -/
def hinted (op : Nat) (l : Leaf) (copies : Nat := 0) : State :=
  let c := admitted 6 [(8, 1, op), (0xC, 4, 1), (0x10, 8, uniBase + pageSize)]
  let s := (running c).modPart 9 (fun q => { q with ptBase := 0x40000000, hbmQuota := 16, stackMask := 0xFFFF })
  let s1 := { s with mig := [(0, { running := (List.range copies).map (fun i => { part := 9, page := 100 + i, kind := .promote }) })] }
  (put s1 0x40000000 [(0, 8, 0x40008001)]).writeLeaf 9 1 l
def hintCmd (op : Nat) : Cmd := admitted 6 [(8, 1, op), (0xC, 4, 1), (0x10, 8, uniBase + pageSize)]

theorem witness_hints :
    (∀ e ∈ [(1, ({} : Leaf), 0), (2, { state := 1, sframe := 512 }, 0), (4, { state := 3, sframe := 512, bframe := 4 }, 0),
            (5, { state := 4, sframe := 512, bframe := 4 }, 0), (6, { state := 2, bframe := 4 }, 0), (3, { state := 2, bframe := 4 }, 8),
            (3, { state := 4, sframe := 512, bframe := 4 }, 8), (7, { state := 1, sframe := 512 }, 8), (4, { state := 3, sframe := 512, bframe := 4, pinS := 1 }, 0),
            (5, {}, 0)],
      hintAt (hinted e.1 e.2.1 e.2.2) 5 (hintCmd e.1) (hintOf (((hintCmd e.1).bytes.drop 8).take 32)) 9 1 0x40008010 e.2.1) ∧
    (mapStack (hinted 1 {}) 9 1 (hintOf (((hintCmd 1).bytes.drop 8).take 32)) = some 1 ∧ ((hinted 1 {}).promoFrame 9 1 1).isSome = true) ∧
    8 ≤ ((hinted 3 { state := 2 } 8).migOf 0).running.length ∧ ((hinted 4 { state := 3, pinS := 1 }).migOf 0).dlist = [] := by
  unfold hintAt
  decide +kernel

/-! ## Loads of bit-streams -/

/-- A partial bit-stream that deletes partition 9, at 0x1000000 (07 R190 to R193, R207). -/
def deleteImage (s : State) : State := put s 0x1000000
  [(0, 4, 0x53424651), (5, 1, 1), (6, 2, 0x1152), (8, 8, 0x140), (0x10, 4, 3), (0x14, 1, 9), (0x15, 1, 2), (0x18, 8, 77),
   (0x40, 2, 1), (0x44, 4, 40), (0x48, 8, 0x80), (0x50, 2, 0xFF), (0x54, 4, 128), (0x58, 8, 0xC0), (0x80, 1, 1), (0x88, 1, 9), (0xC0, 1, 1)]

/-- The first part of a full bit-stream with partition 9 on cluster 100, at 0x1000000 (07 R190 to R207). -/
def fullImageHead : List (Nat × Nat × Nat) :=
  [(0, 4, 0x53424651), (5, 1, 1), (6, 2, 0x1152), (8, 8, 0x380), (0x15, 1, 8), (0x18, 8, 78),
   (0x40, 2, 1), (0x44, 4, 176), (0x48, 8, 0xC0), (0x50, 2, 2), (0x54, 4, 16), (0x58, 8, 0x180), (0x60, 2, 3), (0x64, 4, 40), (0x68, 8, 0x1C0),
   (0x70, 2, 4), (0x74, 4, 16), (0x78, 8, 0x200), (0x80, 2, 5), (0x84, 4, 12), (0x88, 8, 0x240), (0x90, 2, 6), (0x94, 4, 8), (0x98, 8, 0x280),
   (0xA0, 2, 7), (0xA4, 4, 56), (0xA8, 8, 0x2C0), (0xB0, 2, 0xFF), (0xB4, 4, 128), (0xB8, 8, 0x300)]
/-- The sections of the same bit-stream. -/
def fullImageSections : List (Nat × Nat × Nat) :=
  [(0xC0, 1, 1), (0xC8, 1, 9), (0xCA, 2, 1), (0xCC, 4, 40), (0xD8, 4, 48), (0xE8, 2, 100),
   (0x1C0, 1, 1), (0x1C8, 1, 9), (0x1CC, 4, 16), (0x1D8, 8, 0x40000000), (0x200, 2, 1), (0x208, 2, 0), (0x20A, 2, 16), (0x20C, 1, 9),
   (0x240, 4, 300000), (0x244, 1, 1), (0x248, 1, 9), (0x24A, 1, 0xFF), (0x2C0, 1, 1), (0x2C8, 1, 9), (0x2C9, 1, 1), (0x2D0, 8, 48), (0x2DA, 2, 1), (0x2E8, 8, 48),
   (0x300, 1, 1)]
def fullImage (s : State) : State := put (put s 0x1000000 fullImageHead) 0x1000000 fullImageSections

/-- `s` with these loads queued. -/
def queued (s : State) (l : List LoadReq) : State := { s with cfg := { s.cfg with queue := l } }
def deleteReq : LoadReq := { src := 0x1000000, len := 0x140 }
def fullReq : LoadReq := { src := 0x1000000, len := 0x380 }

/-- What a signature of the root key over the `n` bytes at `a` certifies (07 R207). -/
def sealOver (s : State) (a n : Nat) : Seal := sealOf (s.rd a n) (s.section_ (a + n))

/-- What a check gives on success. -/
def isOk {α : Type} (p : α → Bool) : LM α → Bool
  | .ok i => p i
  | .error _ => false

theorem witness_boot_range : bootRange linked = some 0x011FFE000000
    ∧ bootRange (queued linked (List.replicate 9 fullReq)) = some 0x011FFE000000 := by decide +kernel

theorem witness_load_commands : waitingLoads linked < 8 ∧ 8 ≤ waitingLoads (queued linked (List.replicate 9 fullReq)) ∧ linked.MemOk
    ∧ (queued linked [{ fullReq with phase := .wait }]).cfg.queue = [{ fullReq with phase := .wait }]
    ∧ ({ fullReq with phase := .apply } : LoadReq).phase = .apply ∧ fullReq.part = none ∧ fullReq.cmd = none
    ∧ linked.cfg.src.toNat + 0xB8 ≤ hbmEnd := by
  refine ⟨?_, ?_, ⟨rfl, rfl⟩, rfl, rfl, rfl, rfl, ?_⟩ <;> decide +kernel

/-- A key record for slot 3 under the root key, naming this module's digest, at 0 (07 R208). -/
def keyRecord : State := (put linked 0 [(0, 4, 0x524B4651), (4, 1, 3), (5, 1, 1), (0x28, 8, 5), (0x70, 1, 1)]).wr 8 (moduleDigest linked)

theorem witness_key_record : let s := keyRecord
    let l := s.rd s.cfg.src.toNat 0x70
    l.take 4 = [0x51, 0x46, 0x4B, 0x52] ∧ byteAt l 4 ≤ 3 ∧ byteAt l 5 = 1 ∧ isZero ((l.drop 6).take 2) = true ∧ isZero ((l.drop 0x68).take 8) = true
      ∧ signedAt s s.cfg.src.toNat 0x70 = true ∧ sealCovers (sealOver s s.cfg.src.toNat 0x70) l (s.section_ (s.cfg.src.toNat + 0x70)) = true ∧ sealCovers rootSeal l (s.section_ (s.cfg.src.toNat + 0x70)) = false
      ∧ sealAnchored (sealOver s s.cfg.src.toNat 0x70) s.cfg.keys (byteAt (s.rd (s.cfg.src.toNat + 0x70) 2) 1)
        (s.section_ (s.cfg.src.toNat + 0x70)) = true ∧ byteAt (s.rd (s.cfg.src.toNat + 0x70) 2) 1 ≠ byteAt l 4 + 1
      ∧ s.pwr.idok = true ∧ (l.drop 8).take 32 = moduleDigest s ∧ ({ s.pwr with idok := false } : Pwr).idok = false := by decide +kernel

theorem witness_load_verify :
    (let s := queued (deleteImage ticks) [deleteReq]
     s.fwRuns = true ∧ s.cfg.queue = [deleteReq] ∧ deleteReq.phase = .idle ∧ repairing s = false
      ∧ isOk (fun (i : Image) => i.isPartial) (verifyLoad s deleteReq (sealOver s 0x1000000 0xC0)) = true
      ∧ isOk (fun (_ : Image) => true) (verifyLoad s deleteReq rootSeal) = false) ∧
    (let s := queued (fullImage linked) [fullReq]
     s.fwRuns = true ∧ repairing s = false ∧ isOk (fun (i : Image) => !i.isPartial) (verifyLoad s fullReq (sealOver s 0x1000000 0x300)) = true) := by decide +kernel

theorem witness_load_apply :
    (let r := { fullReq with phase := .drain }
     let s := queued (fullImage linked) [r]
     s.fwRuns = true ∧ applyReady s r = true ∧ isOk (fun i => !i.isPartial && !i.delete &&
       (let touched := (s.partList ++ i.parts.map (·.1)).eraseDups
        let s1 := (touched.foldl State.cancelCopies s.sampleGroups).headPhase .apply
        !copiesRun s1 touched && tablesOk s1 i.parts)) (readImage s r.src r.len) = true) ∧
    (let r := { fullReq with phase := .drain }
     let s := queued linked [r]
     applyReady s r = true ∧ r.part = none ∧ isOk (fun _ => true) (readImage s r.src r.len) = false) ∧
    (let r := { deleteReq with phase := .drain, part := some 9 }
     let s := queued (deleteImage (withPart (fun q => { q with state := .drained }))) [r]
     applyReady s r = true ∧ isOk (fun i => i.isPartial && i.delete && !copiesRun s [i.part]) (readImage s r.src r.len) = true) ∧
    (let r := { fullReq with part := some 9, applied := true }
     let s := queued ticks [r]
     s.fwRuns = true ∧ s.cfg.queue = [r] ∧ r.applied = true ∧ r.cmd = none ∧ (s.part 9).defined = true ∧ (s.part 9).goDown = false) := by decide +kernel

/-! ## Repairs and failures -/

/-- Cluster 101 is a spare for cluster 100. -/
def spared : State := { ticks with cfg := { ticks.cfg with spares := [101] }, clusters := ticks.clusters ++ [(101, { state := .spare })] }

theorem witness_repairs :
    (let s1 : State := { spared with cfg := { spared.cfg with rprClus := 100, rprSpare := 0x3FF } }
     spared.alive = true ∧ partOfCluster spared 100 = some 9 ∧ (spared.part 9).defined = true ∧ (spared.part 9).state ≠ .down ∧ 100 ∈ (spared.part 9).clusters
      ∧ (spared.part 9).repairs = [] ∧ spared.pwr.mpDown = none ∧ ({ spared.pwr with mpDown := some 3 } : Pwr).mpDown.isSome = true ∧ chooseSpare s1 100 (spared.cluster 100).widths = some 101) ∧
    (inPartition spared 100 = true ∧ spared.cfg.auto = false ∧ inPartition spared 102 = false) ∧
    (let r : Repair := { old := 100, spare := some 101, failed := false, step := 2 }
     let s := (spared.modPart 9 (fun q => { q with repairs := [r] })).modCluster 100 (fun k => { k with state := .drained })
     s.fwRuns = true ∧ (s.part 9).repairs.find? (repairReady s) = some r ∧ (s.part 9).defined = true) := by decide +kernel

theorem witness_failures : ticks.alive = true ∧ 639 < 640 ∧ 639 ∉ ticks.cfg.routerBad ∧ inPartition ticks 100 = true
    ∧ ticks.partList ≠ [] ∧ tickComes ticks ∧ (ticks.mgtOf 0).breaks = 0 := by
  unfold tickComes
  decide +kernel

theorem witness_memory_errors :
    (let s : State := { ticks with aud := { ticks.aud with cethr := 2 } }
     let k := 32 * stackOf 0 + pchOf (0 / pageSize)
     let seen := (tget [] s.aud.ceTimes k ++ [s.time]).filter (fun t => decide (s.time ≤ t + s.aud.cewin.toNat * 1200000000))
     seen.length < s.aud.cethr.toNat ∧ hbmEnd - 1 < hbmEnd ∧ s.aud.scrub ≠ 0) ∧
    (let s : State := { ticks with aud := { ticks.aud with cethr := 1 } }
     let k := 32 * stackOf 0 + pchOf (0 / pageSize)
     let seen := (tget [] s.aud.ceTimes k ++ [s.time]).filter (fun t => decide (s.time ≤ t + s.aud.cewin.toNat * 1200000000))
     s.aud.cethr.toNat ≤ seen.length ∧ s.fwRuns = true ∧ s.aud.ueret = true ∧ ({ s.pwr with mpDown := some 3 } : Pwr).mpDown.isSome = true) ∧
    ({ ticks.aud with ueret := false } : Aud).ueret = false ∧ ((withStream ring).stream 5).live = true ∧ ticks.pwr.mpDown = none
    ∧ ({ ticks.pwr with mpDown := some 3 } : Pwr).mpDown = some 3 ∧ ticks.aud.due = []
    ∧ ({ ticks.aud with due := [.retire 15 31] } : Aud).due = [.retire 15 31] := by decide +kernel

/-! ## Memory tiers -/

theorem witness_lateness : (14 ≤ 14 ∧ 4 ^ 14 ≤ 4 ^ 15 - 1 ∧ 4 ^ 15 - 1 < 4 ^ 15) ∧ 2 ^ 32 - 1 < 2 ^ 32 ∧ up.alive = true := by decide

/-- 187,400 cycles of lateness fall into bin 8 (08, worked example). -/
theorem test_lateness_bin : lateBin 187400 = 8 := by decide

/-- Page 1 of partition 9 is in motion in CD0's engine. -/
def moving (k : CopyKind) (state : Nat) : State :=
  let s := hinted 1 { state := state, sframe := 512, bframe := 4, hstack := 2 }
  { s with bmp := [(0, { state := .up, lanes := 0xFF, frames := 64 })]
           mig := [(0, { running := [{ part := 9, page := 1, kind := k, frame := 513 }] })] }

theorem witness_copies_end : ∀ k ∈ [CopyKind.promote, .evict], let s := moving k (if k = .promote then 5 else 6)
    (s.migOf 0).running.find? (fun c => c.part = 9 && c.page = 1) = some { part := 9, page := 1, kind := k, frame := 513 } ∧ (s.migOf 0).waiting = [] ∧ boardPresent s 4 = true
      ∧ portHolds s { part := 9, page := 1, kind := k, frame := 513 } = false
      ∧ readLeaf s 9 1 = some { state := (if k = .promote then 5 else 6), sframe := 512, bframe := 4, hstack := 2 } := by decide +kernel

theorem witness_retire_dirty_tlb :
    pchRetired ticks 15 31 = false ∧ 3 < 4 ∧
    (let s := hinted 1 { state := 3, sframe := 512, bframe := 4 }
     readLeaf s 9 1 = some { state := 3, sframe := 512, bframe := 4 } ∧ leafAddr s (s.part 9).ptBase.toNat 1 = some 0x40008010 ∧
      partOfCluster s 100 = some 9 ∧ (s.cluster 100).tlb = [] ∧ translate s 9 (uniBase + 1 * pageSize) false = .at (512 * pageSize)) ∧
    (let s : State := { ticks with mig := [(3, { inval := [(9, 1, [100], some 512, none)] })] }
     tlbStale s (s.cluster 100).tlb 9 1 = false ∧ oldAccess s 100 9 1 = false ∧ (s.migOf 3).inval = [(9, 1, [100], some 512, none)] ∧
       (s.migOf 3).waiting = []) := by decide +kernel

theorem witness_engine_acknowledges : let s : State := { ticks with mig := [(3, { inval := [(9, 1, [642], some 512, none)] })] }
    tlbStale s (s.updOf (642 - 640)).tlb 9 1 = false ∧ (s.migOf 3).inval = [(9, 1, [642], some 512, none)] ∧ (s.migOf 3).waiting = [] := by decide +kernel

/-- A TLB of a cluster and one of an engine hold an entry of page 1 that is not where the page lies now, and a promotion waits for its port. -/
theorem witness_held_by_tlb_or_port :
    (let s := (hinted 1 { state := 3, sframe := 512, bframe := 4 }).modCluster 100 (fun k => { k with tlb := [{ part := 9, page := 1, base := 0, clean := false }] })
     s.alive = true ∧ tlbStale s (s.cluster 100).tlb 9 1 = true) ∧
    (let s := (hinted 1 { state := 3, sframe := 512, bframe := 4 }).modUpd 2 (fun u => { u with tlb := [{ part := 9, page := 1, base := 0, clean := false }] })
     tlbStale s (s.updOf (642 - 640)).tlb 9 1 = true) ∧
    (let s : State := { moving .promote 5 with bmp := [(0, { state := .training, lanes := 0xFF, frames := 64, downAt := some 0 })] }
     (s.migOf 0).running = [{ part := 9, page := 1, kind := .promote, frame := 513 }] ∧
       portHolds s { part := 9, page := 1, kind := .promote, frame := 513 } = true) := by decide +kernel

theorem witness_no_other_invalidation (k : Nat) (h : k ≠ 3) :
    (({ ticks with mig := [(3, { inval := [(9, 1, [100], some 512, none)] })] } : State).migOf k).inval = [] := by
  simp [State.migOf, tget, Ne.symm h]

/-- Board port 3 is up with frames, or is training with a promotion from it. -/
def board (p : PortState) : State := { ticks with bmp := [(3, { state := p, lanes := 0xFF, frames := 64 })] }
def boardMoving : State :=
  let s := hinted 1 { state := 5, sframe := 512, bframe := 3 * portFrames, hstack := 2 }
  { s with bmp := [(3, { state := .training })], mig := [(0, { running := [{ part := 9, page := 1, kind := .promote, frame := 513 }] })] }

theorem witness_board_ports :
    ((board .up).alive = true ∧ 3 < 4 ∧ ((board .up).bmpOf 3).enable = true ∧ ((board .up).bmpOf 3).state ≠ .disabled ∧ 9999 < 10000 ∧ mayTrain (board .up) (11 + 3) = true ∧ (board .up).hlk.heldReqs = []
      ∧ mayTrain { board .up with pwr := { (board .up).pwr with stage := .fw } } (11 + 3) = false) ∧
    (((board .training).bmpOf 3).state = .training ∧ (∀ d, d < 4 → ((board .training).migOf d).running = [] ∧ ((board .training).migOf d).waiting = [])) ∧
    (let s := boardMoving
     (s.bmpOf 3).enable = true ∧ (s.bmpOf 3).state = .training ∧ (s.migOf 0).running = [{ part := 9, page := 1, kind := .promote, frame := 513 }] ∧
      (s.migOf 0).waiting = [] ∧ (∀ d, d < 4 → 0 < d → (s.migOf d).running = [] ∧ (s.migOf d).waiting = []) ∧
      readLeaf s 9 1 = some { state := 5, sframe := 512, bframe := 3 * portFrames, hstack := 2 } ∧
      leafAddr s (s.part 9).ptBase.toNat 1 = some 0x40008010 ∧ 3 * portFrames / portFrames = 3) ∧
    (boardBase ≤ boardBase + 3 * portFrames * pageSize ∧ boardBase + 3 * portFrames * pageSize < boardEnd ∧
      boardPresent (board .up) ((boardBase + 3 * portFrames * pageSize - boardBase) / pageSize) = true) ∧
    ({ (board .up).bmpOf 3 with enable := false } : Bmp).enable = false := by decide +kernel

/-! ## Schedule words -/

/-- `ticks` with core 1600, the first of cluster 100, as given, in a frame. -/
def withCore (k : Core) : State :=
  { ticks with cores := [(1600, k)], clusters := [(100, { state := .assigned, part := 9, frameOn := true })] }

/-- The predicate of flag 7, which is clear; flag 0 is set. -/
def offHdr : WordHdr := { pflag := 7 }

theorem witness_words :
    (runsWords (withCore {}) 1600 = true ∧ ((withCore {}).core 1600).compute = [] ∧ predOk ((withCore {}).core 1600) offHdr = false ∧
      needsFetch ((withCore {}).core 1600) offHdr.offset.toNat = false ∧ runsWords ticks 1600 = false) ∧
    (let f : SynArgs := { ctr := 3, val := 2 }
     let x : SWord := { h := { reps := 1 }, w := .syn 1 f }
     let s := withCore { compute := [x], tok := [(3, 2)] }
     (s.core 1600).compute = [x] ∧ (s.core 1600).feeds = [] ∧ x.dead = false ∧ predOk (s.core 1600) x.h = true ∧ needsFetch (s.core 1600) x.sched = false ∧
      f.val ≤ tget 0 (s.core 1600).tok f.ctr.toNat ∧ headIssue (s.core 1600) = some (0, x) ∧ x.w ≠ .syn 1 {}) := by decide +kernel

theorem witness_mac : (∀ f ∈ [({ arrg := arrSolo } : MacArgs), { arrg := arrSolo, noload := true, chain := true }], soloMac (withCore {}) 1600 f) ∧ delivered (withCore {}) 1600 {}
    ∧ macReserved (withCore {}) 1600 { aenc := 3 } = true ∧ ({ aenc := 3 } : MacArgs).pmode ≠ 3 := by
  unfold soloMac delivered wordReaches
  decide +kernel

/-- FP32 1.0 by 1.0 in one row of array 0, started in solo. -/
def drainCore : Core := { rows := [(0, { started := true, arrg := arrSolo })], acc := [(0, 0x40400000)], sreg := [(1, 0x3F8000003F800000)] }
def drainArgs : DrainArgs := { csreg := 1, mrec := 256, arrg := arrSolo }

theorem witness_drain_word : delivered (withCore drainCore) 1600 {} ∧ soloDrain (withCore drainCore) 1600 {} drainArgs
    ∧ coreBase 1600 + 64 * drainArgs.dline.toNat + 64 ≤ coreBase 1600 + 32 * drainArgs.mrec.toNat
    ∧ (let s := withCore { conv := [(0x1FFFC, [1, 2, 3, 4])] }
       s.alive = true ∧ (s.core 1600).conv = [(0x1FFFC, [1, 2, 3, 4])] ∧ 0x1FFFC + [1#8, 2, 3, 4].length ≤ 0x20000) := by
  unfold soloDrain delivered wordReaches
  decide +kernel

/-- 3.0 with coarse scales 1.0 drains as 3.0. -/
theorem test_drain_word_value : (after (exec (.drainWord 1600 {} drainArgs 0) (withCore drainCore))).rdN (coreBase 1600) 4 = 0x40400000 := by decide +kernel

/-- A move of one line between local line 5 and 0x10000000. -/
def oneLine (mop : BitVec 4) : Move := { mop := mop, h := {}, f := { loff := 5 }, mb := 0x10000000 }
def moveState (mop : BitVec 4) : State :=
  withCore { mb := [(0, 0x10000000)], fetches := [oneLine 0], drains := [oneLine mop], maxr := [(1, 0x40000000)] }

theorem witness_moves :
    (∀ m ∈ [(1 : BitVec 4), 8, 2, 3], let s := moveState m
     s.alive = true ∧ s.Between ∧ (s.core 1600).fetches = [oneLine 0] ∧ (s.core 1600).drains = [oneLine m] ∧ (oneLine m).heldAt = none ∧
      movLines (oneLine m) = [(0x10000000, 5)] ∧ resolve s (partOfCore s 1600) 0x10000000 false ≠ .wait ∧
      unwalked s 1600 ((oneLine 0).translated s 1600) = false ∧ ((oneLine 0).translated s 1600).reach s 0x10000000 = 0x10000000 ∧
      resolve s (partOfCore s 1600) 0x10000000 false = .at 0x10000000 ∧ (s.core 1600).kept = [] ∧ (s.core 1600).compute = [] ∧
      (oneLine 0).mop = 0 ∧ movLines (oneLine 0) = [(0x10000000, 5)] ∧ boardWaits s 0x10000000 = false ∧ locate s 0x10000000 = .mem ∧ 0x10000000 < hbmEnd) ∧
    (let k := (moveState 1).core 1600
     ({ k with kept := [(0, 0x10000000 / 64, List.replicate 64 1)] } : Core).kept.find? (fun e => e.1 = (oneLine 0).idx && e.2.1 = 0x10000000 / 64)
       = some (0, 0x10000000 / 64, List.replicate 64 1)) ∧
    (let x : SWord := { h := {}, w := .syn 1 {} }
     let s := withCore { mb := [(0, 0x10000000)], fetches := [oneLine 0], compute := [x] }
     waitingIssue s 1600 (oneLine 0) = some (601200, x) ∧ needsFetch { s.core 1600 with fetches := [] } x.sched = false ∧ x.w.nameless = false ∧
       s.time ≤ 601200 + 3 ∧ (oneLine 0).late = false ∧ (s.core 1600).lateFetch = false) := by
  unfold State.Between
  refine ⟨?_, ?_, ?_⟩ <;> decide +kernel

theorem no_port_waits {s : State} (h : s.bmp = []) (a n : Nat) : noPortWaits s a n := fun x _ _ => by
  simp [boardWaits, State.bmpOf, h, tget]

/-- The next word of the movement stream of core 1600, or the one that a command delivers. -/
def loadedMove (mop : BitVec 4) : SWord := { h := {}, w := .mov mop { loff := 5 }, idx := 4 }
def movesLoaded (mop : BitVec 4) : State := withCore { movement := [loadedMove mop] }

theorem witness_move_words :
    (let s := movesLoaded 0
     runsWords s 1600 = true ∧ (s.core 1600).feeds = [] ∧ moveOf (s.core 1600) isFetch {} (.mov 0 { loff := 5 }) = some (true, loadedMove 0) ∧
       (loadedMove 0).dead = false ∧ fetchReady s 1600 (loadedMove 0) { loff := 5 } = true ∧ drainTable (s.core 1600) 0 < 16) ∧
    moveOf ((withCore {}).core 1600) isFetch {} (.mov 0 {}) = some (false, { h := {}, w := .mov 0 {} }) ∧ runsWords ticks 1600 = false ∧
    (∀ m ∈ [(8 : BitVec 4), 1, 2, 3], let s := movesLoaded m
     runsWords s 1600 = true ∧ (s.core 1600).feeds = [] ∧ moveOf (s.core 1600) isDrain {} (.mov m { loff := 5 }) = some (true, loadedMove m) ∧
       (loadedMove m).dead = false ∧ drainReady (s.core 1600) (loadedMove m) = true ∧
       creditsFree s (moveLinks s 1600 ((s.core 1600).move m {} { loff := 5 } 4)) = true ∧ predOk (s.core 1600) {} = true ∧
       moveOf ((withCore {}).core 1600) isDrain offHdr (.mov m {}) = some (false, { h := offHdr, w := .mov m {} }) ∧
       drainReady ((withCore {}).core 1600) { h := offHdr, w := .mov m {} } = true ∧ predOk ((withCore {}).core 1600) offHdr = false) := by
  decide +kernel

/-- A move of core 1600 on CD0 and a stack of CD1, across bridge B01 (01 R14). -/
def farMoves (mop : BitVec 4) (links : List (Nat × LinkDir)) : State :=
  { withCore { movement := [loadedMove mop], mb := [(0, 0x4800000000)] } with aud := { ticks.aud with links := links } }
def bridge01 : List (Nat × LinkDir) := [(0, { total := 1, free := 1 }), (1, { total := 1, free := 1 })]

/-- Without a credit of the bridge the word stays; one credit is enough (01 R24). -/
theorem witness_moves_across_bridge :
    (let s := farMoves 0 []
     runsWords s 1600 = true ∧ (s.core 1600).feeds = [] ∧ moveOf (s.core 1600) isFetch {} (.mov 0 { loff := 5 }) = some (true, loadedMove 0) ∧
       fetchReady s 1600 (loadedMove 0) { loff := 5 } = false ∧ fetchReady (farMoves 0 bridge01) 1600 (loadedMove 0) { loff := 5 } = true) ∧
    (∀ m ∈ [(8 : BitVec 4), 1, 2, 3], let s := farMoves m []
     runsWords s 1600 = true ∧ moveOf (s.core 1600) isDrain {} (.mov m { loff := 5 }) = some (true, loadedMove m) ∧
       (drainReady (s.core 1600) (loadedMove m) && creditsFree s (moveLinks s 1600 ((s.core 1600).move m {} { loff := 5 } 4))) = false ∧
       creditsFree (farMoves m bridge01) (moveLinks (farMoves m bridge01) 1600 (((farMoves m bridge01).core 1600).move m {} { loff := 5 } 4)) = true) := by
  decide +kernel

/-- A maximum-merge of 2.0 into 1.0 leaves 2.0. -/
theorem test_maxm : (after (exec (.drainComplete 1600) (put (moveState 3) 0x10000000 [(0, 4, 0x3F800000)]))).rdN 0x10000000 4 = 0x40000000 := by decide +kernel

theorem witness_tokens_barriers :
    (let s := withCore { drains := [{ oneLine 1 with h := { offset := 9 } }], sent := [(1, .token 1601 3 5)] }
     delivered s 1600 { offset := 8 } ∧ partOfCore s 1600 = some 9 ∧ coreOfIndex s 9 1 = some 1601 ∧ drainsDone (s.core 1600) 8 = true ∧
      drainsDone (s.core 1600) 9 = false ∧ senderOf s (.token 1601 3 5) = some 1600 ∧ (s.core 1600).cbarAt = none) ∧
    ((3#16).toNat.testBit (1600 % 16) = true ∧ 1601 ∈ barrierCores 1600 3 ∧ ((withCore {}).core 1601).cbarAt ≠ some 3) ∧
    (let s : State := { withCore {} with cores := [(1600, {}), (1601, { cbarAt := some 3 })] }
     ∀ x ∈ barrierCores 1600 3, x ≠ 1600 → (s.core x).cbarAt = some 3) ∧ (2#16).toNat.testBit (1600 % 16) = false := by
  unfold delivered wordReaches
  decide +kernel

/-- Token counters hold at 0xFFFF (05 R143). -/
theorem test_token_saturates :
    tget 0 ((after (exec (.tokenIncrementArrival 1601 3 5) { withCore {} with
      cores := [(1600, { sent := [(1, .token 1601 3 5)] }), (1601, { tok := [(3, 0xFFFE)] })] })).core 1601).tok 3 = 0xFFFF := by decide +kernel

/-- Queue 63 of partition 9 runs from core 1600 to itself. -/
def queueState (q : Queue) : State :=
  (withCore { sent := [(1, .announce 9 63 2), (2, .credit 9 63 2)] }).modPart 9 (fun p => { p with queues := [(63, { q with c := 4, prod := 0, cons := 0 })] })
def queueArgs : SynArgs := { qid := 63, val := 2 }

theorem witness_queues :
    (∀ q ∈ [({ credits := 2 } : Queue), { announced := 2 }, { held := 2 }], delivered (queueState q) 1600 {} ∧
      queueRole (queueState q) 1600 queueArgs true = some 9 ∧ queueRole (queueState q) 1600 queueArgs false = some 9 ∧
      drainsDone ((queueState q).core 1600) 0 = true) ∧
    queueArgs.val.toNat ≤ (queueOf (queueState { credits := 2 }) 9 63).credits ∧ queueArgs.val.toNat ≤ (queueOf (queueState { announced := 2 }) 9 63).announced ∧
    (queueOf (queueState { announced := 1 }) 9 63).announced < queueArgs.val.toNat ∧ queueArgs.val.toNat ≤ (queueOf (queueState { held := 2 }) 9 63).held ∧
    (let s := queueState { annFly := 2, crdFly := 2 }
     headIssue (s.core 1600) = none ∧ senderOf s (.announce 9 63 2) = some 1600 ∧ 2 ≤ (queueOf s 9 63).annFly ∧ senderOf s (.credit 9 63 2) = some 1600 ∧ 2 ≤ (queueOf s 9 63).crdFly) ∧
    queueRole (queueState {}) 1600 { queueArgs with val := 0 } true = none ∧ queueRole (queueState {}) 1600 { queueArgs with val := 0 } false = none ∧
    (queueOf (queueState { credits := 1 }) 9 63).credits < queueArgs.val.toNat := by
  unfold delivered wordReaches
  decide +kernel

/-! ## Vector instructions -/

def coreUnit : VUnit := .core 1600 {}

theorem witness_vector_rows : delivered (withCore {}) 1600 {} ∧ ((withCore {}).core 1600).conv = [] ∧ ((withCore {}).updOf 3).ended = none
    ∧ (0x01, Instr.add) ∈ vecRows ∧ vecBad (withCore {}) 1600 {} {} (vop 0x66) = true ∧ vecBad (withCore {}) 1600 {} {} (vop 0x00) = false
    ∧ vop 0x40 { s := withCore {}, u := .engine 3, r := engRegs {}, pc := 0 } { vc := 7 } = .bad
    ∧ (match vop 0x00 { s := withCore {}, u := coreUnit, r := coreRegs {} } {} with | .next _ _ => true | _ => false) = true := by
  unfold delivered wordReaches
  refine ⟨by decide +kernel, rfl, rfl, ?_, rfl, rfl, rfl, rfl⟩
  simp [vecRows, vecLaneRows]

theorem witness_vector_units : unitReady (withCore {}) coreUnit ∧ unitReady (withCore {}) (.engine 3) ∧ ({ vc := 7 } : VArgs).vc.toNat < 8
    ∧ ({ va := 15 } : VArgs).va.toNat < 16 ∧ ({} : VArgs).i = false ∧ ({ vd := 7 } : VArgs).vd.toNat < 8 ∧ ({ vd := 15 } : VArgs).vd.toNat < 16 := by
  unfold unitReady delivered wordReaches coreUnit
  decide +kernel

/-- 1.0 + 2.0 = 3.0 in lane 31, the last of a core. -/
theorem test_vector_add : (coreRegs ((after (exec (.add coreUnit { vd := 2, va := 0, vb := 1 })
    (withCore { v := tput (tput [] (laneKey 0 31) 0x3F800000) (laneKey 1 31) 0x40000000 }))).core 1600)).lane 2 31 = 0x40400000 := by decide +kernel

theorem witness_vector_memory :
    (let x : VArgs := { va := 15, vd := 3, imm := 0x1FF80, vc := 0 }
     let s := withCore {}
     let r := coreRegs (s.core 1600)
     let sz := elemSize (x.vc.toNat % 8)
     let ad := (r.sget x.va + x.imm.signExtend 64).toNat % 0x20000
     delivered s 1600 {} ∧ x.i = false ∧ x.va.toNat < 16 ∧ ad % sz = 0 ∧ (∀ i, i < 32 → inFailed (s.core 1600) 1600 (ad + i * sz) sz = false) ∧
      ad + 32 * sz ≤ 0x20000 ∧ ad % 8 = 0 ∧ inFailed (s.core 1600) 1600 ad 8 = false ∧ inFailed (s.core 1600) 1600 ad 4 = false ∧ x.vd.toNat < 16) ∧
    ((coreRegs ({} : Core)).sget 15 + (2#32).signExtend 64).toNat % 0x20000 % elemSize 0 ≠ 0 := by
  unfold delivered wordReaches
  decide +kernel

theorem witness_cvtb : ∃ x : VArgs, cvtbOk x = true ∧ x.i = false ∧ x.va.toNat < 16 := ⟨{ vd := 1, va := 2, vc := 16, imm := 0x20000 }, by decide +kernel⟩

/-- The scales lie at 0x300 and the elements at 0x100. -/
def quantState : State := { ticks with upd := [(3, { sreg := [(1, 0x100), (2, 0x300)] })] }
def quantArgs : VArgs := { va := 1, vb := 2, vc := 4, vd := 5 }

theorem witness_engine_rows : unitReady quantState (.engine 3) ∧ quantState.Between ∧ quantArgs.i = false ∧ quantArgs.va.toNat < 16 ∧ quantArgs.vb.toNat < 16
    ∧ quantArgs.vc.toNat % 8 = 4 ∧ ((engRegs (quantState.updOf 3)).sget quantArgs.va + quantArgs.imm.signExtend 64).toNat = 0x100
    ∧ ((engRegs (quantState.updOf 3)).sget quantArgs.vb).toNat = 0x300 ∧ (∀ i, i < 256 → locate quantState (0x100 + i) = .mem)
    ∧ (∀ g, g < 4 → locate quantState (0x300 + 2 * g) = .mem) ∧ 0x100 + 256 ≤ 0x300 ∧ (0x300 % 2 = 0 ∧ quantState.bmp = []) := by
  unfold unitReady State.Between
  decide +kernel

theorem witness_engine_rows_ports : noPortWaits quantState 0x100 256 ∧ noPortWaits quantState 0x300 8 := ⟨no_port_waits rfl _ _, no_port_waits rfl _ _⟩

/-! ## DMA -/

/-- A descriptor that moves 64 bytes from `a` to 0x20000000 (11 R327). -/
def descBytes (a : Nat) : List Byte := (put State.reset 0
  [(0, 6, a), (6, 6, 64), (0x16, 3, 64), (0x19, 3, 1), (0x1C, 6, 0x20000000), (0x22, 6, 64), (0x32, 3, 64), (0x35, 3, 1)]).rd 0 64

/-- Channel 255 runs the DMA command of stream 5. -/
def dmaState (r : DmaRun) : State :=
  let s := running { admitted 2 [(0x10, 1, 255)] with phase := .started }
  { s with chans := [(255, { run := some r })] }
def dmaRun (a : Nat) : DmaRun := { stream := 5, seq := 7, part := 9, prio := 0, descs := [(0x1000, descBytes a)], addr := 0x1000, here := true }

theorem witness_dma :
    (let s : State := { ticks with chans := [(255, { queue := [dmaRun 0] })] }
     (s.chan 255).run = none ∧ (s.chan 255).queue = [dmaRun 0] ∧ (dmaRun 0).here = true ∧ (tget {} s.aud.dma (dieOfChan 255)).frozen = false) ∧
    ({ dmaRun 0 with here := false } : DmaRun).here = false ∧ (dmaRun 0).done = false ∧ ((dmaState (dmaRun 0)).chan 255).run = some (dmaRun 0) ∧ { dmaRun 0 with done := true }.done = true ∧
    ((dmaState { dmaRun 0 with done := true }).chan 255).run = some { dmaRun 0 with done := true } ∧
    (let r : DmaRun := { dmaRun 0 with stopReq := true }
     let s := dmaState r
     s.alive = true ∧ (s.chan 255).run = some r ∧ r.finished = false ∧ r.failAt = none ∧ r.cur = none ∧ r.stopReq = true ∧
       (cmdOf s 5 7).any (fun c => c.phase = .started) = true) ∧
    ({ frozen := true } : DmaPool).frozen = true ∧
    (∀ a ∈ [0x10000000, 0x500000000000], let r := dmaRun a
     let s := put (dmaState r) 0x1000 ((List.range 64).map (fun i => (i, 1, ((descBytes a).getD i 0).toNat)))
     (s.chan 255).run = some r ∧ s.Between ∧ r.finished = false ∧ r.stopReq = false ∧ r.heldAt = none ∧ r.off = 0 ∧ r.rpos = 0 ∧ r.staged = [] ∧ r.olds = [] ∧ (srcPat (descBytes a)).accs 0 = [(a, 64)] ∧
      (dstPat (descBytes a)).accs 0 = [(0x20000000, 64)] ∧ mayOverlap (descBytes a) = false ∧ locate s 0x20000000 = .mem ∧ boardWaits s a = false ∧ boardWaits s 0x20000000 = false ∧ r.again = none ∧
      ((cmdOf s 5 7).any (fun c => c.phase = .started)) = true ∧ r.failAt = none ∧ r.cur = none ∧ r.pos = 0 ∧ 0 < (s.dmaOf (dieOfChan 255)).retryLimit.toNat ∧
      (match dmaReread s r with | .run l b => decide (l = descBytes a) && !b | _ => false) = true) ∧
    (locate ticks 0x10000000 = .mem ∧ locate ticks 0x500000000000 = .none) ∧
    (let r : DmaRun := { dmaRun 0x500000000000 with failAt := some 0x500000000000, cur := some (descBytes 0x500000000000), repeats := 2 }
     let s := dmaState r
     r.failAt = some 0x500000000000 ∧ r.cur = some (descBytes 0x500000000000) ∧ (srcPat (descBytes 0x500000000000)).accs 0 = [(0x500000000000, 64)] ∧
       (s.dmaOf (dieOfChan 255)).retryLimit.toNat ≤ r.repeats + 1) := by
  unfold State.Between
  decide +kernel

/-! ## Shards -/

/-- An engine sequence succeeds. -/
def succeeds {α : Type} (r : Except UStop α × State) (p : α → State → Bool) : Bool :=
  match r with
  | (.ok a, s) => p a s
  | (.error _, _) => false

/-- A shard of one element at step 5, with two working versions, at 0x20000000 (12 R341, R342); flags of its attributes. -/
def shardCells (attr : Nat) : List (Nat × Nat × Nat) :=
  [(8, 8, 5), (0x10, 8, 0x20002000), (0x18, 8, 0x20000400), (0x2E, 1, attr), (0x400, 4, 1), (0x404, 4, 1), (0x408, 8, 0x20001000), (0x410, 8, 64),
   (0x418, 8, 0x20000800), (0x429, 1, 2), (0x42A, 1, 1)]

/-- A command on that shard has been admitted. -/
def shardCmd (op : Nat) (step : Nat) : Cmd :=
  admitted op [(8, 8, 0x20000000), (0x10, 8, if op = 0xB then 0xFF else 0x21000000), (0x18, 8, 0x20003000), (0x20, 8, if op = 3 then step else 0),
               (0x29, 1, if op = 3 then 1 else 0)]
def shardState (op attr step : Nat) : State := put (running (shardCmd op step)) 0x20000000 (shardCells attr)

/-- The job of the same command, parked. -/
def parkedJob (at_ : Option Nat) : UpdJob := { stream := 5, seq := 7, part := 9, opcode := 3, shard := 0x20000000, nonfin := 1, parkedAt := at_, parkFrames := 2 }
def parkedState (at_ : Option Nat) : State :=
  let s := put (running { shardCmd 3 5 with phase := .started }) 0x20000000 ((0x303E, 2, 2) :: shardCells 0)
  { s with upd := [(1, { parked := [parkedJob at_], spAddr := [(0, 0x20002400)] })] }

theorem witness_update_start :
    (let s := shardState 3 0 6
     nextOf s 5 3 = some (shardCmd 3 6) ∧ s.Between ∧ engineOf (shardCmd 3 6).bytes % 4 = 1 ∧ (s.stream 5).pinned = false ∧ s.hlk.sent = 0 ∧ engineTurn s 1 5 (shardCmd 3 6) = true ∧
      locate s 0x20000000 = .mem ∧ (shardOf 0x20000000 (s.rd 0x20000000 64)).map = 0x20000400 ∧ locate s 0x20000400 = .mem ∧
      locate s (0x20000400 + 64) = .mem ∧ (shardOf 0x20000000 (s.rd 0x20000000 64)).step ≠ stepOf (shardCmd 3 6)) ∧
    (let s := shardState 3 0 5
     engineTurn s 1 5 (shardCmd 3 5) = true ∧ succeeds (uStart 1 (some 9) (shardCmd 3 5) ({ s with bus := some (5, some 1) }.beginUpd 1 5 (shardCmd 3 5) .pass1))
       (fun r s1 => r.isSome && decide (s1.hlk.sent = 0) && (match cmdOf s1 5 7 with | some e => decide (e.bytes = (shardCmd 3 5).bytes) | none => true)) = true) ∧
    (∀ a ∈ [some 3, none], let s := parkedState a
     (s.updOf 1).parked = [parkedJob a] ∧ cmdOf s 5 7 = some { shardCmd 3 5 with phase := .started } ∧
      s.rdN (paramsAt (shardCmd 3 5) + 0x3E) 2 = 2 ∧ 2 ≤ (parkedJob a).parkFrames) := by
  unfold State.Between
  decide +kernel

theorem witness_update_ports : noPortWaits (shardState 3 0 6) 0x20000000 64 ∧ noPortWaits (shardState 3 0 6) 0x20000400 128 :=
  ⟨no_port_waits rfl _ _, no_port_waits rfl _ _⟩

/-- The shard of an UPDATE lies on board memory whose port trains. -/
def boardUpdate : Cmd := admitted 3 [(8, 8, boardBase), (0x18, 8, 0x20003000), (0x20, 8, 5), (0x29, 1, 1)]
def boardShard : State := { running boardUpdate with bmp := [(0, { state := .training, lanes := 0xFF, frames := 64, downAt := some 0 })] }

/-- The job of `boardUpdate`, whose pass 1 waits. -/
def queuedJob : UpdJob := { stream := 5, seq := 7, part := 9, opcode := 3, shard := boardBase }
/-- A job that has flipped, and one whose group is complete. -/
def flippedJob : UpdJob :=
  { parkedJob none with flip := some { x := { d := 1, p := some 9, h := shardOf 0x20000000 [], m := mapOf [], q := paramsOf [], c := shardCmd 3 5, spare := 0 }
                                       k := { norm := 0, clip := 0, gs := 0, lr := 0, bc1 := 0, bc2 := 0, lsnext := 0, skip := false }, nonfin := 0, cycles := 0 } }

theorem witness_update_waits_and_aborts :
    (let s := boardShard
     nextOf s 5 3 = some boardUpdate ∧ engineOf boardUpdate.bytes % 4 = 1 ∧ engineTurn s 1 5 boardUpdate = true ∧
      (match uStart 1 (some 9) boardUpdate ({ s with bus := some (5, some 1) }.beginUpd 1 5 boardUpdate .pass1) with
       | (.error (.wait _), _) => true
       | _ => false) = true) ∧
    (let s : State := { boardShard with upd := [(1, { queue := [queuedJob], began := some (5, 7), state := .pass1 })] }
     s.alive = true ∧ (s.updOf 1).parked = [] ∧ (s.updOf 1).queue = [queuedJob] ∧ queuedJob.flip = none ∧ (s.updOf 1).began = some (5, queuedJob.seq) ∧
      cmdOf s 5 7 = some boardUpdate ∧ boardUpdate.phase = .admitted) ∧
    (let s := (parkedState none).modUpd 1 (fun u => { u with parked := [flippedJob] })
     (s.updOf 1).parked = [flippedJob] ∧ flippedJob.parkedAt = none ∧ (s.updOf 1).began = none ∧ flippedJob.flip.any (fun g => g.x.d = 1) = true ∧
      cmdOf s 5 7 = some { shardCmd 3 5 with phase := .started }) ∧
    (parkedJob none).flip = none ∧ ((parkedState none).updOf 1).began = none := by decide +kernel

theorem witness_update_commit :
    (let s := parkedState none
     let j := parkedJob none
     let c := shardCmd 3 5
     updRunning (s.updOf 1) = some j ∧ j.flip = none ∧ (cmdOf s 5 7).map (·.lost) = some false ∧ succeeds (uShard j.shard { s with bus := some (5, some 1) }) (fun hm s0 => succeeds (uRd none (paramsAt c) 128 s0) (fun pl s1 =>
      let x : UCx := { d := 1, p := some 9, h := hm.1, m := hm.2, q := paramsOf pl, c := c, spare := 0x20002400 }
      succeeds (uBefore x j ((s1.atPass2 1 j).modUpd 1 (fun u => { u with curShard := BitVec.ofNat 32 hm.1.id })))
        (fun k s3 => k.1.skip && succeeds (uAfter x k.1 s3) (fun _ s4 => s4.hlk.sent = 0 && (cmdOf s4 5 7).any (fun c => c.phase = .started))))) = true) ∧
    (ticks.updOf 1).state = .idle ∧ (ticks.updOf 1).parked = [] ∧ (ticks.updOf 1).queue = [] ∧ ((parkedState none).updOf 1).parked ≠ [] ∧ (parkedState none).Between
    ∧ locate (parkedState none) 0x20000000 = .mem ∧ boardWaits (parkedState none) 0x20000000 = false := by
  unfold State.Between
  decide +kernel

theorem witness_shard_commands : ∀ op ∈ [0xB, 4, 5], let s := shardState op (b2n (op = 5)) 0
    let c := shardCmd op 0
    let d := engineOf c.bytes % 4
    let u := { s with bus := some (5, some d) }.beginUpd d 5 c .other
    engineTurn s d 5 c = true ∧ nextOf s 5 op = some c ∧
      (if op = 0xB then succeeds (uTieSum (some 9) (bytesN c.bytes 8 8) u) (fun _ _ => true)
       else if op = 4 then succeeds (uExport d 5 (some 9) c u) (fun r _ => !r.2.1)
       else succeeds (uImportAll d (some 9) c u) (fun _ _ => true)) = true := by decide +kernel

/-- EXPORT and IMPORT of a shard at no location fail. -/
theorem witness_shard_commands_fail : ∀ op ∈ [4, 5],
    let c := admitted op [(8, 8, 0x500000000000), (0x10, 8, 0x21000000), (0x18, 8, 0x20003000)]
    let s := running c
    let d := engineOf c.bytes % 4
    let u := { s with bus := some (5, some d) }.beginUpd d 5 c .other
    engineTurn s d 5 c = true ∧ nextOf s 5 op = some c ∧
      (match (if op = 4 then (uExport d 5 (some 9) c u).1.map (fun _ => ()) else (uImportAll d (some 9) c u).1.map (fun _ => ())) with
       | .error (.fail .busError) => true
       | _ => false) = true := by decide +kernel

/-- TIE_SUM of a shard at no location, and an EXPORT whose image falls on the header's STEP. -/
def lostTie : Cmd := admitted 0xB [(8, 8, 0x500000000000), (0x10, 8, 0xFF)]
def selfExport : Cmd := admitted 4 [(8, 8, 0x20000000), (0x10, 8, 0x1FFFFFC0), (0x18, 8, 0x20003000)]

theorem witness_shard_commands_end_early :
    (let s := running lostTie
     let d := engineOf lostTie.bytes % 4
     engineTurn s d 5 lostTie = true ∧ nextOf s 5 0xB = some lostTie ∧
       (match uTieSum (some 9) (bytesN lostTie.bytes 8 8) ({ s with bus := some (5, some d) }.beginUpd d 5 lostTie .other) with
        | (.error (.fail .busError), s1) => decide (s1.hlk.sent = 0)
        | _ => false) = true) ∧
    (let s := put (running selfExport) 0x20000000 (shardCells 0)
     let d := engineOf selfExport.bytes % 4
     engineTurn s d 5 selfExport = true ∧ nextOf s 5 4 = some selfExport ∧
       succeeds (uExport d 5 (some 9) selfExport ({ s with bus := some (5, some d) }.beginUpd d 5 selfExport .other)) (fun r _ => r.2.1) = true) := by
  decide +kernel

/-! ## Ingest -/

/-- An INGEST of 2 slots of 64 bytes from the queue at 0x22000000 (09 R297). -/
def ingestCmd : Cmd :=
  admitted 0xC [(8, 8, 0x22000000), (0x10, 8, 0x23000000), (0x18, 8, 0x24000000), (0x20, 8, 0x25000000), (0x28, 4, 64), (0x2C, 2, 2), (0x2E, 1, 3)]
def ingestJob : IngJob := { stream := 5, seq := 7, part := 9, aframe := 1, bytes := ingestCmd.bytes, tick := 600000, start := 600000, srcTail := 1 }

/-- A queue of 16 places with one record of 4 bytes (14 R406, R408), or none. -/
def ingestState (j : IngJob) (tail : Nat) : State :=
  let s := running { ingestCmd with phase := .started }
  put { s with ing := [(3, { run := some j })] } 0x22000000
    [(4, 1, 4), (0xC, 4, tail), (0x10, 8, 0x22001000), (0x1000, 8, 0x22002000), (0x1008, 4, 0x44), (0x2000, 4, 0x52534651), (0x2004, 1, 0), (0x2005, 1, 1),
     (0x2010, 4, 4), (0x2020, 4, 4), (0x2040, 4, 0x04030201)]

theorem witness_ingest :
    (let s : State := { running ingestCmd with ing := [(3, { queue := [ingestJob] })] }
     nextOf s 5 0xC = some ingestCmd ∧ byteAt ingestCmd.bytes 0x2E = 3 ∧ (s.ingOf 3).run = none ∧ (s.ingOf 3).late = [] ∧ (s.ingOf 3).queue = [ingestJob] ∧
      ingHeld s ingestJob = false ∧ ingestJob.roiAt = 0 ∧ ingestJob.held = false ∧ { ingestJob with held := true }.held = true) ∧
    (let s := ingestState { ingestJob with srcTail := 0 } 0
     (s.ingOf 3).abortReq = false ∧ (s.ingOf 3).late = [] ∧ ingestJob.writeFrom = none ∧ ingestJob.ends = none ∧ ingCause s 3 ingestJob = none ∧ ingestJob.finish = false ∧ pastDeadline s ingestJob = false ∧ s.hlk.sent = 0 ∧ (∀ c ∈ (s.stream 5).cmds, c.lost = false) ∧ s.rdN (ingestJob.src + 8) 4 = 0 ∧ s.rdN (ingestJob.src + 0xC) 4 = 0 ∧
      ingestJob.awaiting = [] ∧ ingestJob.slot < ingestJob.nSlots) ∧
    (let s := ingestState ingestJob 1
     s.rdN (ingestJob.src + 8) 4 ≠ ingestJob.srcTail ∧ ingestJob.slot + 1 < ingestJob.nSlots ∧
      succeeds (uRecord (some 9) ingestJob.src ingestJob ingestJob.slot { s with bus := some (5, none) }) (fun r s1 => decide (s1 = { s with bus := some (5, none) }) &&
        (match r.2 with | .ok o => !o.hdr.image && decide (o.data = [1, 2, 3, 4]) | .error _ => false)) = true ∧
      0 < ingestJob.slotSz ∧ ingestJob.batch % 64 + ingestJob.slotSz ≤ 64 ∧ locate s ingestJob.batch = .mem ∧ boardWaits s ingestJob.batch = false ∧ ingestJob.src + 12 ≤ ingestJob.batch) ∧
    ({ ingestJob with waiting := true } : IngJob).waiting = true ∧
    (let s := ingestState ingestJob 1
     (deadlineOf s ingestJob = some 894000) ∧ succeeds (uReport (some 9) ingestJob ((({ s with bus := some (5, none) }.advanceTo 894000).event 0x0703 3 2).modIng 3
        (fun g => { g with run := some { ingestJob with finish := true } }))) (fun _ s1 => s1.hlk.sent = 0) = true ∧
      ingestJob.count 3 = 2 ∧
      (let cut := { ingestJob.cutShort with ends := some Status.stopped }
       succeeds (uReport (some 9) cut (({ s with bus := some (5, none) }.modIng 3 (fun g => { g with abortReq := true })).modIng 3
        (fun g => { g with run := some { cut with finish := true } }))) (fun _ s1 => s1.hlk.sent = 0) = true)) := by decide +kernel

/-- The mask of the batch lies at no location. -/
theorem witness_ingest_report_fails :
    let j : IngJob := { ingestJob with bytes := cmdBytes 0xC [(8, 8, 0x22000000), (0x10, 8, 0x23000000), (0x18, 8, 0x500000000000), (0x20, 8, 0x25000000),
                                                              (0x28, 4, 64), (0x2C, 2, 2), (0x2E, 1, 3)] }
    let s := ingestState j 1
    deadlineOf s j = some 894000 ∧
      (match uReport (some 9) j ((({ s with bus := some (5, none) }.advanceTo 894000).event 0x0703 3 2).modIng 3
         (fun g => { g with run := some { j with finish := true } })) with
       | (.error (.fail .busError), s1) => decide (s1.hlk.sent = 0)
       | _ => false) = true := by decide +kernel

/-- The mask of the batch lies on board memory whose port trains: the writes after an ABORT wait. -/
theorem witness_ingest_abort_waits :
    let j : IngJob := { ingestJob with bytes := cmdBytes 0xC [(8, 8, 0x22000000), (0x10, 8, 0x23000000), (0x18, 8, boardBase), (0x20, 8, 0x25000000),
                                                              (0x28, 4, 64), (0x2C, 2, 2), (0x2E, 1, 3)] }
    let s : State := { ingestState j 1 with bmp := [(0, { state := .training, lanes := 0xFF, frames := 64, downAt := some 0 })] }
    let cut := { j.cutShort with ends := some Status.stopped }
    (s.ingOf 3).run = some j ∧ j.writeFrom = none ∧ j.ends = none ∧
      (match uReport (some 9) cut (({ s with bus := some (5, none) }.modIng 3 (fun g => { g with abortReq := true })).modIng 3
         (fun g => { g with run := some { cut with finish := true } })) with
       | (.error (.wait _), _) => true
       | _ => false) = true := by decide +kernel

/-- The slot is padded with zeros (14 R411). -/
theorem test_ingest_fills_slot : (after (exec (.ingestRecord 3) (ingestState ingestJob 1))).rd 0x23000000 6 = [1, 2, 3, 4, 0, 0] := by decide +kernel

/-! ## Peer links -/

/-- Queue 15 has one entry for module 2 over PLK0 (15 R426). -/
def peerState (op flags : Nat) (p : PortState) (links : List (Nat × LinkDir) := [(18, { total := 1, free := 1 }), (19, { total := 1, free := 1 })]) : State :=
  put { ticks with aud := { ticks.aud with links := links }, plk := { queues := [(15, { base := 0x26000000, en := true, tail := 1, port := 1 })], ports := [(0, { state := p, lanes := 0xFF })] } } 0x26000000
    [(0, 1, op), (1, 1, flags), (2, 1, 2), (8, 8, 0x27000000), (0x10, 8, 0x28000000), (0x18, 8, if op = 4 then 0 else 64), (0x20, 8, 0x29000000),
     (0x28, 8, 0x2A000000), (0x30, 8, 1)]

theorem witness_peer_entries :
    (∀ op ∈ [1, 2, 3, 4], let s := peerState op 3 .up
     let e := entryOf (s.rd 0x26000000 64)
     s.alive = true ∧ s.Between ∧ peerReady (s.pq 15) = true ∧ queueEntryAt (s.pq 15) = 0x26000000 ∧ locate s 0x26000000 = .mem ∧ entryCheck s (s.pq 15) e = none ∧
      boardWaits s 0x26000000 = false ∧ boardWaits s e.laddr = false ∧ entryPort s (s.pq 15) e = some 0 ∧ portUp s 0 = true ∧
      creditsFree s (entryLinks 0 e) = true ∧ e.op = op ∧ (op ≠ 4 → e.len = 64) ∧ locate s e.laddr = .mem ∧
      creditsFree (peerState op 3 .up []) (entryLinks 0 e) = false ∧ portTrains (peerState op 3 .training) 0 = true ∧
      portUp (peerState op 3 .down) 0 = false ∧ portTrains (peerState op 3 .down) 0 = false ∧ (e.op = 4 ∨ e.len = 64)) ∧
    (let s := peerState 7 3 .up
     (entryCheck s (s.pq 15) (entryOf (s.rd 0x26000000 64))).isSome = true ∧ 4 < (entryOf (s.rd 0x26000000 64)).op) ∧
    (∀ lost ∈ [false, true], let s := (peerState 2 3 .up).modPq 15 (fun q => { q with run := some ((peerState 2 3 .up).rd 0x26000000 64), moved := 32, lost := lost })
     let e := entryOf (s.rd 0x26000000 64)
     (s.pq 15).run = some (s.rd 0x26000000 64) ∧ e.op = 2 ∧ (s.pq 15).res = none ∧ (s.pq 15).lost = lost ∧ (s.pq 15).moved ≠ e.len) ∧
    (let s := peerState 1 7 .up
     entryCheck s (s.pq 15) (entryOf (s.rd 0x26000000 64)) = some (.badOpcode, 1) ∧ (entryOf (s.rd 0x26000000 64)).op = 1) ∧
    (let s := (peerState 1 3 .up).modPq 15 (fun q => { q with run := some ((peerState 1 3 .up).rd 0x26000000 64), moved := 64 })
     let e := entryOf (s.rd 0x26000000 64)
     (s.pq 15).run = some (s.rd 0x26000000 64) ∧ (s.pq 15).res = none ∧ (e.lcnt && ctrOk e.lctr) = true ∧ queueEntryAt (s.pq 15) + 64 ≤ e.lctr ∧
       locate s e.lctr = .mem) := by
  unfold State.Between
  decide +kernel

/-- An entry ends with the counter update it sends: MOVED stays, and the count goes out once (15 R429). -/
theorem test_peer_count_sent_at_end : let s := (peerState 1 3 .up).modPq 15 (fun q => { q with run := some ((peerState 1 3 .up).rd 0x26000000 64), moved := 64 })
    (after (exec (.peerEntryDone 15 0 64) s)).plk.sent = [(2, .count 0x2A000000 1)] ∧ (after (exec (.peerEntryDone 15 7 0) s)).plk.sent = [] := by decide +kernel

/-- The routes table of PLK: module 2 over PLK0. -/
def routed : State := { ticks with plk := { routes := [(2, 1)] } }

theorem witness_peer_requests : locate routed 0x27000000 = .mem ∧ 0x27000000 % 64 = 0 ∧ (List.replicate 64 (7 : Byte)).length = 64 ∧ 0x27000000 < hbmEnd
    ∧ locate routed 0x500000000000 = .none ∧ locate routed uniBase = .uni ∧ boardWaits routed 0x27000000 = false ∧ locate routed (hbmEnd - 8) = .mem ∧ hbmEnd - 8 + 8 ≤ hbmEnd
    ∧ (let s : State := { routed with mig := [(0, { retired := [(0, some true)] })] }
       locate s 0 = .none ∧ 0 % 8 = 0 ∧ 0 + 8 ≤ hbmEnd)
    ∧ (2 : BitVec 8) ≠ routed.plk.modid ∧ routeTo routed 2 = some 0 ∧ routeTo routed 3 = none := by decide +kernel

theorem witness_peer_queues : (let x := routed.pq 15
     let sz := 2 ^ x.log2.toNat
     (15 < sz ∧ (x.tail.toNat + sz - x.head.toNat % sz) % sz ≤ (15 + sz - x.head.toNat % sz) % sz) ∧ ¬ 16 < sz) ∧
    mayTrain routed 9 = true ∧ mayTrain routed 10 = true ∧ mayTrain (stageAt .fw) 9 = false ∧ (stageAt .fw).alive = true ∧ (routed.pport 1).enable = true ∧ false ≠ (routed.pport 1).enable ∧ 9999 < 10000 ∧ ((peerState 1 3 .training).pport 0).state = .training
    ∧ ((peerState 1 3 .up).pport 0).state ≠ .down ∧ ((peerState 1 3 .up).pport 0).state ≠ .disabled := by decide +kernel

/-- A follower one hop from module 4; the time master. -/
def follower : State := { ticks with plk := { hops := 2, locked := true, lastSlew := 598976, ports := [(0, { state := .up })] }, frm := { ticks.frm with groups := [(15, { xmod := true })] } }
def timeMaster : State := { follower with plk := { master := true } }

theorem witness_shared_time : isTimeMaster follower.plk = false ∧ follower.plk.master = false ∧ follower.plk.follows 0 4 1 = true
    ∧ (4 : BitVec 8) ≠ follower.plk.modid ∧ follower.plk.follows 1 4 2 = false
    ∧ announced (timeMaster.modGroup 15 (fun x => { x with hasSeq := true, next := 700000, index := 3, plan1 := 2 })) = [⟨15, 700000, 3, 2⟩]
    ∧ follower.plk.locked = true ∧ follower.plk.lastSlew + 1024 ≤ follower.time ∧ follower.plk.toffset < (600001 : Int) - follower.time
    ∧ (12000 : BitVec 24) ≠ follower.frm.period ∧ (follower.group 15).xmod = true ∧ isTimeMaster timeMaster.plk = true ∧ (timeMaster.group 15).xmod = true
    ∧ follower.frm.epoch ≠ none ∧ follower.frm.period ≠ 0 ∧ up.frm.epoch = none ∧ up.plk.master = false ∧ (follower.group 15).hasSeq = false
    ∧ (let s := (follower.modPart 9 (fun q => { q with locked := true, lgrp := 15 })).modGroup 15 (fun x => { x with en := true })
       9 ∈ membersOf s 15 ∧ (s.part 9).verdict = none ∧ (s.group 15).xmod = true)
    ∧ ({ follower.plk with locked := false } : Plk).locked = false ∧ follower.time < 598977 + 1024 := by decide +kernel

/-! ## Ledger, recorder, measurement -/

theorem witness_reconciliation : ticks.alive = true ∧ (4#5).toNat < 5 ∧ (∀ ch ∈ chansOf 4, (ticks.chan ch).run = none) ∧ (15#5).toNat < 16 := by decide +kernel

/-- The recorder holds key 0x0404, source 0, in slot 0, with one occurrence in this interval. -/
def recorderState : State := { up with evr := { restored := true, rate := [(4, 2)], slots := [(0, { valid := true, code := 0x0404, count := 1, ivlCnt := 1 })] } }

theorem witness_events : recorderState.evr.restored = true ∧ slotOfKey recorderState.evr.slots 0x0404 0 = some 0
    ∧ (tget {} recorderState.evr.slots 0).valid = true ∧ evLimit recorderState.evr 0x0404 = some 2 ∧ 1 < 2
    ∧ evLimit { recorderState.evr with rate := [(4, 1)] } 0x0404 = some 1
    ∧ slotOfKey recorderState.evr.slots 0x0404 1 = none ∧ freeSlot 4080 0 recorderState.evr.slots = some 1 ∧ 4 ^ 13 ≤ 4 ^ 14 - 1 := by decide +kernel

theorem no_free_slot (t : Tbl EvSlot) : ∀ n k, (∀ j, k ≤ j → j < k + n → (tget {} t j).valid = true) → freeSlot n k t = none
  | 0, _, _ => rfl
  | n + 1, k, h => by
    rw [freeSlot, if_pos (h k (Nat.le_refl k) (by omega))]
    exact no_free_slot t n (k + 1) (fun j h1 h2 => h j (by omega) (by omega))

theorem tget_full {α : Type} (d v : α) : ∀ n k j, k ≤ j → j < k + n → tget d ((List.range' k n).map (fun i => (i, v))) j = v
  | 0, _, _, _, _ => by omega
  | n + 1, k, j, h1, h2 => by
    rw [List.range'_succ, List.map_cons, tget]
    split
    · rfl
    · exact tget_full d v n (k + 1) j (by omega) (by omega)

/-- A recorder all of whose slots a program may use hold an event. -/
def fullSlots : List (Nat × EvSlot) := (List.range' 0 4080).map (fun k => (k, ({ valid := true } : EvSlot)))

theorem witness_recorder_full : freeSlot 4080 0 fullSlots = none :=
  no_free_slot _ 4080 0 (fun j h1 h2 => by
    have h := tget_full ({} : EvSlot) ({ valid := true } : EvSlot) 4080 0 j h1 h2
    simpa [fullSlots] using congrArg EvSlot.valid h)

/-- Bin limits of 16 R455. -/
theorem test_event_bins : binOf 0 = 0 ∧ binOf 1 = 1 ∧ binOf 3 = 1 ∧ binOf 4 = 2 ∧ binOf 268435455 = 14 ∧ binOf 268435456 = 15 := by decide +kernel

/-- The recorder's slots, one of them in use, are being dumped to 0x1000000. -/
def dumping : State := { recorderState with evr := { recorderState.evr with dbusy := true, dumpNext := 0x1000000 } }

theorem witness_dump : recorderState.evr.dbusy = false ∧ recorderState.evr.dumpAddr.toNat + 0x80000 ≤ hbmEnd ∧ dumping.evr.dbusy = true ∧ (∀ e ∈ dumping.evr.slots, e.1 < 4096) ∧ dumping.evr.slots.length = 1
    ∧ hbmEnd < (0x012000000000#48).toNat + 0x80000 := by decide +kernel

theorem witness_dump_lines : dumpable dumping dumping.evr.dumpNext = 4096 := by
  have h : ∀ a, a < hbmEnd → locate dumping a = .mem := fun a ha => by
    have e : pchOut dumping (stackOf a) (pchOf (a / pageSize)) = false := rfl
    simp [locate, ha, e]
  have g : (List.range 4096).find? (fun i => locate dumping (dumping.evr.dumpNext + 128 * i) != .mem) = none := by
    rw [List.find?_eq_none]
    intro i hi
    have : i < 4096 := List.mem_range.mp hi
    have : dumping.evr.dumpNext + 128 * i < hbmEnd := by show 0x1000000 + 128 * i < 0x012000000000; omega
    simp [h _ this]
  simp [dumpable, g]

/-- A clear token for every slot, with this module's digest and the present nonce (16 R461), at 0. -/
def tokenState : State := (put up 0 [(0, 4, 0x54434651), (4, 2, 0x0100), (0x40, 1, 1)]).wr 0x10 (moduleDigest up)

theorem witness_clear_token : tokenState.fwRuns = true ∧ signedAt tokenState tokenState.evr.token.toNat 64 = true ∧ tokenBoundOk tokenState (tokenState.rd 0 64) = true
    ∧ sealCovers (sealOver tokenState 0 64) (tokenState.rd 0 64) (tokenState.section_ 64) = true
    ∧ sealCovers rootSeal (tokenState.rd 0 64) (tokenState.section_ 64) = false
    ∧ sealAnchored (sealOver tokenState 0 64) tokenState.cfg.keys (byteAt (tokenState.section_ 64) 1) (tokenState.section_ 64) = true ∧ tokenState.pwr.idok = true
    ∧ ((tokenState.rd 0 64).drop 0x10).take 32 = moduleDigest tokenState ∧ tokenState.pwr.log.length < 1024 := by decide +kernel

/-- A firmware image of 192 bytes with SEQ 1 at 0, signed from byte 64 on (17 R488). -/
def firmware : State := put up 0 [(0, 4, 0x57464651), (4, 2, 0x0100), (8, 8, 1), (0x10, 8, 192), (0x20, 8, 64), (64, 1, 1)]

theorem witness_firmware : let s := firmware
    let a := s.pwr.fwsrc.toNat
    let h := s.rd a 64
    let g := s.rd (a + 64) 8
    (a + 64 ≤ hbmEnd ∧ h.take 4 = [0x51, 0x46, 0x46, 0x57] ∧ bytesN h 4 2 = 0x0100 ∧ bytesN h 6 2 = 0 ∧ isZero (h.drop 0x28) = true ∧
      bytesN h 0x10 8 = 192 ∧ a + 192 ≤ hbmEnd ∧ bytesN h 0x20 8 = 64 ∧ 64 % 64 = 0 ∧ a + 64 + 8 ≤ hbmEnd ∧ sectionOk g = true ∧
      a + 64 + sectionLen g ≤ hbmEnd ∧ 64 + sectionLen g ≤ 192 ∧ s.pwr.fwSeq.toNat < bytesN h 8 8) ∧
    (let x := sealOver s 0 64
     x.body.digest = digestOf (s.rd a 64) ∧ x.body.sig = BitVec.ofNat 512 (beNat (s.rd (a + 64 + 8) 64)) ∧
      x.path.chain = digestOf (s.rd (a + 64 + 0x48) (bytesN g 4 4)) ∧ x.path.signer = .root ∧ byteAt g 1 = 0) ∧
    rootSeal.body.digest ≠ digestOf (s.rd a 64) ∧ Memory.wf s.mem = true ∧ (up.rd 0 64).take 4 ≠ [0x51, 0x46, 0x46, 0x57] := by decide +kernel

/-- A request for a quote with the log, to be answered at 0x1000 (17 R491), at 0. -/
def quoteState : State :=
  put { up with pwr := { up.pwr with qbusy := true } } 0 [(0, 4, 0x51414651), (4, 2, 1), (8, 8, 0x1000), (0x10, 8, 0xD0), (0x18, 8, 9)]

theorem witness_quote : let s := quoteState
    let r := s.rd s.pwr.attreq.toNat 64
    s.pwr.qbusy = true ∧ s.pwr.attreq.toNat + 64 ≤ hbmEnd ∧ r.take 4 = [0x51, 0x46, 0x41, 0x51] ∧ bytesN r 4 2 < 4 ∧ bytesN r 6 2 = 0
      ∧ isZero (r.drop 0x38) = true ∧ bytesN r 8 8 % 64 = 0 ∧ s.pwr.log = [] ∧ bytesN r 8 8 + 0xD0 ≤ hbmEnd ∧ 0xD0 ≤ bytesN r 0x10 8
      ∧ s.pwr.idok = true ∧ 4 ≤ bytesN [0, 0, 0, 0, 4, 0] 4 2 ∧ ({ s.pwr with idok := false } : Pwr).idok = false := by decide +kernel

end Sys2Proof.Tests
end

section
/-! SUPPORT. Register accesses (00 R9, R10) and the state after reset: the rules of MGT_SCRATCHn and of discarded accesses, and
the statements `RegisterWrites` and `ResetState` from them. -/
namespace Sys2Proof.Proofs.Registers
open Sys2Proof Sys2Proof.Machine

/-! ## Little-endian bytes -/

@[simp] theorem length_leBytes (n v : Nat) : (leBytes n v).length = n := by
  induction n generalizing v with
  | zero => rfl
  | succ n ih => simp [leBytes, ih]

theorem leNat_leBytes (n v : Nat) : leNat (leBytes n v) = v % 256 ^ n := by
  induction n generalizing v with
  | zero => simp [leBytes, leNat, Nat.mod_one]
  | succ n ih => simp [leBytes, leNat, ih, Nat.pow_succ', Nat.mod_mul]

/-- The bytes of a value depend on its residue only. -/
theorem leBytes_mod (n v : Nat) : leBytes n (v % 256 ^ n) = leBytes n v := by
  induction n generalizing v with
  | zero => rfl
  | succ n ih =>
    have hlow : BitVec.ofNat 8 (v % 256 ^ (n + 1)) = BitVec.ofNat 8 v := by
      apply BitVec.eq_of_toNat_eq
      simp [Nat.pow_succ']
    have hhigh : v % 256 ^ (n + 1) / 256 = v / 256 % 256 ^ n := by
      rw [Nat.pow_succ', Nat.mod_mul_right_div_self]
    simp only [leBytes, hlow, hhigh, ih]

/-! ## What a register write leaves of the present value (R9) -/

theorem regW_n_whole (v : W64) (cur : Nat) : RegW.n { v := v.toNat } cur = v.toNat := by
  have := v.isLt
  simp only [RegW.n, if_true]
  omega

/-- A write of the upper half keeps the lower. -/
theorem regW_n_upper (x cur : Nat) (h : x < 2 ^ 32) :
    RegW.n { v := x * 2 ^ 32, lo := false } cur = cur % 2 ^ 32 + x * 2 ^ 32 := by
  simp only [RegW.n, if_true, Bool.false_eq_true, if_false]
  omega

/-- A register's value once its upper half has been written. -/
def withUpper (old : W64) (x : Nat) : W64 := BitVec.ofNat 64 (old.toNat % 2 ^ 32 + x * 2 ^ 32)

section
variable (old : W64) {x : Nat} (hx : x < 2 ^ 32)
include hx

theorem withUpper_toNat : (withUpper old x).toNat = old.toNat % 2 ^ 32 + x * 2 ^ 32 := by
  rw [withUpper, BitVec.toNat_ofNat]
  omega

theorem withUpper_div : (withUpper old x).toNat / 2 ^ 32 = x := by
  rw [withUpper_toNat old hx]
  omega

theorem withUpper_mod : (withUpper old x).toNat % 256 ^ 4 = old.toNat % 256 ^ 4 := by
  rw [withUpper_toNat old hx]
  omega

end

/-! ## The fields of a register address (R7) -/

theorem dieCode_regDie {a : Nat} (h : a < regEnd) : dieCode (regDie a) = (a - regBase) / 0x1000000 := by
  have hk : (a - regBase) / 0x1000000 < 5 := by simp only [regEnd, regBase] at *; omega
  unfold dieCode regDie
  generalize (a - regBase) / 0x1000000 = k at *
  by_cases h0 : k = 0
  · simp [h0]
  · simp only [if_neg h0]; split <;> omega

section
variable {k n j : Nat}

theorem regBase_le_scratchAt (k n j : Nat) : regBase ≤ scratchAt k n + j := by
  simp only [scratchAt]; omega

theorem scratchAt_lt_regEnd (hk : k < 5) (hn : n < 4) (hj : j < 8) : scratchAt k n + j < regEnd := by
  simp only [scratchAt, regBase, regEnd]; omega

theorem dieCode_scratchAt (hk : k < 5) (hn : n < 4) (hj : j < 8) : dieCode (regDie (scratchAt k n + j)) = k := by
  rw [dieCode_regDie (scratchAt_lt_regEnd hk hn hj)]
  simp only [scratchAt]; omega

theorem regBlock_scratchAt (hn : n < 4) (hj : j < 8) : regBlock (scratchAt k n + j) = 0 := by
  simp only [regBlock, scratchAt]; omega

theorem regOff_scratchAt (hn : n < 4) (hj : j < 8) : regOff (scratchAt k n + j) / 8 * 8 = 0x40 + 8 * n := by
  simp only [regOff, scratchAt]; omega

theorem scratchAt_mod_8 (k n j : Nat) : (scratchAt k n + j) % 8 = j % 8 := by
  simp only [scratchAt, regBase]; omega

theorem regAccessOk_scratchAt_whole (hn : n < 4) : regAccessOk (scratchAt k n) 8 = true := by
  have hb := regBlock_scratchAt (k := k) (j := 0) hn (by omega)
  have ha := scratchAt_mod_8 k n 0
  simp only [Nat.add_zero, Nat.zero_mod] at hb ha
  simp [regAccessOk, regPresent, hb, ha]

theorem regAccessOk_scratchAt_half (hn : n < 4) (hj : j = 0 ∨ j = 4) : regAccessOk (scratchAt k n + j) 4 = true := by
  have hb := regBlock_scratchAt (k := k) (j := j) hn (by omega)
  have ha := scratchAt_mod_8 k n j
  have h4 : (scratchAt k n + j) % 4 = 0 := by omega
  simp [regAccessOk, regPresent, hb, h4]

end

/-- Scratch registers are the only members of their array. -/
theorem regIdx_scratch {n : Nat} (hn : n < 4) : regIdx (0x40 + 8 * n) 0x40 8 4 = some n := by
  simp [regIdx, hn]

theorem regIdx_eq_some {off n : Nat} (h : regIdx off 0x40 8 4 = some n) (h8 : off % 8 = 0) : off = 0x40 + 8 * n := by
  unfold regIdx at h
  split at h
  case isTrue hr => cases h; omega
  case isFalse => cases h

/-! ## MGT_SCRATCHn -/

/-- The state after scratch register `n` of die code `k` has been set. -/
def setScratch (s : State) (k n : Nat) (v : W64) : State :=
  s.modMgt k (fun m => { m with scratch := tset 0 m.scratch n v })

/-- Only the management registers change. -/
theorem setScratch_frame (s : State) (k n : Nat) (v : W64) :
    setScratch s k n v = { s with mgt := (setScratch s k n v).mgt } := rfl

/-- The present value of scratch register `n` of die code `k`. -/
def scratch (s : State) (k n : Nat) : W64 := tget 0 (s.mgtOf k).scratch n

@[simp] theorem scratch_setScratch (s : State) (k n : Nat) (v : W64) : scratch (setScratch s k n v) k n = v := by
  simp [scratch, setScratch]

theorem readMgt_scratch (s : State) (d : Nat) {n : Nat} (hn : n < 4) :
    readMgt s d (0x40 + 8 * n) = (scratch s (dieCode d) n).toNat := by
  match n, hn with
  | 0, _ => rfl
  | 1, _ => rfl
  | 2, _ => rfl
  | 3, _ => rfl

theorem writeMgt_scratch (s : State) (d : Nat) {n : Nat} (hn : n < 4) (w : RegW) :
    s.writeMgt d (0x40 + 8 * n) w = setScratch s (dieCode d) n (BitVec.ofNat 64 (w.n (scratch s (dieCode d) n).toNat)) := by
  have h20 : 0x40 + 8 * n ≠ 0x20 := by omega
  simp only [State.writeMgt, if_neg h20, regIdx_scratch hn, readMgt_scratch s d hn, setScratch]

/-- Setting one scratch register is not seen at another register of the management block. -/
theorem readMgt_setScratch_other (s : State) {k n d off : Nat} (v : W64)
    (h : dieCode d ≠ k ∨ regIdx off 0x40 8 4 ≠ some n) : readMgt (setScratch s k n v) d off = readMgt s d off := by
  by_cases hd : dieCode d = k
  · have hn := h.resolve_left (not_not_intro hd)
    unfold readMgt
    split <;> simp only [setScratch, hd, State.mgtOf_modMgt_self, State.modMgt_parts]
    split
    case h_1 i hi =>
      have : i ≠ n := fun hin => hn (hin ▸ hi)
      rw [tget_tset, if_neg this]
    case h_2 => rfl
  · have hm : (setScratch s k n v).mgtOf (dieCode d) = s.mgtOf (dieCode d) := by
      rw [setScratch, State.mgtOf_modMgt, if_neg hd]
    simp only [readMgt, hm]; rfl

/-- Outside their own block the management registers are not read. -/
theorem regRead_mgt (s : State) (m : Tbl Mgt) {b : Nat} (hb : b ≠ 0) (d off : Nat) :
    regRead { s with mgt := m } d b off = regRead s d b off := by
  unfold regRead
  split
  case h_1 => exact absurd rfl hb
  all_goals rfl

theorem regRead_setScratch_other (s : State) {k n d b off : Nat} (v : W64)
    (h : b ≠ 0 ∨ dieCode d ≠ k ∨ regIdx off 0x40 8 4 ≠ some n) : regRead (setScratch s k n v) d b off = regRead s d b off := by
  by_cases hb : b = 0
  · subst hb
    exact readMgt_setScratch_other s v (h.resolve_left (not_not_intro rfl))
  · exact regRead_mgt s _ hb d off

theorem regRead_scratchAt (s : State) {k n j : Nat} (hk : k < 5) (hn : n < 4) (hj : j < 8) :
    regRead s (regDie (scratchAt k n + j)) (regBlock (scratchAt k n + j)) (regOff (scratchAt k n + j) / 8 * 8)
      = (scratch s k n).toNat := by
  rw [regBlock_scratchAt hn hj, regOff_scratchAt hn hj]
  exact (readMgt_scratch s _ hn).trans (by rw [dieCode_scratchAt hk hn hj])

theorem regWrite_scratchAt (s : State) {k n j : Nat} (hk : k < 5) (hn : n < 4) (hj : j < 8) (w : RegW) :
    s.regWrite (regDie (scratchAt k n + j)) (regBlock (scratchAt k n + j)) (regOff (scratchAt k n + j) / 8 * 8) w
      = setScratch s k n (BitVec.ofNat 64 (w.n (scratch s k n).toNat)) := by
  rw [regBlock_scratchAt hn hj, regOff_scratchAt hn hj]
  exact (writeMgt_scratch s _ hn w).trans (by rw [dieCode_scratchAt hk hn hj])

/-! ## One access -/

section
variable (s : State) {k n : Nat}

theorem regRead1_scratch_whole (hk : k < 5) (hn : n < 4) :
    (s.regRead1 (scratchAt k n) 8).1 = leBytes 8 (scratch s k n).toNat := by
  have hr := regRead_scratchAt s (j := 0) hk hn (by omega)
  simp only [Nat.add_zero] at hr
  simp [State.regRead1, regAccessOk_scratchAt_whole hn, hr]

theorem regRead1_scratch_lower (hk : k < 5) (hn : n < 4) :
    (s.regRead1 (scratchAt k n) 4).1 = leBytes 4 (scratch s k n).toNat := by
  have hr := regRead_scratchAt s (j := 0) hk hn (by omega)
  have ha := scratchAt_mod_8 k n 0
  have hok := regAccessOk_scratchAt_half (k := k) (j := 0) hn (.inl rfl)
  simp only [Nat.add_zero, Nat.zero_mod] at hr ha hok
  simp [State.regRead1, hok, hr, ha]

theorem regRead1_scratch_upper (hk : k < 5) (hn : n < 4) :
    (s.regRead1 (scratchAt k n + 4) 4).1 = leBytes 4 ((scratch s k n).toNat / 2 ^ 32) := by
  have hr := regRead_scratchAt s (j := 4) hk hn (by omega)
  simp [State.regRead1, regAccessOk_scratchAt_half hn (.inr rfl), hr, scratchAt_mod_8]

theorem regWrite1_scratch_whole (hk : k < 5) (hn : n < 4) (v : W64) :
    s.regWrite1 (scratchAt k n) (leBytes 8 v.toNat) = setScratch s k n v := by
  have hw := regWrite_scratchAt s (j := 0) hk hn (by omega) { v := v.toNat }
  have hv : v.toNat % 256 ^ 8 = v.toNat := Nat.mod_eq_of_lt v.isLt
  simp only [Nat.add_zero] at hw
  simp only [State.regWrite1, length_leBytes, regAccessOk_scratchAt_whole hn, if_true, leNat_leBytes, hv, hw, regW_n_whole,
    BitVec.ofNat_toNat, BitVec.setWidth_eq]

theorem regWrite1_scratch_upper (hk : k < 5) (hn : n < 4) {x : Nat} (hx : x < 2 ^ 32) :
    s.regWrite1 (scratchAt k n + 4) (leBytes 4 x)
      = setScratch s k n (withUpper (scratch s k n) x) := by
  have hw := regWrite_scratchAt s (j := 4) hk hn (by omega) { v := x * 2 ^ 32, lo := false }
  have hv : x % 256 ^ 4 = x := Nat.mod_eq_of_lt hx
  have ha := scratchAt_mod_8 k n 4
  simp only [State.regWrite1, length_leBytes, regAccessOk_scratchAt_half hn (.inr rfl), if_true, leNat_leBytes, hv, ha,
    reduceIte, Nat.reduceEqDiff, Nat.reduceMod, hw, regW_n_upper x _ hx, withUpper]

/-- A whole register that is not the scratch register reads as before. -/
theorem regRead1_setScratch_other {a : Nat} (v : W64) (ha : a ≠ scratchAt k n) (h8 : a % 8 = 0) (hlo : regBase ≤ a)
    (hhi : a < regEnd) : ((setScratch s k n v).regRead1 a 8).1 = (s.regRead1 a 8).1 := by
  have hreg : regBlock a ≠ 0 ∨ dieCode (regDie a) ≠ k ∨ regIdx (regOff a / 8 * 8) 0x40 8 4 ≠ some n := by
    by_cases hdie : dieCode (regDie a) = k
    · by_cases hidx : regIdx (regOff a / 8 * 8) 0x40 8 4 = some n
      · refine .inl (fun hblock => ha ?_)
        have hoff := regIdx_eq_some hidx (by omega)
        rw [dieCode_regDie hhi] at hdie
        simp only [regBlock, regOff, regBase, scratchAt] at *
        omega
      · exact .inr (.inr hidx)
    · exact .inr (.inl hdie)
  simp only [State.regRead1, regRead_setScratch_other s v hreg]
  split <;> rfl

end

/-! ## Accesses that R9 discards -/

/-- The recorder takes an event; the rest of the state does not see it. -/
theorem event_frame (s : State) (code source v : Nat) : s.event code source v = { s with evr := (s.event code source v).evr } := by
  unfold State.event
  split
  · rfl
  · split <;> rfl

/-- A discarded access changes the event recorder and the management registers. -/
theorem discardReg_frame (s : State) (a : Nat) :
    s.discardReg a = { s with mgt := (s.discardReg a).mgt, evr := (s.discardReg a).evr } := by
  unfold State.discardReg
  dsimp only
  rw [event_frame]
  rfl

theorem discardReg_evr (s : State) (a : Nat) :
    (s.discardReg a).evr = (s.event 0x0002 (dieCode (regDie a)) (a % 2 ^ 32)).evr := rfl

/-- The first discarded access of a die is latched (R9): a latch that holds one keeps it, and so does that of every other die. -/
theorem mgtOf_discardReg (s : State) (a k : Nat) : (s.discardReg a).mgtOf k =
    if k = dieCode (regDie a) ∧ (s.mgtOf k).errVal = false then { s.mgtOf k with errVal := true, errAddr := BitVec.ofNat 48 a }
    else s.mgtOf k := by
  have hev (j : Nat) : (s.event 0x0002 (dieCode (regDie a)) (a % 2 ^ 32)).mgtOf j = s.mgtOf j := by
    simp only [State.mgtOf, State.event_mgt]
  simp only [State.discardReg, State.mgtOf_modMgt, hev]
  by_cases hk : k = dieCode (regDie a)
  · subst hk
    cases (s.mgtOf (dieCode (regDie a))).errVal <;> simp
  · simp [hk]

theorem regWrite1_discarded (s : State) {a : Nat} {l : List Byte} (h : regAccessOk a l.length = false) :
    s.regWrite1 a l = s.discardReg a := by
  simp [State.regWrite1, h]

/-! ## The command -/

theorem releaseHeld_of_none {s : State} (h : s.hlk.heldReqs = []) : s.releaseHeld = s := by
  simp [State.releaseHeld, h]

/-- A write to register space, where no request waits after it, is the one access (00 R9, R10). -/
theorem exec_registerWrite {s t : State} {addr width : Nat} {v : W64} (hs : s.alive = true) (hlo : regBase ≤ addr)
    (hhi : addr < regEnd) (hw : width ≤ 64) (ht : s.regWrite1 addr (leBytes width v.toNat) = t) (hheld : t.hlk.heldReqs = []) :
    exec (.registerWrite addr width v) s = .next t := by
  have harm : exec (.registerWrite addr width v) s = execRegisterWrite addr width v s := rfl
  rw [harm]
  simp only [execRegisterWrite, ok, State.live, hs, if_true, hlo, hhi, and_self, Nat.min_eq_left hw, ht, releaseHeld_of_none hheld]

/-- Settles O10: each clause is the one access (`exec_registerWrite`), carried out on the scratch register or discarded. -/
theorem registerWrites : Obligations.RegisterWrites := by
  refine ⟨?_, ?_, ?_⟩
  · intro s k n v hs hheld hk hn
    refine ⟨setScratch s k n v, ?_, ?_, ?_, setScratch_frame s k n v⟩
    · exact exec_registerWrite hs (regBase_le_scratchAt k n 0) (scratchAt_lt_regEnd (j := 0) hk hn (by omega)) (by omega)
        (regWrite1_scratch_whole s hk hn v) hheld
    · rw [regRead1_scratch_whole _ hk hn, scratch_setScratch]
    · exact fun a ha h8 hlo hhi => regRead1_setScratch_other s v ha h8 hlo hhi
  · intro s k n v hs hheld hk hn hv
    refine ⟨_, exec_registerWrite hs (regBase_le_scratchAt k n 4) (scratchAt_lt_regEnd hk hn (by omega)) (by omega)
      (regWrite1_scratch_upper s hk hn hv) hheld, ?_, ?_, setScratch_frame s k n _⟩
    · rw [regRead1_scratch_upper _ hk hn, scratch_setScratch, withUpper_div _ hv]
    · rw [regRead1_scratch_lower _ hk hn, regRead1_scratch_lower s hk hn, scratch_setScratch, ← leBytes_mod 4,
        withUpper_mod _ hv, leBytes_mod 4]
  · intro s addr width v hs hheld hlo hhi hwidth hbad
    have hdone : s.regWrite1 addr (leBytes width v.toNat) = s.discardReg addr :=
      regWrite1_discarded s (by rwa [length_leBytes])
    refine ⟨s.discardReg addr, ?_, ?_, ?_, ?_, discardReg_evr s addr, discardReg_frame s addr⟩
    · refine exec_registerWrite hs hlo hhi hwidth hdone ?_
      rw [discardReg_frame]
      exact hheld
    · cases hval : (s.mgtOf (dieCode (regDie addr))).errVal <;> simp [mgtOf_discardReg, hval]
    · rintro k (hk | hk) <;> simp [mgtOf_discardReg, hk]
    · intro hfree
      simp [mgtOf_discardReg, hfree]

/-! ## The state after reset -/

/-- Settles O2: the reset state is the one of the fields' defaults, and its memory is the empty table. -/
theorem resetState : Obligations.ResetState := by
  refine ⟨rfl, rfl, rfl, rfl, rfl, ?_, ?_, ?_, ?_, Memory.wf_reset, rfl, rfl⟩ <;> exact fun _ => rfl

end Sys2Proof.Proofs.Registers
end

section
/-! SUPPORT. Group base ticks (06 R163 to R166): the level that was sampled, what the members take of a tick, and the statement
`GroupBaseTicks` from them. -/
namespace Sys2Proof.Proofs.Frame
open Sys2Proof Sys2Proof.Machine Sys2Proof.Proofs.Registers

/-- What every step of a fold keeps, the fold keeps. -/
theorem keeps_foldl {α β γ : Type} (φ : α → γ) {f : α → β → α} (h : ∀ a b, φ (f a b) = φ a) (l : List β) (a : α) :
    φ (l.foldl f a) = φ a := by
  induction l generalizing a with
  | nil => rfl
  | cons b l ih => rw [List.foldl_cons, ih, h]

/-! ## What the members take of a tick -/

/-- The state without what the members of a group take of its tick: their own records, and the events of a gap. -/
def besideMembers (s : State) : State := { s with parts := [], evr := {} }

theorem besideMembers_modPart (s : State) (p : Nat) (f : Part → Part) : besideMembers (s.modPart p f) = besideMembers s := rfl

theorem besideMembers_event (s : State) (code source v : Nat) : besideMembers (s.event code source v) = besideMembers s := by
  rw [event_frame]
  rfl

theorem besideMembers_memberGap (s : State) (i t gap : Nat) (level : BitVec 4) (p : Nat) :
    besideMembers (s.memberGap i t gap level p) = besideMembers s := by
  simp only [State.memberGap, apply_ite besideMembers, besideMembers_event, besideMembers_modPart, ite_self]

theorem besideMembers_refreshMembers (s : State) (g : Nat) : besideMembers (s.refreshMembers g) = besideMembers s :=
  keeps_foldl besideMembers (fun s p => by simp only [apply_ite besideMembers, besideMembers_modPart, ite_self]) _ s

/-- The tick's own change of the state: the members' records come after it. -/
theorem besideMembers_members (s : State) (g i t gap : Nat) (level : BitVec 4) (ps : List Nat) :
    besideMembers ((ps.foldl (fun s p => s.memberGap i t gap level p) s).refreshMembers g) = besideMembers s := by
  rw [besideMembers_refreshMembers]
  exact keeps_foldl besideMembers (fun s p => besideMembers_memberGap s i t gap level p) ps s

theorem group_of_besideMembers {s t : State} (h : besideMembers s = besideMembers t) (k : Nat) : s.group k = t.group k := by
  have hsame : (besideMembers s).group k = (besideMembers t).group k := by rw [h]
  exact hsame

/-! ## The level -/

theorem levelOf_advanceTo (s : State) (t : Nat) (ps : List Nat) : levelOf (s.advanceTo t) ps = levelOf s ps := by
  simp only [levelOf, State.part, State.advanceTo_parts, State.advanceTo_frm]

theorem membersOf_advanceTo (s : State) (t g : Nat) : membersOf (s.advanceTo t) g = membersOf s g := by
  simp only [membersOf, State.advanceTo_parts]

/-- The level a group's next tick takes: the one sampled, else the members' now. -/
def sampled (s : State) (g : Nat) : BitVec 4 := (s.group g).samp.getD (levelOf s (membersOf s g))

/-- Only the groups' table sees a sample. -/
theorem sampleGroup_frame (s : State) (g : Nat) :
    s.sampleGroup g = { s with frm := { s.frm with groups := (s.sampleGroup g).frm.groups } } := by
  unfold State.sampleGroup
  dsimp only
  split <;> rfl

/-- From a group's decision point on its level is sampled, once (R165). -/
theorem group_sampleGroup {s : State} {g : Nat} (hseq : (s.group g).hasSeq = true) (hdue : (s.group g).next ≤ s.time + 1200)
    (k : Nat) : (s.sampleGroup g).group k = if k = g then { s.group g with samp := some (sampled s g) } else s.group k := by
  unfold State.sampleGroup sampled
  cases hsamp : (s.group g).samp with
  | none => simp [hseq, hsamp, hdue, State.group_modGroup]
  | some l =>
    have hsame : { s.group g with samp := some l } = s.group g := by rw [← hsamp]
    simp only [hsamp, Option.isNone_some, Bool.and_false, Bool.false_and, Bool.false_eq_true, if_false, Option.getD_some]
    split
    case isTrue hk => rw [hk]; exact hsame.symm
    case isFalse => rfl

/-! ## The tick -/

/-- The state at a group's tick, its level sampled at the decision point. -/
def atGroupTick (s : State) (g : Nat) : State :=
  ((s.advanceTo ((s.group g).next - 1200)).sampleGroup g).advanceTo (s.group g).next

theorem group_advanceTo (s : State) (t k : Nat) : (s.advanceTo t).group k = s.group k := by
  simp only [State.group, State.advanceTo_frm]

theorem time_atGroupTick (s : State) (g : Nat) : (atGroupTick s g).time = Nat.max s.time (s.group g).next := by
  unfold atGroupTick
  rw [State.advanceTo_time, sampleGroup_frame, State.advanceTo_time]
  exact (by omega : max (max s.time ((s.group g).next - 1200)) (s.group g).next = max s.time (s.group g).next)

theorem group_atGroupTick {s : State} {g : Nat} (hseq : (s.group g).hasSeq = true) (k : Nat) :
    (atGroupTick s g).group k = if k = g then { s.group g with samp := some (sampled s g) } else s.group k := by
  have hseq' : ((s.advanceTo ((s.group g).next - 1200)).group g).hasSeq = true := by rw [group_advanceTo, hseq]
  have hdue : ((s.advanceTo ((s.group g).next - 1200)).group g).next ≤ (s.advanceTo ((s.group g).next - 1200)).time + 1200 := by
    have := Nat.le_max_right s.time ((s.group g).next - 1200)
    rw [State.advanceTo_time, group_advanceTo]
    exact Nat.sub_le_iff_le_add.mp this
  have hlevel : sampled (s.advanceTo ((s.group g).next - 1200)) g = sampled s g := by
    simp only [sampled, group_advanceTo, levelOf_advanceTo, membersOf_advanceTo]
  rw [atGroupTick, group_advanceTo, group_sampleGroup hseq' hdue]
  rw [hlevel]
  simp only [group_advanceTo]

/-- A group's sample leaves the rest of the state as the advance of the time does. -/
theorem atGroupTick_frame (s : State) (g : Nat) : (atGroupTick s g).stm = s.stm ∧ (atGroupTick s g).mem = s.mem ∧
    (atGroupTick s g).clusters = s.clusters ∧ (atGroupTick s g).cores = s.cores := by
  unfold atGroupTick
  rw [sampleGroup_frame]
  simp

/-- The group base tick of a group of this module alone: it takes the sampled level, and its next tick lies a period and that level's gap
later (R163, R165). -/
def LockGroup.tick (x : LockGroup) (period : Nat) (level : BitVec 4) : LockGroup :=
  { x with level := level, plan1 := 0, own1 := level, ann := none, samp := none,
           next := x.next + period + period * level.toNat / 16, index := x.index + 1 }

theorem besideMembers_groupTick {s : State} {g : Nat} (hseq : (s.group g).hasSeq = true) (hmod : (s.group g).xmod = false) :
    besideMembers (s.groupTick g) =
      besideMembers ((atGroupTick s g).modGroup g (fun x => LockGroup.tick x s.frm.period.toNat (sampled s g))) := by
  have hself : (atGroupTick s g).group g = { s.group g with samp := some (sampled s g) } := by simp [group_atGroupTick hseq]
  have hbase : (atGroupTick s g).baseLevel g (sampled s g) = (sampled s g, 0, atGroupTick s g) := by
    simp [State.baseLevel, hself, hmod]
  have htell : (atGroupTick s g).tellLevel g (s.group g).index (sampled s g) = atGroupTick s g := by
    simp [State.tellLevel, hself, hmod]
  have hat : ((s.advanceTo ((s.group g).next - 1200)).sampleGroup g).advanceTo (s.group g).next = atGroupTick s g := rfl
  simp only [State.groupTick, hseq, hmod, Bool.not_true, Bool.false_and, Bool.or_self, Bool.false_eq_true, if_false, hat, hself,
    Option.getD_some, hbase, htell]
  rw [besideMembers_members]
  rfl

/-- Settles O14: beside the members' own records, the tick is the change `LockGroup.tick` of the group at the sampled level. -/
theorem groupBaseTicks : Obligations.GroupBaseTicks := by
  intro s g halive hg hseq hmod
  have harm : exec (.groupBaseTick g) s = execGroupBaseTick g s := rfl
  have htick := besideMembers_groupTick hseq hmod
  obtain ⟨hstm, hmem, hclusters, hcores⟩ := atGroupTick_frame s g
  have hgroup (k : Nat) : (s.groupTick g).group k =
      if k = g then LockGroup.tick { s.group g with samp := some (sampled s g) } s.frm.period.toNat (sampled s g) else s.group k := by
    calc (s.groupTick g).group k
      _ = ((atGroupTick s g).modGroup g (fun x => LockGroup.tick x s.frm.period.toNat (sampled s g))).group k :=
        group_of_besideMembers htick k
      _ = _ := by
        rw [State.group_modGroup]
        split
        case isTrue => rw [group_atGroupTick hseq, if_pos rfl]
        case isFalse hk => rw [group_atGroupTick hseq, if_neg hk]
  refine ⟨s.groupTick g, ?_, ?_, ?_, ?_, ?_, ?_, ?_, ?_, ?_, ?_, ?_⟩
  · rw [harm, execGroupBaseTick, ok, State.live_of_alive halive, if_pos hg]
  · exact (congrArg State.time htick).trans (time_atGroupTick s g)
  · rw [hgroup, if_pos rfl]; rfl
  · rw [hgroup, if_pos rfl]; rfl
  · rw [hgroup, if_pos rfl]; rfl
  · rw [hgroup, if_pos rfl]; rfl
  · exact fun k hk => by rw [hgroup, if_neg hk]
  · exact (congrArg State.stm htick).trans hstm
  · exact (congrArg State.mem htick).trans hmem
  · exact (congrArg State.clusters htick).trans hclusters
  · exact (congrArg State.cores htick).trans hcores

end Sys2Proof.Proofs.Frame
end

section
/-! SUPPORT. What the start of a frame leaves alone: the time, the ticks, and of every partition all but its slot table and what counts
accesses. -/
namespace Sys2Proof.Proofs.Frame
open Sys2Proof Sys2Proof.Machine

/-! ## What commands and accesses change of a partition -/

/-- A partition's record without what commands and accesses change of it: its slot table, the free parts of its pools, and the counts
of late pages. -/
@[reducible] def bare (q : Part) : Part :=
  { q with slots := [], redFree := 0, pageFree := 0, credFree := 0, dmaHeld := 0, lateMax := 0, lateCnt := 0, lateHist := [] }

/-- The partitions' records so reduced. -/
def bares (t : Tbl Part) : Nat → Part := fun k => bare (tget {} t k)

theorem bares_tmod {t : Tbl Part} {k : Nat} {f : Part → Part} (h : ∀ q, bare (f q) = bare q) :
    bares (tmod {} t k f) = bares t := by
  funext j
  simp only [bares, tget_tmod]
  split
  case isTrue hj => rw [hj, h]
  case isFalse => rfl

/-- What only GO, HOLD, ticks and loads change: the time, the ticks of groups, and the partitions' records beside what commands and accesses
change of them. -/
def course (s : State) : Nat × Machine.Frm × (Nat → Part) := (s.time, s.frm, bares s.parts)

@[simp] theorem course_ite {c : Prop} [Decidable c] (s t : State) : course (if c then s else t) = if c then course s else course t :=
  apply_ite course c s t

@[simp] theorem course_modPart (s : State) (p : Nat) {f : Part → Part} (h : ∀ q, bare (f q) = bare q) :
    course (s.modPart p f) = course s := by
  rw [course, State.modPart_parts, bares_tmod h]
  rfl

@[simp] theorem course_modCluster (s : State) (g : Nat) (f : Cluster → Cluster) : course (s.modCluster g f) = course s := (rfl)
@[simp] theorem course_modCore (s : State) (c : Nat) (f : Core → Core) : course (s.modCore c f) = course s := (rfl)
@[simp] theorem course_modStream (s : State) (n : Nat) (f : Stream → Stream) : course (s.modStream n f) = course s := (rfl)
@[simp] theorem course_modUpd (s : State) (d : Nat) (f : Upd → Upd) : course (s.modUpd d f) = course s := (rfl)
@[simp] theorem course_modMgt (s : State) (d : Nat) (f : Mgt → Mgt) : course (s.modMgt d f) = course s := (rfl)
@[simp] theorem course_wr (s : State) (a : Nat) (l : List Byte) : course (s.wr a l) = course s := (rfl)
@[simp] theorem course_drawNext (s : State) : course s.drawNext = course s := (rfl)
@[simp] theorem course_event (s : State) (code source v : Nat) : course (s.event code source v) = course s := by simp [course]

theorem fields_of_bare {x y : Part} (h : bare x = bare y) : x.frame = y.frame ∧ x.running = y.running ∧ x.lastTick = y.lastTick ∧
    x.next = y.next ∧ x.state = y.state ∧ x.locked = y.locked ∧ x.m = y.m :=
  ⟨(congrArg Part.frame h :), (congrArg Part.running h :), (congrArg Part.lastTick h :), (congrArg Part.next h :),
    (congrArg Part.state h :), (congrArg Part.locked h :), (congrArg Part.m h :)⟩

theorem time_of_course {s t : State} (h : course s = course t) : s.time = t.time := congrArg Prod.fst h
theorem frm_of_course {s t : State} (h : course s = course t) : s.frm = t.frm := congrArg (·.2.1) h
theorem bare_part_of_course {s t : State} (h : course s = course t) (k : Nat) : bare (s.part k) = bare (t.part k) := congrArg (·.2.2 k) h

@[simp] theorem course_foldl {α : Type} {f : State → α → State} (h : ∀ s x, course (f s x) = course s) (l : List α) (s : State) :
    course (l.foldl f s) = course s := keeps_foldl course h l s

@[simp] theorem course_each {f : State → Nat → State} (h : ∀ s n, course (f s n) = course s) (l : List Nat) (s : State) :
    course (s.each l f) = course s := keeps_foldl course h l s

/-! ## Reads of the bus -/

@[simp] theorem course_noLocation (s : State) (p : Option Nat) (a : Nat) : course (s.noLocation p a) = course s := by
  simp [State.noLocation]
@[simp] theorem course_discardReg (s : State) (a : Nat) : course (s.discardReg a) = course s := by
  simp [State.discardReg]
@[simp] theorem course_regRead1 (s : State) (a n : Nat) : course (s.regRead1 a n).2 = course s := by
  unfold State.regRead1
  split <;> simp
@[simp] theorem course_regReadSpan (s : State) (a n : Nat) : course (s.regReadSpan a n).2 = course s :=
  keeps_foldl (f := fun (r : List Byte × State) (q : Nat × Nat) => (r.1 ++ (r.2.regRead1 q.1 q.2).1, (r.2.regRead1 q.1 q.2).2))
    (fun r => course r.2) (fun _ _ => course_regRead1 ..) _ ([], s)
@[simp] theorem course_boardUse (s : State) (pa n : Nat) : course (s.boardUse pa n) = course s := by
  unfold State.boardUse
  split <;> simp
@[simp] theorem course_engineFill (s : State) (p : Option Nat) (a pa : Nat) : course (s.engineFill p a pa) = course s := by
  unfold State.engineFill
  split <;> simp
@[simp] theorem course_busRead (s : State) (p : Option Nat) (a n : Nat) : course (s.busRead p a n).2 = course s := by
  unfold State.busRead
  split
  · split <;> simp
  all_goals simp

/-! ## Words and their slots -/

@[simp] theorem course_modSlot (s : State) (c : Nat) (slot : BitVec 6) (f : SlotUse → SlotUse) : course (s.modSlot c slot f) = course s := by
  unfold State.modSlot
  split <;> simp
@[simp] theorem course_reservedWord (s : State) (c : Nat) (h : WordHdr) : course (s.reservedWord c h) = course s := by
  simp [State.reservedWord, State.markBadOp]
@[simp] theorem course_refill (s : State) (c fuel : Nat) : course (s.refill c fuel) = course s := by
  induction fuel generalizing s with
  | zero => rfl
  | succ n ih =>
    unfold State.refill
    dsimp only
    split
    · rfl
    · split
      · simp
      · simp [ih]
@[simp] theorem course_readAhead (s : State) (c : Nat) : course (s.readAhead c) = course s := by simp [State.readAhead]
@[simp] theorem course_noteNinth (s : State) (c : Nat) (x : Option SWord) : course (s.noteNinth c x) = course s := by
  unfold State.noteNinth
  split <;> simp
@[simp] theorem course_popIssue (s : State) (c i t : Nat) : course (s.popIssue c i t) = course s := by simp [State.popIssue]
@[simp] theorem course_skipNameless (s : State) (c fuel : Nat) : course (s.skipNameless c fuel) = course s := by
  induction fuel generalizing s with
  | zero => rfl
  | succ n ih =>
    unfold State.skipNameless
    dsimp only
    split
    · rfl
    · split
      · simp [ih]
      · rfl
@[simp] theorem course_skipAll (s : State) (c : Nat) : course (s.skipAll c) = course s := by simp [State.skipAll]

/-! ## Fetches -/

/-- A fetch reads: its line is merged nowhere. -/
theorem course_drainLine_fetch (s : State) (c : Nat) {m : Move} (h : m.mop = 8) (x : Nat × Nat) : course (s.drainLine c m x).2 = course s := by
  have hread := course_busRead s (partOfCore s c) (m.reach s x.1) 64
  have hmop : m.mop.toNat = 8 := by rw [h]; rfl
  simp only [State.drainLine, hmop]
  split
  · rfl
  · split
    · next heq => rw [heq] at hread; exact hread
    · next heq => rw [heq] at hread; exact hread
@[simp] theorem course_afterAccess (s : State) (c : Nat) (slot : BitVec 6) (r : Res) (write : Bool) :
    course (s.afterAccess c slot r write) = course s := by
  unfold State.afterAccess
  split <;> simp
theorem course_moveAll_fetch (s : State) (c : Nat) {m : Move} (h : m.mop = 8) (l : List (Nat × Nat)) (k : MoveCount) :
    course (s.moveAll c m l k).1 = course s := by
  induction l generalizing s k with
  | nil => rfl
  | cons x l ih => rw [State.moveAll, ih, course_afterAccess, course_drainLine_fetch s c h]
@[simp] theorem course_moveMarks (s : State) (c : Nat) (slot : BitVec 6) (k : MoveCount) : course (s.moveMarks c slot k) = course s := by
  simp [State.moveMarks, State.markBusErr, State.markHostLost]
@[simp] theorem course_markBuffer (s : State) (c : Nat) (l : List (Nat × Nat)) (bad : Bool) : course (s.markBuffer c l bad) = course s := (rfl)
@[simp] theorem course_latePage (s : State) (p n : Nat) : course (s.latePage p n) = course s := by simp [State.latePage]
@[simp] theorem course_endNeed (s : State) (c due : Nat) (late : Bool) : course (s.endNeed c due late) = course s := by
  unfold State.endNeed
  split
  · rfl
  · split <;> simp
/-- A fetch whose data is not late ends now. -/
@[simp] theorem course_fetchDone_now (s : State) (c : Nat) : course (s.fetchDone c 0) = course s := by
  unfold State.fetchDone
  split
  · rfl
  · next m0 rest _ =>
    dsimp only
    split
    · rfl
    · split
      · rfl
      · rcases waitingIssue s c (m0.translated s c) with _ | ⟨due, x⟩ <;> simp [course_moveAll_fetch]
@[simp] theorem course_abandonFetch (s : State) (c : Nat) (m : Move) : course (s.abandonFetch c m) = course s := by
  rw [State.abandonFetch, course_drawNext]
  refine course_foldl (fun s x => ?_) _ s
  dsimp only
  split <;> simp
@[simp] theorem course_landOrDrop (s : State) (c : Nat) : course (s.landOrDrop c) = course s := by
  unfold State.landOrDrop
  dsimp only
  split
  · split <;> simp
  · simp
@[simp] theorem course_landFetches (s : State) (c : Nat) : course (s.landFetches c) = course s :=
  course_foldl (fun s _ => course_landOrDrop s c) _ s

/-! ## The start of a frame -/

@[simp] theorem course_startCore (s : State) (p c : Nat) (es : List (Nat × CoreEntry)) : course (s.startCore p c es) = course s := by
  simp [State.startCore]
@[simp] theorem course_loadBanks (s : State) (g pos : Nat) (maps : List (List (Nat × List Byte))) : course (s.loadBanks g pos maps) = course s :=
  course_foldl (fun _ _ => course_event ..) _ _
theorem course_startFrame (s : State) (p : Nat) (used : List SlotUse) : course (s.startFrame p used) = course s :=
  course_foldl (fun s _ => (course_each (fun s _ => course_startCore s ..) _ _).trans (course_loadBanks s ..)) _ s
theorem course_parkedFrame (s : State) (p : Nat) : course (s.parkedFrame p) = course s := by
  refine course_each (fun s d => ?_) _ s
  dsimp only
  rw [course_foldl (fun s j => course_event s ..), course_modUpd]

end Sys2Proof.Proofs.Frame
end

section
/-! SUPPORT. The admission cut and the start of a frame (06 R163, R165, R167, R170), and the statement `CutAndFrameStart` from them. -/
namespace Sys2Proof.Proofs.Frame
open Sys2Proof Sys2Proof.Machine

/-! ## The admission cut -/

theorem time_takeReload (s : State) (n : Nat) : (s.takeReload n).time = s.time := by
  unfold State.takeReload
  split <;> rfl

/-- A change of a list of streams that changes nothing when made again. -/
theorem stream_each_modStream {f : Stream → Stream} (hf : ∀ x, f (f x) = f x) (l : List Nat) (s : State) (n : Nat) :
    (s.each l (fun s n => s.modStream n f)).stream n = if n ∈ l then f (s.stream n) else s.stream n := by
  unfold State.each
  induction l generalizing s with
  | nil => rfl
  | cons m l ih =>
    rw [List.foldl_cons, ih, State.stream_modStream]
    by_cases hm : n = m
    · subst hm; simp [hf]
    · simp [hm]

theorem mem_of_tget_ne {α : Type} {d : α} {t : Tbl α} {k : Nat} (h : tget d t k ≠ d) : (k, tget d t k) ∈ t := by
  induction t with
  | nil => exact absurd rfl h
  | cons e t ih =>
    obtain ⟨j, a⟩ := e
    unfold tget at h ⊢
    split at h
    case isTrue hj => simp [hj]
    case isFalse hj => simpa [hj] using Or.inr (ih h)

/-- A stream in a range is one of its partition's. -/
theorem mem_streamNos {s : State} {n : Nat} (hrange : (s.stream n).inRange = true) : n ∈ streamNos s (s.stream n).part.toNat := by
  have hne : s.stream n ≠ {} := fun h => by simp [h] at hrange
  refine List.mem_map.mpr ⟨(n, s.stream n), List.mem_filter.mpr ⟨mem_of_tget_ne hne, ?_⟩, rfl⟩
  simp [hrange]

/-- The state at the cut, its streams reloaded, before it takes the tails. -/
def beforeCut (s : State) (p : Nat) : State :=
  let s0 := (s.batchDeadlines p).advanceTo ((s.part p).next - 2400)
  s0.each (streamNos s0 p) State.takeReload

/-- The tail in force at the cut. -/
def tailTaken (x : Stream) : Stream := { x with cutTail := x.tail }

theorem tailTaken_tailTaken (x : Stream) : tailTaken (tailTaken x) = tailTaken x := rfl

theorem cutDoorbells_eq (s : State) (p : Nat) : s.cutDoorbells p =
    ((beforeCut s p).each (streamNos (beforeCut s p) p) (fun s n => s.modStream n tailTaken)).modPart p (fun q => { q with cut := true }) :=
  rfl

theorem time_each {f : State → Nat → State} (h : ∀ s n, (f s n).time = s.time) (l : List Nat) (s : State) :
    (s.each l f).time = s.time := keeps_foldl State.time h l s

theorem time_cutDoorbells (s : State) (p : Nat) : (s.cutDoorbells p).time = Nat.max (s.batchDeadlines p).time ((s.part p).next - 2400) := by
  rw [cutDoorbells_eq, State.modPart_time, time_each (fun s n => State.modStream_time s n tailTaken), beforeCut, time_each time_takeReload,
    State.advanceTo_time]

theorem stream_modPart (s : State) (p : Nat) (f : Part → Part) (n : Nat) : (s.modPart p f).stream n = s.stream n := rfl

theorem stream_cutDoorbells (s : State) (p n : Nat) : (s.cutDoorbells p).stream n =
    if n ∈ streamNos (beforeCut s p) p then tailTaken ((beforeCut s p).stream n) else (beforeCut s p).stream n := by
  rw [cutDoorbells_eq, stream_modPart, stream_each_modStream tailTaken_tailTaken]

/-- The cut takes the tails in force and lies 2,400 cycles before the tick (R167). -/
theorem cutDoorbells_spec (s : State) (p : Nat) : ((s.cutDoorbells p).part p).cut = true ∧ (s.part p).next - 2400 ≤ (s.cutDoorbells p).time ∧
    ∀ n, ((s.cutDoorbells p).stream n).inRange = true → ((s.cutDoorbells p).stream n).part.toNat = p →
      ((s.cutDoorbells p).stream n).cutTail = ((s.cutDoorbells p).stream n).tail := by
  refine ⟨?_, ?_, fun n hrange hpart => ?_⟩
  · rw [cutDoorbells_eq, State.part_modPart_self]
  · rw [time_cutDoorbells]
    exact Nat.le_max_right ..
  · rw [stream_cutDoorbells] at hrange hpart ⊢
    split
    case isTrue => rfl
    case isFalse hn =>
      rw [if_neg hn] at hrange hpart
      have hmem := mem_streamNos hrange
      rw [hpart] at hmem
      exact absurd hmem hn

/-! ## The tick -/

theorem passTick_time (s : State) (p t : Nat) (level : BitVec 4) (frame : Bool) : (s.passTick p t level frame).time = s.time := by
  simp [State.passTick, apply_ite State.time]

theorem part_event (s : State) (code source v k : Nat) : (s.event code source v).part k = s.part k := by
  simp only [State.part, State.event_parts]

theorem part_passTick_other (s : State) {p k : Nat} (hk : k ≠ p) (t : Nat) (level : BitVec 4) (frame : Bool) :
    (s.passTick p t level frame).part k = s.part k := by
  simp [State.passTick, apply_ite (State.part · k), part_event, State.part_modPart, hk]

/-- The tick passes: the next one of a free partition lies its period's multiple and the level's gap later (R163, R165). -/
theorem part_passTick_self (s : State) (p t : Nat) (level : BitVec 4) (frame : Bool) :
    let x := s.part p
    let y := (s.passTick p t level frame).part p
    y.frame = x.frame ∧ y.running = x.running ∧ y.lastTick = x.lastTick ∧ y.verdict = none ∧
    (x.locked = false → y.next = t + x.m * s.frm.period.toNat + x.m * s.frm.period.toNat * level.toNat / 16) := by
  cases hlocked : (s.part p).locked with
  | true => simp [State.passTick, hlocked]
  | false => simp [State.passTick, hlocked, apply_ite (State.part · p), part_event, Part.m]

/-! ## The start of a frame -/

/-- GO takes effect: the partition's frame begins at its tick. -/
def beginFrame (q : Part) (t : Nat) : Part :=
  { q with frame := q.frame + 1, running := true, lastTick := t, downFrom := none,
           slots := q.slots.map (fun u => { u with started := u.started + 1 }) }

/-- The frame has begun, and its words are read ahead; its tick has not passed. -/
def startedFrame (s : State) (p : Nat) : State :=
  let t := (s.part p).next
  let s1 := (s.advanceTo t).modPart p (fun q => beginFrame q t)
  let s2 := (s1.each (streamNos s1 p) (fun s n => s.modStream n (fun x => { x with waited := x.waited.map (· + 1) }))).parkedFrame p
  s2.startFrame p (slotTable s2 p)

theorem frameTick_eq (s : State) (p : Nat) (level : BitVec 4) :
    s.frameTick p level = (startedFrame s p).passTick p (s.part p).next level true := rfl

theorem course_startedFrame (s : State) (p : Nat) :
    course (startedFrame s p) = course ((s.advanceTo (s.part p).next).modPart p (fun q => beginFrame q (s.part p).next)) := by
  unfold startedFrame
  rw [course_startFrame, course_parkedFrame, course_each (fun s n => course_modStream s n _)]

theorem time_startedFrame (s : State) (p : Nat) : (startedFrame s p).time = Nat.max s.time (s.part p).next :=
  (time_of_course (course_startedFrame s p)).trans (State.advanceTo_time ..)

theorem frm_startedFrame (s : State) (p : Nat) : (startedFrame s p).frm = s.frm :=
  (frm_of_course (course_startedFrame s p)).trans (State.advanceTo_frm ..)

/-- The start of the frame changes no partition's record but by `beginFrame`, beside slots and counts of accesses. -/
theorem bare_part_startedFrame (s : State) (p k : Nat) :
    bare ((startedFrame s p).part k) = bare (if k = p then beginFrame (s.part p) (s.part p).next else s.part k) := by
  have hadvance (j : Nat) : (s.advanceTo (s.part p).next).part j = s.part j := by simp only [State.part, State.advanceTo_parts]
  rw [bare_part_of_course (course_startedFrame s p), State.part_modPart, hadvance, hadvance]

/-- Settles O16: the cut is `cutDoorbells_spec`; GO begins the frame, whose start keeps the course of every partition, and the tick passes. -/
theorem cutAndFrameStart : Obligations.CutAndFrameStart := by
  refine ⟨fun s p halive hticking hcut => ?_, fun s p level halive hgo => ?_⟩
  · have harm : exec (.admissionCut p) s = execAdmissionCut p s := rfl
    refine ⟨(s.passHeld p).cutDoorbells p, ?_, cutDoorbells_spec _ p⟩
    rw [harm, execAdmissionCut, ok, State.live_of_alive halive]
    simp only [hticking, hcut, Bool.not_false, Bool.and_self, if_true]
  · have harm : exec (.frameStart p) s = execFrameStart p s := rfl
    have hself := bare_part_startedFrame s p p
    rw [if_pos rfl] at hself
    obtain ⟨hframe', hrunning', hlast', -, -, hlocked', hmult'⟩ := fields_of_bare hself
    obtain ⟨hframe, hrunning, hlast, hverdict, hnext⟩ := part_passTick_self (startedFrame s p) p (s.part p).next level true
    rw [frm_startedFrame] at hnext
    refine ⟨s.frameTick p level, ?_, ?_, ?_, ?_, ?_, ?_, ?_, fun k hk => ?_⟩
    · rw [harm, execFrameStart, ok, State.live_of_alive halive, hgo]
    all_goals rw [frameTick_eq]
    · rw [passTick_time, time_startedFrame]
    · exact hframe.trans hframe'
    · exact hrunning.trans hrunning'
    · exact hlast.trans hlast'
    · exact hverdict
    · intro hfree
      rw [hnext (hlocked'.trans hfree), hmult']
      rfl
    · have hother := bare_part_startedFrame s p k
      rw [if_neg hk] at hother
      obtain ⟨hframe, -, -, hnext, hstate, -⟩ := fields_of_bare hother
      rw [part_passTick_other _ hk]
      exact ⟨hframe, hnext, hstate⟩

end Sys2Proof.Proofs.Frame
end

section
/-! SUPPORT. The paces of partitions: what GO, late frames and halts change of them, and what every update of the state leaves. -/
namespace Sys2Proof.Proofs.Frame
open Sys2Proof Sys2Proof.Machine

/-- What the rules of a decision point make of a partition, but for its verdict: its halts, its overruns in a row, and its state. -/
structure Pace where
  halts : BitVec 32
  consec : Nat
  state : PState

@[reducible] def paceOf (q : Part) : Pace := ⟨q.halts, q.consec, q.state⟩

/-- The paces of all partitions. -/
def paces (c : Nat × Machine.Frm × (Nat → Part)) : Nat → Pace := fun k => paceOf (c.2.2 k)

@[simp] theorem paces_ite {c : Prop} [Decidable c] (a b : Nat × Machine.Frm × (Nat → Part)) :
    paces (if c then a else b) = if c then paces a else paces b := apply_ite paces c a b

@[simp] theorem paces_modPart (s : State) (p : Nat) {f : Part → Part} (h : ∀ q, paceOf (f q) = paceOf q) :
    paces (course (s.modPart p f)) = paces (course s) := by
  funext k
  show paceOf ((s.modPart p f).part k) = paceOf (s.part k)
  rw [State.part_modPart]
  split
  case isTrue hk => rw [hk, h]
  case isFalse => rfl

@[simp] theorem paces_foldl {α : Type} {f : State → α → State} (h : ∀ s x, paces (course (f s x)) = paces (course s)) (l : List α)
    (s : State) : paces (course (l.foldl f s)) = paces (course s) := keeps_foldl (fun s => paces (course s)) h l s

@[simp] theorem paces_each {f : State → Nat → State} (h : ∀ s n, paces (course (f s n)) = paces (course s)) (l : List Nat) (s : State) :
    paces (course (s.each l f)) = paces (course s) := keeps_foldl (fun s => paces (course s)) h l s

@[simp] theorem paces_modFrm (s : State) (f : Machine.Frm → Machine.Frm) : paces (course (s.modFrm f)) = paces (course s) := (rfl)
@[simp] theorem paces_modGroup (s : State) (g : Nat) (f : LockGroup → LockGroup) : paces (course (s.modGroup g f)) = paces (course s) := (rfl)
@[simp] theorem course_modMig (s : State) (d : Nat) (f : Mig → Mig) : course (s.modMig d f) = course s := (rfl)
@[simp] theorem course_modBmp (s : State) (n : Nat) (f : Bmp → Bmp) : course (s.modBmp n f) = course s := (rfl)
@[simp] theorem course_modDma (s : State) (d : Nat) (f : DmaDie → DmaDie) : course (s.modDma d f) = course s := (rfl)
@[simp] theorem course_modChan (s : State) (c : Nat) (f : Chan → Chan) : course (s.modChan c f) = course s := (rfl)
@[simp] theorem course_modIng (s : State) (e : Nat) (f : Ing → Ing) : course (s.modIng e f) = course s := (rfl)
@[simp] theorem course_modPq (s : State) (q : Nat) (f : PeerQ → PeerQ) : course (s.modPq q f) = course s := (rfl)
@[simp] theorem course_modPport (s : State) (n : Nat) (f : PeerPort → PeerPort) : course (s.modPport n f) = course s := (rfl)
@[simp] theorem course_modPwr (s : State) (f : Pwr → Pwr) : course (s.modPwr f) = course s := (rfl)
@[simp] theorem course_modHlk (s : State) (f : Hlk → Hlk) : course (s.modHlk f) = course s := (rfl)
@[simp] theorem course_modCfg (s : State) (f : Cfg → Cfg) : course (s.modCfg f) = course s := (rfl)
@[simp] theorem course_modAud (s : State) (f : Aud → Aud) : course (s.modAud f) = course s := (rfl)
@[simp] theorem course_modEvr (s : State) (f : Evr → Evr) : course (s.modEvr f) = course s := (rfl)
@[simp] theorem course_modPlk (s : State) (f : Plk → Plk) : course (s.modPlk f) = course s := (rfl)
@[simp] theorem course_modStm (s : State) (f : Stm → Stm) : course (s.modStm f) = course s := (rfl)
@[simp] theorem course_zero (s : State) (a n : Nat) : course (s.zero a n) = course s := (rfl)
theorem course_engines (s : State) (u : Tbl Upd) (i : Tbl Ing) : course { s with upd := u, ing := i } = course s := (rfl)
theorem course_onBus (s : State) (b : Option (Nat × Option Nat)) : course { s with bus := b } = course s := (rfl)

end Sys2Proof.Proofs.Frame
end

section
/-! SUPPORT. What pages, flash and the logs leave of the course or the paces (08 R246 to R262). -/
namespace Sys2Proof.Proofs.Frame
open Sys2Proof Sys2Proof.Machine

/-! ## Events, logs and charges -/

@[simp] theorem course_wrN (s : State) (a n v : Nat) : course (s.wrN a n v) = course s := by simp [State.wrN]

@[simp] theorem course_measure (s : State) (kind : Nat) (res : Status) (item : List Byte) (detail : W64) :
    course (s.measure kind res item detail) = course s := by
  unfold State.measure
  dsimp only
  split
  · rfl
  · exact course_event ..

@[simp] theorem course_charge (s : State) (n : Nat) : course (s.charge n) = course s := by simp [State.charge]

/-! ## Flash -/

@[simp] theorem course_rewriteRepair (s : State) (l : List RepEntry) : course (s.rewriteRepair l) = course s := by
  unfold State.rewriteRepair
  dsimp only
  rw [course_event, course_measure]
  rfl

@[simp] theorem course_repairAdd (s : State) (es : List RepEntry) : course (s.repairAdd es) = course s := by simp [State.repairAdd]

@[simp] theorem course_snapshot (s : State) : course s.snapshot = course s := by
  unfold State.snapshot
  dsimp only
  rw [course_event]
  rfl

/-! ## First ticks -/

@[simp] theorem paces_firstTick (s : State) (p old : Nat) : paces (course (s.firstTick p old)) = paces (course s) := by
  simp [State.firstTick]

/-! ## Retired channels of memory -/

@[simp] theorem course_markRetired (s : State) (stack pch : Nat) (out : Bool) : course (s.markRetired stack pch out) = course s := by
  simp [State.markRetired]

/-! ## Pages (08) -/

@[simp] theorem course_writeLeaf (s : State) (p g : Nat) (l : Leaf) : course (s.writeLeaf p g l) = course s := by
  unfold State.writeLeaf
  split <;> simp

@[simp] theorem course_writeWaited (s : State) (p : Option Nat) (heldAt : Option Nat) : course (s.writeWaited p heldAt) = course s := by
  unfold State.writeWaited
  split <;> simp

@[simp] theorem course_markDirty (s : State) (p g : Nat) : course (s.markDirty p g) = course s := by
  unfold State.markDirty
  split <;> simp

theorem course_takeStacked {s t : State} {p home owner f : Nat} (h : s.takeStacked p home owner = some (f, t)) : course t = course s := by
  obtain ⟨stack, -, hstack⟩ := List.exists_of_findSome?_eq_some h
  obtain ⟨fp, -, hfp⟩ := Option.map_eq_some_iff.mp hstack
  obtain ⟨-, rfl⟩ := Prod.mk.inj hfp
  rfl

@[simp] theorem course_freeS (s : State) (f : Nat) : course (s.freeS f) = course s := (rfl)
@[simp] theorem course_freeB (s : State) (b : Nat) : course (s.freeB b) = course s := (rfl)
@[simp] theorem course_holdS (s : State) (f v : Nat) : course (s.holdS f v) = course s := (rfl)
@[simp] theorem course_holdB (s : State) (b v : Nat) : course (s.holdB b v) = course s := (rfl)

@[simp] theorem course_invalidate (s : State) (d p g : Nat) (fs fb : Option Nat) : course (s.invalidate d p g fs fb) = course s := by
  unfold State.invalidate
  repeat' split
  all_goals simp

@[simp] theorem course_settlePage (s : State) (p g : Nat) (only : Option (Nat × BitVec 16)) (o : Settle) :
    course (s.settlePage p g only o) = course s := (rfl)
@[simp] theorem paces_countDeferred (s : State) (p g : Nat) : paces (course (s.countDeferred p g)) = paces (course s) := by
  simp [State.countDeferred]
@[simp] theorem paces_countRefused (s : State) (p : Nat) : paces (course (s.countRefused p)) = paces (course s) := by
  simp [State.countRefused]

@[simp] theorem paces_defer (s : State) (d p g : Nat) (k : ReqKind) : paces (course (s.defer d p g k).2) = paces (course s) := by
  unfold State.defer
  dsimp only
  split
  · simp
  · split <;> simp

@[simp] theorem course_queueCopy (s : State) (d : Nat) (c : PageCopy) : course (s.queueCopy d c) = course s := by simp [State.queueCopy]
@[simp] theorem course_evictClean (s : State) (d p g : Nat) (l : Leaf) : course (s.evictClean d p g l) = course s := by
  simp [State.evictClean]
@[simp] theorem course_evictStart (s : State) (d p g : Nat) (l : Leaf) (b : Nat) : course (s.evictStart d p g l b) = course s := by
  simp [State.evictStart]

theorem course_evictVictim {s t : State} {d p : Nat} (h : s.evictVictim d p = some t) : course t = course s := by
  unfold State.evictVictim at h
  split at h
  · cases h
  · split at h
    · cases h; simp
    · split at h
      · cases h; simp
      · obtain ⟨b, -, rfl⟩ := Option.map_eq_some_iff.mp h
        simp

theorem course_promoFrame {s t : State} {p g home f : Nat} (h : s.promoFrame p g home = some (f, t)) : course t = course s := by
  unfold State.promoFrame at h
  split at h
  · exact course_takeStacked h
  · cases h

@[simp] theorem course_runCopy (s : State) (d : Nat) (c c' : PageCopy) : course (s.runCopy d c c') = course s := by simp [State.runCopy]

@[simp] theorem course_failPromotion (s : State) (d p g : Nat) (c : PageCopy) : course (s.failPromotion d p g c) = course s := by
  unfold State.failPromotion
  dsimp only
  split <;> simp

@[simp] theorem paces_tryStart (s : State) (d : Nat) (c : PageCopy) : paces (course (s.tryStart d c)) = paces (course s) := by
  unfold State.tryStart
  split
  · simp
  · simp
  · split <;> simp
  · split
    · rfl
    · split
      · simp
      · split
        · next h => simp [course_promoFrame h]
        · split
          · rfl
          · dsimp only
            split
            · next h =>
              split
              · next h' => simp [course_promoFrame h', course_evictVictim h]
              · simp [course_evictVictim h]
            · simp

@[simp] theorem paces_startPass (s : State) (d : Nat) : paces (course (s.startPass d)) = paces (course s) := by simp [State.startPass]
@[simp] theorem paces_startCopies (s : State) (d : Nat) : paces (course (s.startCopies d)) = paces (course s) := by simp [State.startCopies]

@[simp] theorem paces_reqEvict (s : State) (d p g : Nat) (l : Leaf) : paces (course (s.reqEvict d p g l).2) = paces (course s) := by
  unfold State.reqEvict
  repeat' split
  all_goals simp

@[simp] theorem paces_relocate (s : State) (f owner : Nat) : paces (course (s.relocate f owner)) = paces (course s) := by
  unfold State.relocate
  dsimp only
  split
  · split
    · split
      · next h => simp [course_takeStacked h]
      · rfl
    · rfl
  · rfl

@[simp] theorem paces_relocateAll (s : State) (p : Option Nat) : paces (course (s.relocateAll p)) = paces (course s) := by
  simp [State.relocateAll]
@[simp] theorem paces_retirePch (s : State) (stack pch : Nat) : paces (course (s.retirePch stack pch)) = paces (course s) := by
  simp [State.retirePch]
@[simp] theorem paces_memRetire (s : State) (d : Nat) : paces (course (s.memRetire d)) = paces (course s) := by simp [State.memRetire]
@[simp] theorem paces_clrLate (s : State) (p : Nat) : paces (course (s.clrLate p)) = paces (course s) := by simp [State.clrLate]

@[simp] theorem course_unpinPage (s : State) (p : Nat) (e : Nat × Bool) : course (s.unpinPage p e) = course s := by
  unfold State.unpinPage
  split <;> simp

@[simp] theorem paces_failEvict (s : State) (d : Nat) (c : PageCopy) : paces (course (s.failEvict d c)) = paces (course s) := by
  unfold State.failEvict
  dsimp only
  split <;> simp

@[simp] theorem course_bmpTrain (s : State) (n : Nat) : course (s.bmpTrain n) = course s := by simp [State.bmpTrain]
@[simp] theorem paces_dropPort (s : State) (n : Nat) : paces (course (s.dropPort n)) = paces (course s) := by simp [State.dropPort]
@[simp] theorem paces_bmpEnableTo (s : State) (n : Nat) (en : Bool) : paces (course (s.bmpEnableTo n en)) = paces (course s) := by
  simp [State.bmpEnableTo]

end Sys2Proof.Proofs.Frame
end

section
/-! SUPPORT. What streams, their records and the host link leave of the course or the paces (09 R274 to R302; 10 R313 to R320). -/
namespace Sys2Proof.Proofs.Frame
open Sys2Proof Sys2Proof.Machine

/-! ## The recorder and PWR -/

@[simp] theorem course_evrDump (s : State) : course s.evrDump = course s := by simp [State.evrDump]
@[simp] theorem course_snapNow (s : State) : course s.snapNow = course s := by simp [State.snapNow]
@[simp] theorem course_clrMax (s : State) : course s.clrMax = course s := by simp [State.clrMax]
@[simp] theorem course_setLimit (s : State) (v : Nat) : course (s.setLimit v) = course s := by simp [State.setLimit]
@[simp] theorem course_quoteStart (s : State) : course s.quoteStart = course s := by simp [State.quoteStart]

/-! ## Streams and records (09) -/

@[simp] theorem course_tblWr (s : State) (a : Nat) (l : List Byte) : course (s.tblWr a l) = course s := by simp [State.tblWr]
@[simp] theorem course_writeBack (s : State) (n : Nat) : course (s.writeBack n) = course s := by simp [State.writeBack]
@[simp] theorem course_writeError (s : State) (n : Nat) : course (s.writeError n) = course s := by simp [State.writeError]
@[simp] theorem course_writePhases (s : State) (n : Nat) : course (s.writePhases n) = course s := by simp [State.writePhases]
@[simp] theorem course_writeHead (s : State) (n : Nat) : course (s.writeHead n) = course s := by simp [State.writeHead]
@[simp] theorem course_writeTail (s : State) (n : Nat) : course (s.writeTail n) = course s := by simp [State.writeTail]

@[simp] theorem course_setRange (s : State) (n : Nat) : course (s.setRange n) = course s := by
  unfold State.setRange
  split <;> simp

@[simp] theorem course_touchStream (s : State) (n : Nat) : course (s.touchStream n) = course s := by simp [State.touchStream]

@[simp] theorem course_dropEntry (s : State) : course s.dropEntry = course s := by
  unfold State.dropEntry
  split <;> simp

@[simp] theorem course_trimCache (s : State) : course s.trimCache = course s := by simp [State.trimCache]
@[simp] theorem course_useEntry (s : State) (n : Nat) : course (s.useEntry n) = course s := by simp [State.useEntry]
@[simp] theorem course_raiseIrq (s : State) (n : Nat) : course (s.raiseIrq n) = course s := by simp [State.raiseIrq]
@[simp] theorem course_irqCause (s : State) (n : Nat) : course (s.irqCause n) = course s := by simp [State.irqCause]
@[simp] theorem course_raiseBatches (s : State) (n : Nat) : course (s.raiseBatches n) = course s := by simp [State.raiseBatches]
@[simp] theorem course_haltStream (s : State) (n cause : Nat) : course (s.haltStream n cause) = course s := by simp [State.haltStream]
@[simp] theorem course_faultStream (s : State) (n reason : Nat) : course (s.faultStream n reason) = course s := by simp [State.faultStream]

@[simp] theorem course_releaseChannel (s : State) (n : Nat) (c : Cmd) : course (s.releaseChannel n c) = course s := by
  unfold State.releaseChannel
  split
  · simp
  · rfl

@[simp] theorem course_releaseHoldings (s : State) (n p : Nat) (c : Cmd) : course (s.releaseHoldings n p c) = course s := by
  simp [State.releaseHoldings]

@[simp] theorem course_finishHead (s : State) (n : Nat) : course (s.finishHead n) = course s := by
  unfold State.finishHead
  dsimp only
  split <;> simp

@[simp] theorem course_holdRecord (s : State) (n : Nat) (irq : Bool) (b : List Byte) : course (s.holdRecord n irq b) = course s := by
  simp [State.holdRecord]

@[simp] theorem course_heldWaited (s : State) (n : Nat) : course (s.heldWaited n) = course s := by
  unfold State.heldWaited
  split <;> simp

@[simp] theorem course_sendHeld (s : State) (n k i : Nat) : course (s.sendHeld n k i) = course s := by
  induction k generalizing s i with
  | zero => rfl
  | succ k ih =>
    unfold State.sendHeld
    dsimp only
    split
    · simp
    · split
      · split <;> simp [ih]
      · simp [ih]
      · simp [ih]

@[simp] theorem course_claimSent (s : State) (n : Nat) (seq : BitVec 16) : course (s.claimSent n seq) = course s := by
  simp [State.claimSent]
@[simp] theorem course_toLost (s : State) (n : Nat) : course (s.toLost n) = course s := by simp [State.toLost]
@[simp] theorem course_ringLost (s : State) (n reason : Nat) : course (s.ringLost n reason) = course s := by simp [State.ringLost]

/-- What a try leaves, if it leaves a state at all. -/
def RecTry.keeps (s : State) : RecTry → Prop
  | .no => True
  | .sent t => course t = course s
  | .final t => course t = course s

theorem tryRecord_keeps (s : State) (n : Nat) (dp : Bool) : RecTry.keeps s (s.tryRecord n dp) := by
  unfold State.tryRecord
  dsimp only
  repeat' split
  all_goals simp [RecTry.keeps]

@[simp] theorem course_writeRecords (dp : Bool) (fuel : Nat) (s : State) (n : Nat) : course (State.writeRecords dp fuel s n) = course s := by
  induction fuel generalizing s with
  | zero => rfl
  | succ fuel ih =>
    have hkeeps := tryRecord_keeps s n dp
    unfold State.writeRecords
    split
    · rfl
    · next h => rw [h] at hkeeps; exact (ih _).trans hkeeps
    · next h => rw [h] at hkeeps; exact (ih _).trans hkeeps

@[simp] theorem course_records (s : State) (n : Nat) : course (s.records n) = course s := by
  simp only [State.records, course_raiseBatches, course_writeRecords, course_ite, course_sendHeld, ite_self]
@[simp] theorem course_modCmd (s : State) (n : Nat) (seq : BitVec 16) (f : Cmd → Cmd) : course (s.modCmd n seq f) = course s := by
  simp [State.modCmd]
@[simp] theorem course_chanDone (s : State) (n : Nat) (seq : BitVec 16) (st : Status) (tick : Nat) :
    course (s.chanDone n seq st tick) = course s := (rfl)

@[simp] theorem course_finishCmd (s : State) (n : Nat) (seq : BitVec 16) (st : Status) (reason : BitVec 8) (result : W64) (tick : Nat) :
    course (s.finishCmd n seq st reason result tick) = course s := by
  unfold State.finishCmd
  dsimp only
  split <;> simp

@[simp] theorem course_endCmd (s : State) (n : Nat) (seq : BitVec 16) (st : Status) (reason : BitVec 8) (result : W64) :
    course (s.endCmd n seq st reason result) = course s := by
  simp [State.endCmd]

@[simp] theorem course_cmdDoorbell (s : State) (n index : Nat) : course (s.cmdDoorbell n index) = course s := by simp [State.cmdDoorbell]
@[simp] theorem course_headDoorbell (s : State) (n index : Nat) : course (s.headDoorbell n index) = course s := by simp [State.headDoorbell]
@[simp] theorem course_doorbell (s : State) (w : Nat) : course (s.doorbell w) = course s := by simp [State.doorbell]
@[simp] theorem course_scmdStatus (s : State) (st : Status) : course (s.scmdStatus st) = course s := by simp [State.scmdStatus]
@[simp] theorem course_actionRefused (s : State) (n : Nat) (st : Status) : course (s.actionRefused n st) = course s := by
  simp [State.actionRefused]
@[simp] theorem paces_poolBy (s : State) (n : Nat) (delta : Int) : paces (course (s.poolBy n delta)) = paces (course s) := by
  simp [State.poolBy]

@[simp] theorem paces_actArm (s : State) (n : Nat) : paces (course (s.actArm n)) = paces (course s) := by
  unfold State.actArm
  dsimp only
  split
  · simp
  · split
    · simp
    · split
      · simp
      · simp

@[simp] theorem course_actHalt (s : State) (n : Nat) : course (s.actHalt n) = course s := by simp [State.actHalt]
@[simp] theorem paces_actDisarm (s : State) (n : Nat) : paces (course (s.actDisarm n)) = paces (course s) := by simp [State.actDisarm]
@[simp] theorem paces_actReload (s : State) (n : Nat) : paces (course (s.actReload n)) = paces (course s) := by simp [State.actReload]
@[simp] theorem course_actQuery (s : State) (n : Nat) : course (s.actQuery n) = course s := by
  simp only [State.actQuery, course_scmdStatus, course_modStm]

@[simp] theorem paces_scmd (s : State) (n action : Nat) : paces (course (s.scmd n action)) = paces (course s) := by
  unfold State.scmd
  split <;> simp

@[simp] theorem course_setTableBase (s : State) (v : Nat) : course (s.setTableBase v) = course s := by
  unfold State.setTableBase
  split
  · exact course_modStm ..
  · exact course_event ..

@[simp] theorem course_setArgBase (s : State) (v : Nat) : course (s.setArgBase v) = course s := by simp [State.setArgBase]
@[simp] theorem course_hlkDown (s : State) (st : PortState) : course (s.hlkDown st) = course s := by simp [State.hlkDown]
@[simp] theorem course_hlkTrain (s : State) : course s.hlkTrain = course s := by simp [State.hlkTrain]
@[simp] theorem course_handshakeWrite (s : State) (v : Nat) : course (s.handshakeWrite v) = course s := by simp [State.handshakeWrite]

@[simp] theorem course_setHoldBase (s : State) (v : Nat) : course (s.setHoldBase v) = course s := by
  unfold State.setHoldBase
  split
  · rfl
  · exact course_modHlk ..

end Sys2Proof.Proofs.Frame
end

section
/-! SUPPORT. What accesses of one piece and the actions of software leave of the course or the paces. -/
namespace Sys2Proof.Proofs.Frame
open Sys2Proof Sys2Proof.Machine

/-! ## Writes of a piece -/

@[simp] theorem course_writePiece (s : State) (p : Option Nat) (a : Nat) (l : List Byte) : course (s.writePiece p a l).2 = course s := by
  unfold State.writePiece
  repeat' split
  all_goals simp

@[simp] theorem course_addwPiece (s : State) (p : Option Nat) (src : Nat) (a : Nat) (l : List Byte) :
    course (s.addwPiece p src a l).2 = course s := by
  unfold State.addwPiece
  repeat' split
  all_goals simp

@[simp] theorem course_maxmPiece (s : State) (p : Option Nat) (a : Nat) (v : F32) : course (s.maxmPiece p a v).2 = course s := by
  unfold State.maxmPiece
  repeat' split
  all_goals simp

/-! ## Actions of software -/

@[simp] theorem paces_setCal (s : State) (v : Nat) : paces (course (s.setCal v)) = paces (course s) := by simp [State.setCal]
@[simp] theorem paces_resume (s : State) (p : Nat) : paces (course (s.resume p)) = paces (course s) := by simp [State.resume]
@[simp] theorem paces_clrSlack (s : State) (p : Nat) : paces (course (s.clrSlack p)) = paces (course s) := by simp [State.clrSlack]

@[simp] theorem course_endLoad (s : State) (r : LoadReq) (st : Status) (reason part : Nat) (serial : W64) (off : Nat) :
    course (s.endLoad r st reason part serial off) = course s := by
  unfold State.endLoad
  dsimp only
  split <;> simp

@[simp] theorem course_queueLoad (s : State) (r : LoadReq) : course (s.queueLoad r) = course s := by simp [State.queueLoad]
@[simp] theorem course_loadNow (s : State) : course s.loadNow = course s := by simp [State.loadNow]

@[simp] theorem course_flashNow (s : State) : course s.flashNow = course s := by
  unfold State.flashNow
  split
  · simp
  · dsimp only
    split
    · exact course_queueLoad ..
    · exact course_queueLoad ..

@[simp] theorem course_failHead (s : State) (st : Status) (reason part : Nat) (serial : W64) (off : Nat) :
    course (s.failHead st reason part serial off) = course s := by
  unfold State.failHead
  split <;> simp

@[simp] theorem paces_requestRepair (s : State) (g : Nat) (failed : Bool) : paces (course (s.requestRepair g failed)) = paces (course s) := by
  unfold State.requestRepair
  split
  · rfl
  · dsimp only
    split
    · rfl
    · split <;> simp

@[simp] theorem paces_askRepair (s : State) (g : Nat) (failed : Bool) : paces (course (s.askRepair g failed)) = paces (course s) := by
  simp [State.askRepair]
@[simp] theorem paces_repairNow (s : State) : paces (course s.repairNow) = paces (course s) := by simp [State.repairNow]
@[simp] theorem course_dmaStopReq (s : State) (ch : Nat) : course (s.dmaStopReq ch) = course s := by simp [State.dmaStopReq]

@[simp] theorem course_capDone (s : State) (d : Nat) : course (s.capDone d) = course s := by
  unfold State.capDone
  split <;> simp

@[simp] theorem course_holdDone (s : State) (d : Nat) : course (s.holdDone d) = course s := by
  unfold State.holdDone
  split <;> simp

@[simp] theorem course_writeDone (s : State) (d : Nat) : course (s.writeDone d) = course s := by
  unfold State.writeDone
  split <;> simp

@[simp] theorem course_idleUpd (s : State) (d : Nat) : course (s.idleUpd d) = course s := by simp [State.idleUpd]
@[simp] theorem course_waitOver (s : State) (n : Nat) (seq : BitVec 16) : course (s.waitOver n seq) = course s := by simp [State.waitOver]
@[simp] theorem course_updCounted (s : State) (f : Flipped) : course (s.updCounted f) = course s := by simp [State.updCounted]

@[simp] theorem course_updDone (s : State) (f : Flipped) (j : UpdJob) (st : Status) (root cut : Bool) :
    course (s.updDone f j st root cut) = course s := by
  simp [State.updDone]

@[simp] theorem course_updCut (s : State) (f : Flipped) (j : UpdJob) (st : Status) (root : Bool) :
    course (s.updCut f j st root) = course s := by
  simp [State.updCut]

@[simp] theorem course_updInterrupt (s : State) (d : Nat) (j : UpdJob) (cause : Status) : course (s.updInterrupt d j cause) = course s := by
  unfold State.updInterrupt
  split <;> simp

@[simp] theorem course_updAbort (s : State) (d : Nat) : course (s.updAbort d) = course s := by
  unfold State.updAbort
  split <;> simp

@[simp] theorem course_updConfig (s : State) (d off v : Nat) : course (s.updConfig d off v) = course s := by simp [State.updConfig]
@[simp] theorem course_ingAbortReq (s : State) (e : Nat) : course (s.ingAbortReq e) = course s := by simp [State.ingAbortReq]
@[simp] theorem course_plkTrain (s : State) (n : Nat) : course (s.plkTrain n) = course s := by simp [State.plkTrain]
@[simp] theorem course_portLost (s : State) (n : Nat) : course (s.portLost n) = course s := by simp [State.portLost]
@[simp] theorem course_plkEnableTo (s : State) (n : Nat) (en : Bool) : course (s.plkEnableTo n en) = course s := by simp [State.plkEnableTo]
@[simp] theorem course_queueTail (s : State) (q v : Nat) : course (s.queueTail q v) = course s := by simp [State.queueTail]
@[simp] theorem course_queueBell (s : State) (w : Nat) : course (s.queueBell w) = course s := by simp [State.queueBell]
@[simp] theorem course_queueCtl (s : State) (q v : Nat) : course (s.queueCtl q v) = course s := by simp [State.queueCtl]
@[simp] theorem course_queueBase (s : State) (q v : Nat) : course (s.queueBase q v) = course s := by simp [State.queueBase]

@[simp] theorem paces_masterEpochs (s : State) : paces (course s.masterEpochs) = paces (course s) := by
  unfold State.masterEpochs
  split
  · rfl
  · refine paces_each (fun s g => ?_) _ s
    rw [paces_each (fun s p => by simp), paces_modGroup]

@[simp] theorem paces_setMaster (s : State) (m : Bool) : paces (course (s.setMaster m)) = paces (course s) := by simp [State.setMaster]

@[simp] theorem course_retrainLink (s : State) (l : Nat) : course (s.retrainLink l) = course s := by
  unfold State.retrainLink
  split <;> simp

@[simp] theorem course_reconcile (s : State) : course s.reconcile = course s := by
  unfold State.reconcile
  split <;> simp

/-! ## Refusals -/

@[simp] theorem course_refusalEvents (s : State) (n p : Nat) (b : List Byte) (e : Status × Nat) :
    course (s.refusalEvents n p b e) = course s := by
  unfold State.refusalEvents
  repeat' split
  all_goals simp

end Sys2Proof.Proofs.Frame
end

section
/-! SUPPORT. What a register write leaves of the course or the paces, but for CFG_CTL, whose ABORT ends a drained state (07 R217). -/
namespace Sys2Proof.Proofs.Frame
open Sys2Proof Sys2Proof.Machine

@[simp] theorem course_onBit {f : State → State} (h : ∀ s, course (f s) = course s) (s : State) (v i : Nat) :
    course (s.onBit v i f) = course s := by
  simp only [State.onBit, course_ite, h, ite_self]
@[simp] theorem paces_onBit {f : State → State} (h : ∀ s, paces (course (f s)) = paces (course s)) (s : State) (v i : Nat) :
    paces (course (s.onBit v i f)) = paces (course s) := by
  simp only [State.onBit, course_ite, paces_ite, h, ite_self]

@[simp] theorem course_writeMgt (s : State) (d off : Nat) (w : RegW) : course (s.writeMgt d off w) = course s := by
  unfold State.writeMgt
  repeat' split
  all_goals simp

@[simp] theorem paces_writeFrm (s : State) (d off : Nat) (w : RegW) : paces (course (s.writeFrm d off w)) = paces (course s) := by
  unfold State.writeFrm
  repeat' split
  all_goals simp

@[simp] theorem paces_writeStm (s : State) (off : Nat) (w : RegW) : paces (course (s.writeStm off w)) = paces (course s) := by
  unfold State.writeStm
  split <;> simp

@[simp] theorem paces_writeMemBlock (s : State) (d off : Nat) (w : RegW) : paces (course (s.writeMemBlock d off w)) = paces (course s) := by
  unfold State.writeMemBlock
  repeat' split
  all_goals simp

@[simp] theorem course_writeDma (s : State) (d off : Nat) (w : RegW) : course (s.writeDma d off w) = course s := by
  unfold State.writeDma
  repeat' split
  all_goals simp

@[simp] theorem course_writeUpd (s : State) (d off : Nat) (w : RegW) : course (s.writeUpd d off w) = course s := by
  unfold State.writeUpd
  split <;> simp

@[simp] theorem course_writeIng (s : State) (off : Nat) (w : RegW) : course (s.writeIng off w) = course s := by simp [State.writeIng]

@[simp] theorem course_writeHlk (s : State) (off : Nat) (w : RegW) : course (s.writeHlk off w) = course s := by
  unfold State.writeHlk
  split
  all_goals simp

@[simp] theorem paces_writePlk (s : State) (off : Nat) (w : RegW) : paces (course (s.writePlk off w)) = paces (course s) := by
  unfold State.writePlk
  split
  · split
    · refine paces_foldl (fun s n => ?_) _ s
      simp
    · rfl
  · simp
  · simp
  · split
    · exact congrArg paces (course_modPlk ..)
    · split <;> simp
    · simp
    · rfl

@[simp] theorem paces_writeBmp (s : State) (off : Nat) (w : RegW) : paces (course (s.writeBmp off w)) = paces (course s) := by
  unfold State.writeBmp
  split <;> simp

@[simp] theorem course_writeEvr (s : State) (off : Nat) (w : RegW) : course (s.writeEvr off w) = course s := by
  unfold State.writeEvr
  split
  · simp
  · simp
  · simp
  · simp
  · split <;> simp

@[simp] theorem course_writeAud (s : State) (d off : Nat) (w : RegW) : course (s.writeAud d off w) = course s := by
  unfold State.writeAud
  split
  · rfl
  · split
    · simp
    · exact course_modAud ..
    · rfl

@[simp] theorem course_writePwr (s : State) (off : Nat) (w : RegW) : course (s.writePwr off w) = course s := by
  unfold State.writePwr
  split
  all_goals simp

end Sys2Proof.Proofs.Frame
end

section
/-! SUPPORT. What units, and the admission of commands, leave of the course or the paces (06 R171 to R177). -/
namespace Sys2Proof.Proofs.Frame
open Sys2Proof Sys2Proof.Machine

/-! ## DMA -/

@[simp] theorem course_queueDma (s : State) (n : Nat) (c : Cmd) : course (s.queueDma n c) = course s := by simp [State.queueDma]

/-! ## Cores -/

@[simp] theorem course_wrStore (s : State) (c off : Nat) (l : List Byte) : course (s.wrStore c off l) = course s := by simp [State.wrStore]
@[simp] theorem course_convDone (s : State) (c : Nat) : course (s.convDone c) = course s := by simp [State.convDone]

/-! ## Drains -/

theorem course_mergeLine (s : State) (p : Option Nat) (a a' : Nat) (r : Res × State) : course (s.mergeLine p a a' r).2 = course r.2 := by
  unfold State.mergeLine
  split <;> simp

@[simp] theorem course_keepOld (s : State) (c : Nat) (m : Move) : course (s.keepOld c m) = course s := by simp [State.keepOld]

/-! ## Engines -/

@[simp] theorem course_sentHost (s : State) (a n : Nat) : course (s.sentHost a n) = course s := by simp [State.sentHost]

/-! ## INGEST (14) -/

@[simp] theorem course_noteIngHeld (s : State) (j : IngJob) : course (s.noteIngHeld j) = course s :=
  course_each (fun s i => course_modIng s i _) _ s
@[simp] theorem course_ingCount (s : State) (e : Nat) (j : IngJob) : course (s.ingCount e j) = course s := by simp [State.ingCount]
@[simp] theorem course_ingLeave (s : State) (e : Nat) (j : IngJob) (st : Status) : course (s.ingLeave e j st) = course s := by
  simp [State.ingLeave]

@[simp] theorem course_ingWrote (s : State) (e : Nat) : course (s.ingWrote e) = course s := by
  unfold State.ingWrote
  repeat' split
  all_goals simp

@[simp] theorem course_enqueueIng (s : State) (n : Nat) (c : Cmd) : course (s.enqueueIng n c) = course s := by simp [State.enqueueIng]

/-! ## Queues -/

@[simp] theorem paces_modQueue (s : State) (p qid : Nat) (f : Queue → Queue) : paces (course (s.modQueue p qid f)) = paces (course s) := by
  simp [State.modQueue]

/-! ## UPDATE -/

@[simp] theorem course_enqueueUpd (s : State) (n : Nat) (c : Cmd) : course (s.enqueueUpd n c) = course s := by simp [State.enqueueUpd]

/-! ## Commands ended before their time -/

@[simp] theorem paces_untake (s : State) (c : Nat) (x : SWord) : paces (course (s.untake c x)) = paces (course s) := by
  unfold State.untake
  split <;> simp

@[simp] theorem course_dropQueued (s : State) (n : Nat) (seq : BitVec 16) : course (s.dropQueued n seq) = course s := by
  unfold State.dropQueued
  dsimp only
  rw [course_engines, course_waitOver]

@[simp] theorem course_dropDma (s : State) (n : Nat) (seq : BitVec 16) : course (s.dropDma n seq) = course s := (rfl)
@[simp] theorem course_endEnded (s : State) (c : Cmd) (st e : Status) (r : BitVec 8) (v : W64) : course (s.endEnded c st e r v).2 = course s := by
  simp only [State.endEnded, apply_ite (fun r : (Status × BitVec 8 × W64) × State => course r.2), course_event, ite_self]
@[simp] theorem paces_returnAll (s : State) (p : Nat) : paces (course (s.returnAll p)) = paces (course s) := by simp [State.returnAll]

/-! ## Admission -/

@[simp] theorem paces_takeHead (s : State) (p n tick : Nat) (f : Fetched) (val : Nat) (late : Bool) :
    paces (course (s.takeHead p n tick f val late).2) = paces (course s) := by
  simp [State.takeHead]

@[simp] theorem paces_bindRun (s : State) (p n : Nat) (c : Cmd) (g : Program) (k : Nat) :
    paces (course (s.bindRun p n c g k)) = paces (course s) := by
  simp [State.bindRun]

@[simp] theorem paces_routeCmd (s : State) (p n : Nat) (c : Cmd) (slot : Option Nat) :
    paces (course (s.routeCmd p n c slot)) = paces (course s) := by
  unfold State.routeCmd
  repeat' split
  all_goals simp

@[simp] theorem paces_admitHead (s : State) (p n tick : Nat) : paces (course (s.admitHead p n tick).2) = paces (course s) := by
  unfold State.admitHead
  split <;> simp

@[simp] theorem paces_admitStream (s : State) (p n tick room : Nat) :
    paces (course (s.admitStream p n tick room).2) = paces (course s) := by
  induction room generalizing s with
  | zero => rfl
  | succ room ih =>
    have hhead := paces_admitHead s p n tick
    unfold State.admitStream
    split
    · next h => rw [h] at hhead; exact (ih _).trans hhead
    · next h => rw [h] at hhead; exact hhead

theorem paces_admitMembers {s t : State} {p tick : Nat} {l : List Nat} (h : s.admitMembers p tick l = .ok t) :
    paces (course t) = paces (course s) := by
  induction l generalizing s with
  | nil => cases h; rfl
  | cons n l ih =>
    unfold State.admitMembers at h
    split at h
    · split at h
      · cases h
      · cases h
      · exact (ih h).trans (paces_admitHead s p n tick)
    · cases h

@[simp] theorem paces_admitGang (s : State) (p tick room : Nat) (tag : BitVec 16) :
    paces (course (s.admitGang p tick room tag).2) = paces (course s) := by
  unfold State.admitGang
  dsimp only
  split
  · rfl
  · split
    · simp
    · split
      · next h => exact paces_admitMembers h
      · simp
      · simp

@[simp] theorem paces_admitTurn (s : State) (p tick room n : Nat) : paces (course (s.admitTurn p tick room n).2) = paces (course s) := by
  unfold State.admitTurn
  dsimp only
  split
  · simp
  · split <;> simp

@[simp] theorem paces_admitList (s : State) (p tick : Nat) (l : List Nat) (done : Nat) :
    paces (course (s.admitList p tick l done).2) = paces (course s) := by
  induction l generalizing s done with
  | nil => rfl
  | cons n l ih => exact (ih _ _).trans (paces_admitTurn ..)

@[simp] theorem paces_admitAll (s : State) (p tick : Nat) : paces (course (s.admitAll p tick).2) = paces (course s) := by
  unfold State.admitAll
  dsimp only
  split <;> simp

/-! ## Loads -/

@[simp] theorem course_headPhase (s : State) (k : LoadPhase) : course (s.headPhase k) = course s := by simp [State.headPhase]
@[simp] theorem course_endWait (s : State) (p : Nat) : course (s.endWait p) = course s := by simp [State.endWait]

end Sys2Proof.Proofs.Frame
end

section
/-! SUPPORT. Runs that may end a drained state: a register write reaches ABORT (07 R217), and every access may be a register write. What a
command ended before its time and a frame cut short leave of the partitions (04 R114; 06 R176, R179). -/
namespace Sys2Proof.Proofs.Frame
open Sys2Proof Sys2Proof.Machine

/-- From `s` to `t` no partition halts, none has its overruns in a row changed, and none that is not drained changes its state. -/
structure Steady (s t : State) : Prop where
  halts (k : Nat) : (t.part k).halts = (s.part k).halts
  consec (k : Nat) : (t.part k).consec = (s.part k).consec
  state (k : Nat) : (s.part k).state ≠ .drained → (t.part k).state = (s.part k).state

theorem Steady.refl (s : State) : Steady s s := ⟨fun _ => rfl, fun _ => rfl, fun _ _ => rfl⟩

theorem Steady.trans {s t u : State} (h : Steady s t) (h' : Steady t u) : Steady s u where
  halts k := (h'.halts k).trans (h.halts k)
  consec k := (h'.consec k).trans (h.consec k)
  state k hk := by rw [h'.state k (by rwa [h.state k hk]), h.state k hk]

theorem steady_of_paces {s t : State} (h : paces (course t) = paces (course s)) : Steady s t where
  halts k := congrArg Pace.halts (congrFun h k)
  consec k := congrArg Pace.consec (congrFun h k)
  state k _ := congrArg Pace.state (congrFun h k)

/-- A steady run goes on through what keeps the paces. -/
theorem Steady.keep {s t u : State} (h : Steady s t) (h' : paces (course u) = paces (course t)) : Steady s u :=
  h.trans (steady_of_paces h')

theorem steady_foldl {α : Type} {f : State → α → State} (h : ∀ s x, Steady s (f s x)) (l : List α) (s : State) :
    Steady s (l.foldl f s) := by
  induction l generalizing s with
  | nil => exact .refl s
  | cons x l ih => exact (h s x).trans (ih _)

theorem steady_each {f : State → Nat → State} (h : ∀ s n, Steady s (f s n)) (l : List Nat) (s : State) : Steady s (s.each l f) :=
  steady_foldl h l s

theorem steady_onBit {f : State → State} (h : ∀ s, Steady s (f s)) (s : State) (v i : Nat) : Steady s (s.onBit v i f) := by
  unfold State.onBit
  split
  · exact h s
  · exact .refl s

/-! ## Register writes -/

/-- A partition that was drained runs again. -/
theorem steady_restart (s : State) (p : Nat) (h : (s.part p).state = .drained) :
    Steady s (s.modPart p (fun q => { q with state := .running })) := by
  have hpart (k : Nat) : (s.modPart p (fun q => { q with state := .running })).part k =
      if k = p then { s.part p with state := .running } else s.part k := State.part_modPart ..
  refine ⟨fun k => ?_, fun k => ?_, fun k hk => ?_⟩ <;> rw [hpart] <;> split
  case refine_3.isTrue hp => exact absurd (hp ▸ h) hk
  case refine_1.isTrue hp | refine_2.isTrue hp => rw [hp]
  all_goals rfl

/-- A change of clusters leaves a partition's record to the change of its own. -/
theorem part_modPart_foldl_modCluster (s : State) (p : Nat) (l : List Nat) (f : Cluster → Cluster) (f' : Part → Part) :
    ((l.foldl (fun s g => s.modCluster g f) s).modPart p f').part p = f' (s.part p) := by
  have hparts : (l.foldl (fun s g => s.modCluster g f) s).parts = s.parts := 
    keeps_foldl State.parts (f := fun s g => s.modCluster g f) (fun _ _ => rfl) l s
  rw [State.part_modPart_self, State.part, hparts]
  rfl

theorem steady_undrain (s : State) (p : Nat) : Steady s (s.undrain p) := by
  unfold State.undrain
  dsimp only
  split
  case isTrue hdrained =>
    refine ((steady_of_paces ?_).trans (steady_restart _ p ?_)).keep (paces_firstTick ..)
    · simp
    · rw [part_modPart_foldl_modCluster]
      exact eq_of_beq hdrained
  case isFalse => exact steady_of_paces (by simp)

theorem steady_abortLoad (s : State) : Steady s s.abortLoad := by
  unfold State.abortLoad
  split
  · exact .refl s
  · split
    · exact .refl s
    · dsimp only
      split
      · exact (steady_of_paces (by simp)).trans (steady_undrain ..)
      · exact steady_of_paces (by simp)

theorem steady_writeCfg (s : State) (off : Nat) (w : RegW) : Steady s (s.writeCfg off w) := by
  unfold State.writeCfg
  split
  · dsimp only
    have habort (t : State) : Steady t (t.onBit w.z 2 State.abortLoad) := steady_onBit steady_abortLoad t _ _
    split
    · exact ((steady_of_paces (by simp)).trans (habort (s.modCfg (fun c => { c with force := bitAt w.v 1 })))).keep (by simp)
    · exact (habort s).keep (by simp)
  all_goals exact steady_of_paces (by simp)

theorem steady_regWrite (s : State) (d b off : Nat) (w : RegW) : Steady s (s.regWrite d b off w) := by
  unfold State.regWrite
  split
  case h_3 => exact steady_writeCfg ..
  all_goals exact steady_of_paces (by simp)

theorem steady_regWrite1 (s : State) (a : Nat) (l : List Byte) : Steady s (s.regWrite1 a l) := by
  unfold State.regWrite1
  split
  · exact steady_regWrite ..
  · exact steady_of_paces (by simp)

theorem steady_regWriteSpan (s : State) (a : Nat) (l : List Byte) : Steady s (s.regWriteSpan a l) := by
  unfold State.regWriteSpan
  generalize regParts (l.length / 8 + 2) a l.length = ps
  induction ps generalizing s l with
  | nil => exact .refl s
  | cons q ps ih => exact (steady_regWrite1 ..).trans (ih ..)

/-! ## Accesses -/

theorem steady_busWrite (s : State) (p : Option Nat) (a : Nat) (l : List Byte) : Steady s (s.busWrite p a l).2 := by
  have hpiece := course_writePiece s p a l
  unfold State.busWrite
  split
  · next h => rw [h] at hpiece; exact steady_of_paces (by simp [hpiece])
  · next h => rw [h] at hpiece; exact (steady_of_paces (congrArg paces hpiece)).trans (steady_regWriteSpan ..)
  · next h => rw [h] at hpiece; exact steady_of_paces (by simp [hpiece])
  · exact steady_of_paces (congrArg paces hpiece)

theorem steady_busWriteSpan (s : State) (p : Option Nat) (l : List (Nat × Nat)) (b : List Byte) :
    Steady s (s.busWriteSpan p l b).2 := by
  induction l generalizing s b with
  | nil => exact .refl s
  | cons x l ih =>
    have hwrite := steady_busWrite s p x.1 (b.take x.2)
    unfold State.busWriteSpan
    dsimp only
    split
    · exact hwrite.trans (ih ..)
    · exact hwrite

/-! ## The work of an engine -/

/-- A piece of an engine's work is steady from any state. -/
structure SteadyM {α : Type} (w : UM α) : Prop where
  run (s : State) : Steady s (w s).2

theorem steadyM_bind {α β : Type} {w : UM α} {f : α → UM β} (hw : SteadyM w) (hf : ∀ x, SteadyM (f x)) : SteadyM (w >>= f) := by
  refine ⟨fun s => ?_⟩
  have hs := hw.run s
  have hbind : (w >>= f) s = match w s with | (.ok x, t) => f x t | (.error e, t) => (.error e, t) := by
    change (match w s with | (r, t) => ExceptT.bindCont f r t) = _
    rcases w s with ⟨_ | _, t⟩ <;> rfl
  rw [hbind]
  split
  · next h => rw [h] at hs; exact hs.trans ((hf _).run _)
  · next h => rw [h] at hs; exact hs

theorem steadyM_uWr (p : Option Nat) (a : Nat) (l : List Byte) : SteadyM (uWr p a l) := by
  refine ⟨fun s => ?_⟩
  have hwrite : Steady s ((s.sentHost a l.length).writeAny p a l).2 :=
    (steady_of_paces (by simp)).trans (steady_busWriteSpan ..)
  unfold uWr
  split
  · next h => rw [h] at hwrite; exact hwrite
  · next h => rw [h] at hwrite; exact hwrite

theorem steadyM_uBoth {a b : UM Unit} (ha : SteadyM a) (hb : SteadyM b) : SteadyM (uBoth a b) := by
  refine ⟨fun s => ?_⟩
  have hfirst := ha.run s
  unfold uBoth
  split
  · next h => rw [h] at hfirst; exact hfirst.trans (hb.run _)
  · next h => rw [h] at hfirst; exact hfirst
  · next e s1 _ h =>
    rw [h] at hfirst
    have hsecond := hb.run s1
    split
    · next h' => rw [h'] at hsecond; exact hfirst.trans hsecond
    · next h' => rw [h'] at hsecond; exact hfirst.trans hsecond

theorem steadyM_uReport (p : Option Nat) (j : IngJob) : SteadyM (uReport p j) :=
  steadyM_uBoth (steadyM_bind (steadyM_uWr ..) (fun _ => steadyM_uWr ..)) (steadyM_bind (steadyM_uWr ..) (fun _ => steadyM_uWr ..))

theorem steady_reportNow (s : State) (e : Nat) (j : IngJob) : Steady s (s.reportNow e j) := by
  have hreport := (steadyM_uReport (some j.part) j).run { s with bus := some (j.stream, none) }
  unfold State.reportNow
  split
  · exact steady_of_paces (by simp)
  · next s1 _ h =>
    rw [h] at hreport
    have hbus : Steady s s1 := (steady_of_paces (congrArg paces (course_onBus ..))).trans hreport
    exact hbus.keep (by rw [course_claimSent, course_onBus])

theorem steady_ingEarly (s : State) (e : Nat) (j : IngJob) (st : Status) : Steady s (s.ingEarly e j st) := by
  unfold State.ingEarly
  exact ((steady_of_paces (by simp)).trans (steady_reportNow (s.ingWrote e) e j.cutShort)).keep (by simp)

theorem steady_ingCut (s : State) (n : Nat) (c : Cmd) (st : Status) : Steady s (s.ingCut n c st) := by
  unfold State.ingCut
  split
  · exact .refl s
  · split
    · exact steady_ingEarly ..
    · next e j _ _ =>
      dsimp only
      split
      · exact ((steady_of_paces (by simp)).trans (steady_reportNow (s.event 0x0705 e ((s.time - j.tick) / 1200)) e j.cutShort)).keep (by simp)
      · exact (steady_reportNow s e j.cutShort).keep (by simp)

/-! ## Commands that end -/

theorem steady_endUnit (s : State) (n p : Nat) (c : Cmd) (st : Status) : Steady s (s.endUnit n p c st).2 := by
  unfold State.endUnit
  split
  · exact steady_of_paces (by simp)
  · split
    · exact .refl s
    · exact steady_of_paces (by simp)
    · dsimp only
      split
      · exact steady_of_paces (by simp)
      · exact steady_of_paces (by simp)
    · exact steady_of_paces (by simp)
    · exact .refl s
    · exact (steady_ingCut s n c st).keep (by simp)
    · exact steady_of_paces (by simp)

theorem steady_endNow (s : State) (n p : Nat) (c : Cmd) (st : Status) (tick : Nat) : Steady s (s.endNow n p c st tick) := by
  unfold State.endNow
  exact (steady_endUnit s n p c st).keep (by simp)

theorem steady_endAll (s : State) (p : Nat) (st : Status) (tick : Nat) (which : Nat → Cmd → Bool) : Steady s (s.endAll p st tick which) :=
  steady_each (fun s _ => steady_foldl (fun s _ => steady_endNow s ..) _ s) _ s

theorem steady_completeCmd (s : State) (p n tick : Nat) (c : Cmd) : Steady s (s.completeCmd p n tick c) := by
  unfold State.completeCmd
  split
  · exact steady_endNow ..
  · split
    · exact steady_of_paces (by simp)
    · exact .refl s
    · exact steady_of_paces (by simp)
    · exact .refl s

theorem steady_completeAll (s : State) (p tick : Nat) : Steady s (s.completeAll p tick) :=
  steady_each (fun s _ => steady_foldl (fun s _ => steady_completeCmd s ..) _ s) _ s

/-! ## Frames cut short -/

theorem steady_drainLine (s : State) (c : Nat) (m : Move) (x : Nat × Nat) : Steady s (s.drainLine c m x).2 := by
  by_cases hfetch : m.mop = 8
  · exact steady_of_paces (congrArg paces (course_drainLine_fetch s c hfetch x))
  have hwrite := steady_busWrite s (partOfCore s c) (m.reach s x.1) (localBytes s c m.f x.2)
  unfold State.drainLine
  dsimp only
  split
  · split <;> exact steady_of_paces (by simp [course_mergeLine])
  · split <;> exact steady_of_paces (by simp [course_mergeLine])
  · next h => exact absurd (BitVec.eq_of_toNat_eq h) hfetch
  · split
    · exact hwrite.keep (by simp)
    · exact hwrite

theorem steady_moveAll (s : State) (c : Nat) (m : Move) (l : List (Nat × Nat)) (k : MoveCount) : Steady s (s.moveAll c m l k).1 := by
  induction l generalizing s k with
  | nil => exact .refl s
  | cons x l ih => exact ((steady_drainLine s c m x).keep (by simp)).trans (ih ..)

theorem steady_drainDone (s : State) (c : Nat) : Steady s (s.drainDone c) := by
  unfold State.drainDone
  split
  · exact .refl s
  · next m0 rest _ =>
    dsimp only
    generalize (if m0.mop = 8 then m0.translated s c else (m0.translated s c).freshened s c) = m
    split
    · exact steady_of_paces (by simp)
    · split
      · exact .refl s
      · generalize (if m.mop = 3 then _ else movLines m) = ls
        exact ((steady_of_paces (by simp)).trans (steady_moveAll ((s.writeWaited (partOfCore s c) m.heldAt).keepOld c m) c m ls {})).keep
          (by simp)

theorem steady_finishDrain (s : State) (c : Nat) : Steady s (s.finishDrain c) := by
  unfold State.finishDrain
  dsimp only
  split
  · split
    · exact steady_drainDone ..
    · exact (steady_drainDone s c).keep (by simp)
  · exact steady_drainDone ..

theorem steady_cutCore (s : State) (c : Nat) (drop : Bool) : Steady s (s.cutCore c drop) := by
  unfold State.cutCore
  exact (steady_foldl (fun s _ => steady_finishDrain s c) (s.core c).drains s).keep (by simp)

theorem steady_cutCluster (s : State) (g : Nat) (drop : Bool) : Steady s (s.cutCluster g drop) := by
  unfold State.cutCluster
  exact (steady_each (fun s i => steady_cutCore s (16 * g + i) drop) (List.range 16) s).keep (by simp)

end Sys2Proof.Proofs.Frame
end

section
/-! SUPPORT. The decision point (06 R168, R178, R179): what GO, a late frame and a halt leave of the partition, and the statement
`DecisionPoints` from it. -/
namespace Sys2Proof.Proofs.Frame
open Sys2Proof Sys2Proof.Machine

/-! ## What follows GO or HOLD -/

/-- The end of a decision point: records are written, and a load may leave WAIT. -/
def afterRule (s : State) (p : Nat) : State := (s.each (streamNos s p) State.records).endWait p

theorem decisionPoint_of_up {s : State} {p : Nat} (h : ((judged s p).part p).goDown = false) :
    s.decisionPoint p = afterRule ((judged s p).rule p (s.part p).next) p := by
  have hpoint : s.decisionPoint p = afterRule (if ((judged s p).part p).goDown
      then ((judged s p).downPart p (s.part p).next).sendHold p (levelOf (judged s p) [p])
      else (judged s p).rule p (s.part p).next) p := rfl
  rw [hpoint, h, if_neg Bool.false_ne_true]

theorem course_afterRule (s : State) (p : Nat) : course (afterRule s p) = course s := by
  unfold afterRule
  rw [course_endWait, course_each (fun s n => course_records s n)]

/-- What the statement reads of a partition, its bare record holds. -/
theorem ruled_of_bare {x y : Part} (h : bare x = bare y) : x.state = y.state ∧ x.consec = y.consec ∧ x.verdict = y.verdict ∧
    x.overruns = y.overruns ∧ x.halts = y.halts :=
  ⟨(congrArg Part.state h :), (congrArg Part.consec h :), (congrArg Part.verdict h :), (congrArg Part.overruns h :),
    (congrArg Part.halts h :)⟩

theorem bare_part_afterRule (s : State) (p k : Nat) : bare ((afterRule s p).part k) = bare (s.part k) :=
  bare_part_of_course (course_afterRule s p) k

/-! ## The rule -/

/-- No repair of the partition waits for this decision point. -/
theorem startRepairs_of_none {s : State} {p : Nat} (h : ∀ r ∈ (s.part p).repairs, r.step ≠ 1) (t : Nat) : s.startRepairs p t = s := by
  have hnone : (s.part p).repairs.any (fun r => r.step = 1) = false := by simpa [List.any_eq_false] using h
  simp only [State.startRepairs, hnone, Bool.false_eq_true, if_false]

/-- A load for the partition closes admission. -/
def loadWaits (s : State) (p : Nat) : Bool := (headLoad s p [.wait, .drain, .apply]).isSome

section
variable {s : State} {p : Nat} (hstate : (s.part p).state = .running ∨ (s.part p).state = .late)
include hstate

theorem rule_overrun (hdone : frameIsDone s p = false) (hrepairs : ∀ r ∈ (s.part p).repairs, r.step ≠ 1) (t : Nat) :
    s.rule p t = (s.overrun p t (loadWaits s p)).sendHold p (levelOf s [p]) := by
  unfold State.rule
  rw [startRepairs_of_none hrepairs]
  rcases hstate with h | h <;> simp only [h, hdone, Bool.not_false, if_true, loadWaits]

theorem rule_go (hdone : frameIsDone s p = true) (hdrain : (s.part p).drainReq = false) (hfree : (s.part p).locked = false)
    (hrepairs : ∀ r ∈ (s.part p).repairs, r.step = 4 ∧ r.after + 1200 ≤ s.time) (t : Nat) :
    s.rule p t = s.go p t (loadWaits s p) := by
  have hready : (s.part p).repairs.all (fun r => r.step = 4 && decide (r.after + 1200 ≤ s.time)) = true := by
    simpa using hrepairs
  unfold State.rule
  rw [startRepairs_of_none (fun r hr => by simp [(hrepairs r hr).1])]
  rcases hstate with h | h <;>
    simp only [h, hdone, hready, hdrain, hfree, Bool.not_true, Bool.false_and, Bool.false_eq_true, if_false, loadWaits]
end

/-! ## GO -/

/-- A partition as GO begins: its overruns in a row are over. -/
def beginGo (q : Part) (slack : BitVec 32) : Part :=
  { q with slackLast := if q.running then slack else q.slackLast,
           slackMin := if q.running && slack < q.slackMin then slack else q.slackMin,
           state := .running, consec := 0 }

/-- What follows GO: completions, then admission unless it is closed; the number admitted. -/
def afterGo (s : State) (p t : Nat) (clusters : List Nat) (closed : Bool) : Nat × State :=
  let s1 := (s.completeAll p t).modPart p (fun q => { q with repairs := [], doomed := [], rot := q.rot + 1 })
  let s2 := clusters.foldl (fun s g => s.modCluster g (fun k => if k.state == .drained then { k with state := .assigned } else k)) s1
  if closed then (0, s2) else s2.admitAll p t

theorem go_eq (s : State) (p t : Nat) (closed : Bool) : s.go p t closed =
    let a := afterGo (s.modPart p (fun q => beginGo q (BitVec.ofNat 32 (s.time - (s.part p).doneAt)))) p t (s.part p).clusters closed
    a.2.modPart p (fun q => { q with admitted := BitVec.ofNat 9 a.1, verdict := some (.go (levelOf s [p])) }) := rfl

theorem steady_afterGo (s : State) (p t : Nat) (clusters : List Nat) (closed : Bool) : Steady s (afterGo s p t clusters closed).2 := by
  refine (steady_completeAll s p t).keep ?_
  cases closed <;> simp [afterGo]

/-- GO leaves the partition running, with no overrun in a row. -/
theorem part_go (s : State) (p t : Nat) (closed : Bool) : ((s.go p t closed).part p).state = .running ∧
    ((s.go p t closed).part p).consec = 0 ∧ ((s.go p t closed).part p).verdict = some (.go (levelOf s [p])) := by
  rw [go_eq]
  generalize hbegun : s.modPart p (fun q => beginGo q (BitVec.ofNat 32 (s.time - (s.part p).doneAt))) = s1
  have hpart : s1.part p = beginGo (s.part p) (BitVec.ofNat 32 (s.time - (s.part p).doneAt)) := by rw [← hbegun, State.part_modPart_self]
  have hstate : (s1.part p).state = .running := by rw [hpart]; rfl
  have hconsec : (s1.part p).consec = 0 := by rw [hpart]; rfl
  have hsteady := steady_afterGo s1 p t (s.part p).clusters closed
  dsimp only
  rw [State.part_modPart_self]
  refine ⟨?_, (hsteady.consec p).trans hconsec, rfl⟩
  exact (hsteady.state p (by rw [hstate]; decide)).trans hstate

/-! ## A late frame -/

theorem course_countTick (s : State) (p t : Nat) (closed : Bool) : course (s.countTick p t closed) = course s := by
  unfold State.countTick State.missed
  split <;> simp

/-- An overrun with a failed cluster notes since when the partition is down. -/
def noteFailed (s : State) (p t : Nat) : State :=
  if (s.part p).clusters.any (fun g => (s.cluster g).failed) then s.modPart p (fun q => q.downAt t) else s

theorem part_noteFailed (s : State) (p t : Nat) : ∃ d, (noteFailed s p t).part p = { s.part p with downFrom := d } := by
  unfold noteFailed
  split
  · exact ⟨_, State.part_modPart_self ..⟩
  · exact ⟨_, rfl⟩

/-- One more overrun in a row. -/
def lateAgain (q : Part) : Part := { q with state := .late, consec := q.consec + 1, overruns := satAdd q.overruns 1 }

/-- A first or second overrun in a row makes the partition late, and counts. -/
theorem part_overrun_late {s : State} {p : Nat} (h : (s.part p).consec ≠ 2) (t : Nat) (closed : Bool) :
    ((s.overrun p t closed).part p).state = .late ∧ ((s.overrun p t closed).part p).consec = (s.part p).consec + 1 ∧
    ((s.overrun p t closed).part p).overruns = satAdd (s.part p).overruns 1 := by
  obtain ⟨d, hnoted⟩ := part_noteFailed s p t
  have hover : s.overrun p t closed =
      (((noteFailed s p t).modPart p lateAgain).event 0x0100 p ((s.part p).consec + 1)).countTick p t closed := by
    unfold State.overrun
    dsimp only
    rw [if_neg h]
    rfl
  have hpart : bare ((s.overrun p t closed).part p) = bare (lateAgain { s.part p with downFrom := d }) := by
    rw [hover, bare_part_of_course ((course_countTick ..).trans (course_event ..)), State.part_modPart_self, hnoted]
  obtain ⟨hstate, hconsec, -, hoverruns, -⟩ := ruled_of_bare hpart
  exact ⟨hstate, hconsec, hoverruns⟩

/-! ## A halt -/

/-- A partition whose frames end, its state before its streams halt. -/
def stopped (q : Part) : Part :=
  { q with state := .halted, running := false, verdict := heldOnly q.verdict, doomed := [], resumeAt := none }

theorem halts_stopped (q : Part) : (stopped q).halts = q.halts := rfl

/-- The clusters' frames are cut short, and the partition's commands end. -/
def endWork (s : State) (p : Nat) (st : Status) (t : Nat) : State :=
  ((((s.part p).clusters.foldl (fun s g => s.cutCluster g true) s).endAll p st t (fun _ _ => true)).returnAll p).modPart p (fun q =>
    { q with queues := q.queues.map (fun e => (e.1, e.2.reset)) })

theorem steady_endWork (s : State) (p : Nat) (st : Status) (t : Nat) : Steady s (endWork s p st t) := by
  have hcut : Steady s ((s.part p).clusters.foldl (fun s g => s.cutCluster g true) s) :=
    steady_foldl (fun s g => steady_cutCluster s g true) _ s
  have hend := steady_endAll ((s.part p).clusters.foldl (fun s g => s.cutCluster g true) s) p st t (fun _ _ => true)
  exact (hcut.trans hend).keep (by simp [endWork])

/-- The streams of a stopped partition halt, and write their records. -/
def haltStreams (s : State) (p : Nat) : State :=
  (s.each (streamNos s p) (fun s n => s.haltStream n 2)).each (streamNos s p) State.records

theorem course_haltStreams (s : State) (p : Nat) : course (haltStreams s p) = course s := by
  unfold haltStreams
  rw [course_each (fun s n => course_records s n), course_each (fun s n => course_haltStream s n 2)]

theorem haltPart_eq (s : State) (p : Nat) (st : Status) (t : Nat) : s.haltPart p st t =
    (haltStreams ((endWork s p st t).modPart p stopped) p).modPart p (fun q => { q with halts := q.halts + 1 }) := rfl

/-- A halt is counted, and the partition stays halted. -/
theorem part_haltPart (s : State) (p : Nat) (st : Status) (t : Nat) :
    ((s.haltPart p st t).part p).state = .halted ∧ ((s.haltPart p st t).part p).halts = (s.part p).halts + 1 := by
  have hbare := bare_part_of_course (course_haltStreams ((endWork s p st t).modPart p stopped) p) p
  rw [State.part_modPart_self] at hbare
  obtain ⟨hstate, -, -, -, hhalts⟩ := ruled_of_bare hbare
  rw [haltPart_eq, State.part_modPart_self]
  dsimp only
  exact ⟨hstate, by rw [hhalts, halts_stopped, (steady_endWork s p st t).halts]⟩

/-- The third overrun in a row halts the partition. -/
theorem part_overrun_halt {s : State} {p : Nat} (h : (s.part p).consec = 2) (t : Nat) (closed : Bool) :
    ((s.overrun p t closed).part p).state = .halted ∧ ((s.overrun p t closed).part p).halts = (s.part p).halts + 1 := by
  obtain ⟨d, hnoted⟩ := part_noteFailed s p t
  have hover : s.overrun p t closed =
      ((noteFailed s p t).event 0x0101 p ((s.part p).frame.toNat % 2 ^ 32)).haltPart p .overrun t := by
    unfold State.overrun
    dsimp only
    rw [if_pos h]
    rfl
  obtain ⟨hstate, hhalts⟩ := part_haltPart ((noteFailed s p t).event 0x0101 p ((s.part p).frame.toNat % 2 ^ 32)) p .overrun t
  rw [hover]
  refine ⟨hstate, hhalts.trans ?_⟩
  rw [State.part, State.event_parts, ← State.part, hnoted]

/-- HOLD changes the verdict alone. -/
theorem part_sendHold (s : State) (p : Nat) (level : BitVec 4) :
    let x := s.part p
    let y := (s.sendHold p level).part p
    y.state = x.state ∧ y.consec = x.consec ∧ y.verdict = some (.hold level) ∧ y.overruns = x.overruns ∧ y.halts = x.halts := by
  have hpart : (s.sendHold p level).part p = { s.part p with verdict := some (.hold level) } := State.part_modPart_self ..
  dsimp only
  rw [hpart]
  exact ⟨rfl, rfl, rfl, rfl, rfl⟩

/-! ## The statement -/

/-- Settles O15: beside its records the decision point is the rule for the judged state, by `rule_go` and `rule_overrun`. -/
theorem decisionPoints : Obligations.DecisionPoints := by
  intro s p halive hticking u hstate hup
  have harm : exec (.decisionPoint p) s = execDecisionPoint p s := rfl
  have hexec : exec (.decisionPoint p) s = .next (afterRule (u.rule p ((s.passHeld p).part p).next) p) := by
    rw [harm, execDecisionPoint, ok, State.live_of_alive halive]
    simp only [hticking, if_true]
    rw [decisionPoint_of_up hup]
  obtain ⟨hstate', hconsec', hverdict', hoverruns', hhalts'⟩ :=
    ruled_of_bare (bare_part_afterRule (u.rule p ((s.passHeld p).part p).next) p p)
  refine ⟨fun hdone hdrain hfree hrepairs => ⟨_, hexec, ?_⟩, fun hdone hconsec hrepairs => ⟨_, hexec, ?_⟩,
    fun hdone hconsec hrepairs => ⟨_, hexec, ?_⟩⟩
  · rw [hstate', hconsec', hverdict', rule_go hstate hdone hdrain hfree hrepairs]
    exact part_go ..
  · rw [hstate', hconsec', hverdict', hoverruns', rule_overrun hstate hdone hrepairs]
    obtain ⟨hs, hc, hv, ho, -⟩ := part_sendHold (u.overrun p ((s.passHeld p).part p).next (loadWaits u p)) p (levelOf u [p])
    obtain ⟨hlate, hmore, hcount⟩ := part_overrun_late hconsec ((s.passHeld p).part p).next (loadWaits u p)
    exact ⟨hs.trans hlate, hc.trans hmore, ho.trans hcount, hv⟩
  · rw [hstate', hverdict', hhalts', rule_overrun hstate hdone hrepairs]
    obtain ⟨hs, -, hv, -, hh⟩ := part_sendHold (u.overrun p ((s.passHeld p).part p).next (loadWaits u p)) p (levelOf u [p])
    obtain ⟨hhalted, hcount⟩ := part_overrun_halt hconsec ((s.passHeld p).part p).next (loadWaits u p)
    exact ⟨hs.trans hhalted, hh.trans hcount, hv⟩

end Sys2Proof.Proofs.Frame
end

section
/-! SUPPORT. What a slice of one table holds once it is put into another: copies of memory (07 R221) and loads from flash (17 R487). -/
namespace Sys2Proof.Proofs.Tables
open Sys2Proof Sys2Proof.Machine

variable {α : Type} {lo : Nat} {t : Tbl α}

theorem tget_of_tsorted_of_lt (ht : tsorted lo t = true) {k : Nat} (hk : k < lo) (d : α) : tget d t k = d := by
  induction t generalizing lo with
  | nil => rfl
  | cons e t ih =>
    obtain ⟨i, v⟩ := e
    simp only [tsorted, Bool.and_eq_true, decide_eq_true_eq] at ht
    rw [tget, if_neg (by omega), ih ht.2 (by omega)]

/-- Where the put list has an entry the table holds it, and elsewhere what it held before. -/
theorem tget_tputAll {l : Tbl α} (hl : tsorted lo l = true) (t : Tbl α) (d : α) (k : Nat) :
    tget d (tputAll t l) k = tget (tget d t k) l k := by
  induction l generalizing lo t with
  | nil => rfl
  | cons e l ih =>
    obtain ⟨i, v⟩ := e
    simp only [tsorted, Bool.and_eq_true, decide_eq_true_eq] at hl
    rw [tputAll, ih hl.2, tget_tput, tget]
    by_cases hk : k = i
    · rw [if_pos hk, if_pos hk.symm, tget_of_tsorted_of_lt hl.2 (by omega)]
    · rw [if_neg hk, if_neg (Ne.symm hk)]

theorem tget_tslice (t : Tbl α) (src n dst : Nat) (d : α) (j : Nat) :
    tget d (tslice t src n dst) j = if dst ≤ j ∧ j < dst + n then tget d t (src + (j - dst)) else d := by
  induction t with
  | nil => simp [tslice, tget]
  | cons e t ih =>
    obtain ⟨i, v⟩ := e
    unfold tslice at ih ⊢
    by_cases hi : src ≤ i ∧ i < src + n
    · simp only [List.filter_cons, hi.1, hi.2, decide_true, Bool.and_self, if_true, List.map_cons, tget, ih]
      by_cases hj : i - src + dst = j
      · rw [if_pos hj, if_pos (by omega), if_pos (by omega)]
      · rw [if_neg hj]
        split
        · rw [if_neg (by omega)]
        · rfl
    · have hout : (decide (src ≤ i) && decide (i < src + n)) = false := by simpa using hi
      simp only [List.filter_cons, hout, Bool.false_eq_true, if_false, tget, ih]
      split
      · rw [if_neg (by omega)]
      · rfl

theorem tsorted_tslice (ht : tsorted lo t = true) (src n dst : Nat) : tsorted (lo - src + dst) (tslice t src n dst) = true := by
  induction t generalizing lo with
  | nil => rfl
  | cons e t ih =>
    obtain ⟨i, v⟩ := e
    simp only [tsorted, Bool.and_eq_true, decide_eq_true_eq] at ht
    have hrest := ih ht.2
    unfold tslice at hrest ⊢
    rw [List.filter_cons]
    split
    case isTrue hi =>
      simp only [Bool.and_eq_true, decide_eq_true_eq] at hi
      simp only [List.map_cons, tsorted, Bool.and_eq_true, decide_eq_true_eq]
      refine ⟨by omega, ?_⟩
      rwa [show i - src + dst + 1 = i + 1 - src + dst by omega]
    case isFalse => exact tsorted_mono (by omega) hrest

/-- A slice of `f` put over the cleared keys of `t`. -/
theorem tget_tputAll_tslice {f : Tbl α} (hf : tsorted lo f = true) (t : Tbl α) (src n dst : Nat) (d : α) (j : Nat) :
    tget d (tputAll (tclear t dst n) (tslice f src n dst)) j =
      if dst ≤ j ∧ j < dst + n then tget d f (src + (j - dst)) else tget d t j := by
  rw [tget_tputAll (tsorted_tslice hf src n dst), tget_tslice, tget_tclear]
  split <;> rfl

theorem tsorted_of_wf {m : Mem} (h : Memory.wf m = true) : tsorted 0 m = true := ((twf_iff 0 m).mp h).1

end Sys2Proof.Proofs.Tables
end

section
/-! SUPPORT. The end of a load, CFG_CTL and key records (07 R208, R212, R217; 17 R487, R489), and the statement `LoadCommands`. -/
namespace Sys2Proof.Proofs.Loads
open Sys2Proof Sys2Proof.Machine Sys2Proof.Proofs.Registers Sys2Proof.Proofs.Frame Sys2Proof.Proofs.Tables

/-! ## What the end of a load changes -/

/-- From `s` to `t` only CFG, PWR with the measurement log, and the recorder change. -/
def Reports (s t : State) : Prop := t = { s with cfg := t.cfg, pwr := t.pwr, evr := t.evr }

theorem Reports.trans {s t u : State} (h : Reports s t) (h' : Reports t u) : Reports s u := by
  unfold Reports at *
  rw [h', h]

theorem reports_modCfg (s : State) (f : Cfg → Cfg) : Reports s (s.modCfg f) := rfl

theorem reports_event (s : State) (code source v : Nat) : Reports s (s.event code source v) := by
  rw [Reports, State.event_cfg, State.event_pwr]
  exact event_frame ..

theorem reports_measure (s : State) (kind : Nat) (res : Status) (item : List Byte) (detail : W64) :
    Reports s (s.measure kind res item detail) := by
  unfold State.measure
  dsimp only
  split
  · rfl
  · exact Reports.trans (t := s.modPwr (fun w => _)) rfl (reports_event ..)

theorem reports_endLoad {s : State} {r : LoadReq} (h : r.cmd = none) (st : Status) (reason part : Nat) (serial : W64) (off : Nat) :
    Reports s (s.endLoad r st reason part serial off) := by
  unfold State.endLoad
  dsimp only
  rw [h]
  dsimp only
  split <;> exact ((reports_modCfg ..).trans (reports_measure ..)).trans (reports_event ..)

/-- CFG_STAT tells how the load ended, and nothing else of CFG changes. -/
@[simp] theorem cfg_endLoad (s : State) (r : LoadReq) (st : Status) (reason part : Nat) (serial : W64) (off : Nat) :
    (s.endLoad r st reason part serial off).cfg =
      { s.cfg with status := st, reason := BitVec.ofNat 8 reason, part := BitVec.ofNat 8 part, offset := BitVec.ofNat 32 off } := by
  unfold State.endLoad
  dsimp only
  split <;> split <;> simp [State.modCmd]

/-! ## The queue of loads -/

section
variable {s : State} {r : LoadReq} {rest : List LoadReq}

theorem queueLoad_of_room (h : waitingLoads s < 8) : s.queueLoad r = s.modCfg (fun c => { c with queue := c.queue ++ [r] }) := by
  rw [State.queueLoad, if_pos h]

theorem queueLoad_of_full (h : 8 ≤ waitingLoads s) :
    s.queueLoad r = s.endLoad r .bound 0x10 (headerPart s r) (headerSerial s r) 0 := by
  rw [State.queueLoad, if_neg (Nat.not_lt.mpr h)]

/-- A refused load leaves the queue, the phase of the load under way and the boot range, and CFG_STAT tells of it. -/
theorem cfg_queueLoad_of_full (h : 8 ≤ waitingLoads s) :
    (s.queueLoad r).cfg.queue = s.cfg.queue ∧ (s.queueLoad r).cfg.status = .bound ∧ (s.queueLoad r).cfg.reason = 0x10 ∧
      (s.queueLoad r).cfg.phase = s.cfg.phase ∧ (s.queueLoad r).cfg.bootRange = s.cfg.bootRange := by
  rw [queueLoad_of_full h, cfg_endLoad]
  exact ⟨rfl, rfl, rfl, rfl, rfl⟩

theorem failHead_eq (h : s.cfg.queue = r :: rest) (st : Status) (reason part : Nat) (serial : W64) (off : Nat) :
    s.failHead st reason part serial off =
      (s.modCfg (fun c => { c with queue := rest, phase := .failed })).endLoad r st reason part serial off := by
  rw [State.failHead, h]

theorem cfg_failHead (h : s.cfg.queue = r :: rest) (st : Status) (reason part : Nat) (serial : W64) (off : Nat) :
    (s.failHead st reason part serial off).cfg = { s.cfg with
      queue := rest, phase := .failed, status := st, reason := BitVec.ofNat 8 reason, part := BitVec.ofNat 8 part,
      offset := BitVec.ofNat 32 off } := by
  rw [failHead_eq h, cfg_endLoad]
  rfl

theorem reports_failHead (h : s.cfg.queue = r :: rest) (hcmd : r.cmd = none) (st : Status) (reason part : Nat) (serial : W64) (off : Nat) :
    Reports s (s.failHead st reason part serial off) := by
  rw [failHead_eq h]
  exact (reports_modCfg ..).trans (reports_endLoad hcmd ..)

theorem abortLoad_of_apply (h : s.cfg.queue = r :: rest) (hphase : r.phase = .apply) : s.abortLoad = s := by
  simp [State.abortLoad, h, hphase]

theorem abortLoad_of_full (h : s.cfg.queue = r :: rest) (hphase : r.phase ≠ .apply) (hpart : r.part = none) :
    s.abortLoad = s.failHead .stopped 0x11 (headerPart s r) (headerSerial s r) 0 := by
  simp [State.abortLoad, h, hphase, hpart]

end

/-! ## Loads from module flash -/

/-- The bit-stream's length as module flash has it. -/
def flashLen (s : State) : Nat := Min.min (leNat (s.flRd (bitBase + 8) 8)) (flashSize - bitBase)

/-- The state with that bit-stream at device address `a`. -/
def fromFlash (s : State) (a : Nat) : State :=
  { s with mem := tputAll (tclear s.mem a (flashLen s)) (tslice s.flash bitBase (flashLen s) a) }

theorem flashNow_of_room {s : State} {a : Nat} (h : bootRange s = some a) (hroom : waitingLoads s < 8) :
    s.flashNow = (fromFlash s a).modCfg (fun c => { c with queue := c.queue ++ [{ src := a, len := flashLen s, flash := true }] }) := by
  unfold State.flashNow
  rw [h]
  dsimp only
  rw [if_pos hroom]
  exact queueLoad_of_room (s := fromFlash s a) hroom

theorem flashNow_of_full {s : State} {a : Nat} (h : bootRange s = some a) (hfull : 8 ≤ waitingLoads s) :
    s.flashNow = { (fromFlash s a).queueLoad { src := a, len := flashLen s, flash := true } with mem := s.mem } := by
  unfold State.flashNow
  rw [h]
  dsimp only
  rw [if_neg (Nat.not_lt.mpr hfull)]
  rfl

/-- Of memory only the boot range changes, and it holds the bit-stream. -/
theorem byte_fromFlash {s : State} (h : s.MemOk) (a j : Nat) :
    (fromFlash s a).byte j = if a ≤ j ∧ j < a + flashLen s then tget 0 s.flash (bitBase + (j - a)) else s.byte j :=
  tget_tputAll_tslice (tsorted_of_wf h.2) ..

/-! ## Key records -/

section
variable {s : State} {x : Seal}

/-- The signed part of the key record at CFG_SRC, and its SIGNATURE section. -/
def keyBytes (s : State) : List Byte := s.rd s.cfg.src.toNat 0x70
def keySection (s : State) : List Byte := s.section_ (s.cfg.src.toNat + 0x70)

/-- The record's fields are legal (R208). -/
def keyFields (l : List Byte) : Bool :=
  State.keyRecord.magicIs l && decide (byteAt l 4 ≤ 3) && (byteAt l 5 = 1 || byteAt l 5 = 2) && isZero ((l.drop 6).take 2)
    && isZero ((l.drop 0x68).take 8) && (byteAt l 5 = 1 || isZero ((l.drop 0x28).take 64))

/-- Its signature and chain hold, it does not name its own slot as anchor, and it is for this module. -/
def keySealed (s : State) (x : Seal) : Bool :=
  sealCovers x (keyBytes s) (keySection s) && sealAnchored x s.cfg.keys (byteAt (keySection s) 1) (keySection s)
    && byteAt (keySection s) 1 ≠ byteAt (keyBytes s) 4 + 1 && ((keyBytes s).drop 8).take 32 = moduleDigest s

/-- What the record leaves in its slot. -/
def recordedKey (l : List Byte) : Option (BitVec 512) :=
  if byteAt l 5 = 1 then some (BitVec.ofNat 512 (beNat ((l.drop 0x28).take 64))) else none

/-- The request is taken. -/
def keyTaken (s : State) : State := s.modCfg (fun c => { c with keyReq := false })

/-- The state an accepted record leaves: its slot is kept in flash and in force, and the log and the recorder tell of it. -/
def keyStored (s : State) : State :=
  (((keyTaken s).storeKey (byteAt (keyBytes s) 4) (recordedKey (keyBytes s))).measure 4 .ok (keyBytes s) 0).event 0x0018 0
    (byteAt (keyBytes s) 4)

/-- A key record is refused with one entry of the measurement log, or stored (R208; 17 R489). -/
theorem keyRecord_eq (s : State) (x : Seal) : s.keyRecord x =
    if !s.pwr.idok then (keyTaken s).measure 4 .signature [] 0
    else if !signedAt s s.cfg.src.toNat 0x70 then (keyTaken s).measure 4 .bound [] 0
    else if !keyFields (keyBytes s) then (keyTaken s).measure 4 .bound (keyBytes s) 0
    else if keySealed s x then keyStored s
    else (keyTaken s).measure 4 .signature (keyBytes s) 0 := rfl

theorem keyRecord_of_no_identity (h : s.pwr.idok = false) : s.keyRecord x = (keyTaken s).measure 4 .signature [] 0 := by
  simp [keyRecord_eq, h]

/-- A record that is not sealed only enters the measurement log. -/
theorem keyRecord_of_unsealed (h : keySealed s x = false) : ∃ st l, s.keyRecord x = (keyTaken s).measure 4 st l 0 := by
  rw [keyRecord_eq]
  split
  · exact ⟨_, _, rfl⟩
  · split
    · exact ⟨_, _, rfl⟩
    · split
      · exact ⟨_, _, rfl⟩
      · rw [if_neg (by simp [h])]
        exact ⟨_, _, rfl⟩

theorem keyRecord_of_accepted (hid : s.pwr.idok = true) (hsigned : signedAt s s.cfg.src.toNat 0x70 = true)
    (hfields : keyFields (keyBytes s) = true) (hsealed : keySealed s x = true) : s.keyRecord x = keyStored s := by
  simp [keyRecord_eq, hid, hsigned, hfields, hsealed]

theorem keyFields_of {l : List Byte} (hmagic : l.take 4 = [0x51, 0x46, 0x4B, 0x52]) (hslot : byteAt l 4 ≤ 3)
    (hop : byteAt l 5 = 1 ∨ (byteAt l 5 = 2 ∧ isZero ((l.drop 0x28).take 64) = true)) (hzero : isZero ((l.drop 6).take 2) = true)
    (hzero' : isZero ((l.drop 0x68).take 8) = true) : keyFields l = true := by
  have hmagic' : State.keyRecord.magicIs l = true := by rw [State.keyRecord.magicIs, hmagic]; rfl
  rcases hop with hop | ⟨hop, hempty⟩
  · simp [keyFields, hmagic', hslot, hop, hzero, hzero']
  · simp [keyFields, hmagic', hslot, hop, hempty, hzero, hzero']

theorem keys_keyStored (s : State) :
    (keyStored s).cfg.keys = tset none s.cfg.keys (byteAt (keyBytes s) 4) (recordedKey (keyBytes s)) := by
  simp [keyStored, State.storeKey, keyTaken]

theorem keyStored_frame (s : State) :
    keyStored s = { s with cfg := (keyStored s).cfg, flash := (keyStored s).flash, pwr := (keyStored s).pwr, evr := (keyStored s).evr } := by
  have hreports : Reports ((keyTaken s).storeKey (byteAt (keyBytes s) 4) (recordedKey (keyBytes s))) (keyStored s) :=
    (reports_measure ..).trans (reports_event ..)
  rw [hreports]
  rfl

end

/-! ## The statement -/

section
variable {s : State} (h : s.alive = true)
include h

theorem exec_load : exec .load s = .next s.loadNow := congrArg ok (State.live_of_alive h _)
theorem exec_flash : exec .flash s = .next s.flashNow := congrArg ok (State.live_of_alive h _)
theorem exec_abort : exec .abort s = .next s.abortLoad := congrArg ok (State.live_of_alive h _)
theorem exec_keyreg (x : Seal) : exec (.keyreg x) s = .next (s.keyRecord x) := congrArg ok (State.live_of_alive h _)

end

/-- Settles O27: each command is its one operation on the queue of loads or on the key slots. -/
theorem loadCommands : Obligations.LoadCommands := by
  unfold Obligations.LoadCommands
  refine ⟨fun s halive hroom => ?_, fun s halive hfull => ?_, fun s a halive hmem hboot hroom => ?_, fun s a halive hboot hfull => ?_,
    fun s r rest halive hqueue => ⟨fun hphase hpart hcmd => ?_, fun hphase => ?_⟩, fun s halive => ?_⟩
  · rw [exec_load halive, State.loadNow, queueLoad_of_room hroom]
    rfl
  · refine ⟨_, exec_load halive, ?_⟩
    obtain ⟨hkept, hstatus, hreason, hphase, -⟩ := cfg_queueLoad_of_full hfull
    refine ⟨hkept, hstatus, hreason, hphase, ?_⟩
    rw [State.loadNow, queueLoad_of_full hfull]
    exact reports_endLoad (by rfl) ..
  · refine ⟨_, exec_flash halive, ?_⟩
    rw [flashNow_of_room hboot hroom]
    refine ⟨rfl, rfl, fun i hi => ?_, fun j hj => ?_, rfl⟩
    · have hbyte := byte_fromFlash hmem a (a + i)
      rwa [if_pos ⟨Nat.le_add_right .., Nat.add_lt_add_left hi a⟩, Nat.add_sub_cancel_left] at hbyte
    · have hbyte := byte_fromFlash hmem a j
      rwa [if_neg (by rintro ⟨hlo, hhi⟩; exact hj.elim (Nat.not_lt.mpr hlo) (Nat.not_le.mpr hhi))] at hbyte
  · refine ⟨_, exec_flash halive, ?_⟩
    rw [flashNow_of_full hboot hfull]
    obtain ⟨hkept, hstatus, hreason, -, hrange⟩ := cfg_queueLoad_of_full (s := fromFlash s a) hfull
    exact ⟨hkept, hstatus, hreason, rfl, hrange⟩
  · refine ⟨_, exec_abort halive, ?_⟩
    rw [abortLoad_of_full hqueue hphase hpart]
    have hcfg := cfg_failHead hqueue .stopped 0x11
    exact ⟨congrArg Cfg.queue (hcfg ..), congrArg Cfg.phase (hcfg ..), congrArg Cfg.status (hcfg ..), congrArg Cfg.reason (hcfg ..),
      reports_failHead hqueue hcmd ..⟩
  · rw [exec_abort halive, abortLoad_of_apply hqueue hphase]
  · refine ⟨fun x hid => ?_, fun x hunsealed => ?_, fun x hsigned hmagic hslot hop hzero hzero' hcovers hanchored hself hid hmodule => ?_⟩
    · rw [exec_keyreg halive, keyRecord_of_no_identity hid]
      rfl
    · have hsealed : keySealed s x = false := by
        rcases hunsealed with h | h
        · simp [keySealed, keyBytes, keySection, h]
        · simp [keySealed, keyBytes, keySection, h]
      obtain ⟨st, l, heq⟩ := keyRecord_of_unsealed hsealed
      refine ⟨_, exec_keyreg halive x, ?_⟩
      rw [heq]
      simp [keyTaken]
    · have hfields : keyFields (keyBytes s) = true := keyFields_of hmagic hslot hop hzero hzero'
      have hsealed : keySealed s x = true := by
        simp only [keySealed, keyBytes, keySection, hcovers, hanchored, hself, hmodule, ne_eq, not_false_eq_true, decide_true,
          Bool.and_self]
      refine ⟨_, exec_keyreg halive x, ?_⟩
      rw [keyRecord_of_accepted hid hsigned hfields hsealed]
      exact ⟨by rw [keys_keyStored]; exact tget_tset_self .., fun k hk => by rw [keys_keyStored]; exact (tget_tset ..).trans (if_neg hk),
        keyStored_frame s⟩

end Sys2Proof.Proofs.Loads
end

section
/-! SUPPORT. Partitions and clusters read through the updates that do not touch them. -/
namespace Sys2Proof.Proofs.Reads
open Sys2Proof Sys2Proof.Machine

section
variable (s : State) (k p : Nat)

@[simp] theorem part_modCluster (f : Cluster → Cluster) : (s.modCluster k f).part p = s.part p := rfl
@[simp] theorem part_modCfg (f : Cfg → Cfg) : (s.modCfg f).part p = s.part p := rfl
@[simp] theorem part_event (c x v : Nat) : (s.event c x v).part p = s.part p := by simp [State.part]
@[simp] theorem part_charge (n : Nat) : (s.charge n).part p = s.part p := by simp [State.part]
@[simp] theorem cluster_modPart (f : Part → Part) : (s.modPart k f).cluster p = s.cluster p := rfl
@[simp] theorem cluster_modCfg (f : Cfg → Cfg) : (s.modCfg f).cluster p = s.cluster p := rfl
@[simp] theorem cluster_event (c x v : Nat) : (s.event c x v).cluster p = s.cluster p := by simp [State.cluster]
@[simp] theorem cluster_charge (n : Nat) : (s.charge n).cluster p = s.cluster p := by simp [State.cluster]

end

end Sys2Proof.Proofs.Reads
end

section
/-! SUPPORT. Requests for a repair and failed clusters (07 R219, R220, R225; 16 R448). -/
namespace Sys2Proof.Proofs.Repairs
open Sys2Proof Sys2Proof.Machine Sys2Proof.Proofs.Registers Sys2Proof.Proofs.Frame Sys2Proof.Proofs.Tables Sys2Proof.Proofs.Reads

/-- CFG_RPRCTL names a cluster and a spare. -/
def named (s : State) (cluster spare : BitVec 10) : State := s.modCfg (fun c => { c with rprClus := cluster, rprSpare := spare })

section
variable {s : State} (h : s.alive = true)
include h

theorem exec_repairStart (cluster spare : BitVec 10) : exec (.repairStart cluster spare) s = .next (named s cluster spare).repairNow :=
  congrArg ok (State.live_of_alive h _)

theorem exec_clusterFailure {g : Nat} (hg : g < 640) : exec (.clusterFailure g) s = .next (s.failCluster g) :=
  (congrArg ok (State.live_of_alive h _)).trans (congrArg ok (if_pos hg))

end

theorem alive_of_fwRuns {s : State} (h : s.fwRuns = true) : s.alive = true := by
  simp only [State.fwRuns, Bool.and_eq_true] at h
  exact h.1.1.1.1

theorem exec_repairCopy {s : State} {p : Nat} (h : s.fwRuns = true) (hdef : (s.part p).defined = true) (lost : List Nat) (counts : Bool) :
    exec (.repairCopy p lost counts) s = .next (s.repairCopy p lost counts) := by
  have harm : exec (.repairCopy p lost counts) s = execRepairCopy p lost counts s := rfl
  rw [harm, execRepairCopy, State.live_of_alive (alive_of_fwRuns h), h, hdef]
  rfl

/-! ## Requests -/

/-- A charge changes the availability counts, and the recorder tells of a condition that has come to fail. -/
theorem charge_frame (s : State) (n : Nat) : s.charge n = { s with aud := (s.charge n).aud, evr := (s.charge n).evr } := by
  unfold State.charge
  dsimp only
  split
  · rfl
  · rw [event_frame]
    rfl

/-- Partition `p` has asked for the repair of cluster `g`, for which spare `x` is reserved (R219, R220). -/
def repairAsked (s : State) (g p x : Nat) (failed : Bool) : State :=
  ((s.modCluster x (fun k => { k with state := .loading, part := BitVec.ofNat 6 p })).modPart p (fun q =>
    { q with repairs := q.repairs.filter (fun r => r.old ≠ g) ++ [{ old := g, spare := some x, failed := failed }] })).modCfg (fun c =>
      { c with queue := if headRuns s then headBegun c.queue else c.queue, rprPhase := .waitTick, rprStatus := .ok, rprLost := false,
               rprFailed := failed, rprOld := BitVec.ofNat 10 g, rprNew := BitVec.ofNat 10 x, rprLines := 0 })

/-- A cluster with no repair under way gets the spare that is chosen for it. -/
theorem requestRepair_of_spare {s : State} {g p x : Nat} (hpart : partOfCluster s g = some p) (hdef : (s.part p).defined = true)
    (hup : (s.part p).state ≠ .down) (hmem : g ∈ (s.part p).clusters) (hnone : ∀ r ∈ (s.part p).repairs, r.old ≠ g)
    (hspare : chooseSpare s g (s.cluster g).widths = some x) (failed : Bool) :
    s.requestRepair g failed = (repairAsked s g p x failed).charge 0 := by
  have hfind : (s.part p).repairs.find? (fun r => r.old = g) = none := by
    simpa [List.find?_eq_none] using hnone
  have hgo : (!(s.part p).defined || (s.part p).state == .down || !(s.part p).clusters.contains g
      || (s.part p).repairs.any (fun r => r.old = g && (r.failed || !failed))) = false := by
    simp only [hdef, List.contains_iff_mem.mpr hmem, Bool.or_eq_false_iff, Bool.not_true, beq_eq_false_iff_ne, ne_eq, hup, not_false_eq_true,
      true_and, List.any_eq_false, Bool.and_eq_true, decide_eq_true_eq, not_and]
    exact fun r hr hold => absurd hold (hnone r hr)
  unfold State.requestRepair
  rw [hpart]
  dsimp only
  rw [if_neg (Bool.eq_false_iff.mp hgo), hfind]
  dsimp only [Option.bind_none]
  rw [hspare]
  rfl

theorem repairs_repairAsked {s : State} {g p : Nat} (hnone : ∀ r ∈ (s.part p).repairs, r.old ≠ g) (x : Nat) (failed : Bool) :
    ((repairAsked s g p x failed).part p).repairs = (s.part p).repairs ++ [{ old := g, spare := some x, failed := failed }] := by
  have hkept : (s.part p).repairs.filter (fun r => r.old ≠ g) = (s.part p).repairs := by
    simpa [List.filter_eq_self] using hnone
  rw [repairAsked, part_modCfg, State.part_modPart_self]
  exact congrArg (· ++ _) hkept

theorem cluster_repairAsked (s : State) (g p x : Nat) (failed : Bool) (k : Nat) : (repairAsked s g p x failed).cluster k =
    if k = x then { s.cluster x with state := .loading, part := BitVec.ofNat 6 p } else s.cluster k := by
  rw [repairAsked, cluster_modCfg, cluster_modPart, State.cluster_modCluster]

/-! ## Clusters of no partition -/

/-- A spare that is chosen is free. -/
theorem spareFree_of_chooseSpare {s : State} {g x : Nat} {w : List (BitVec 16)} (h : chooseSpare s g w = some x) : spareFree s x = true := by
  have hok : spareOk s g w x = true := by
    unfold chooseSpare at h
    split at h
    · next hnamed => exact Option.some.inj h ▸ hnamed
    · exact List.find?_some h
  simp only [spareOk, Bool.and_eq_true] at hok
  exact hok.1.1

theorem ne_of_chooseSpare {s : State} {g x k : Nat} {w : List (BitVec 16)} (h : chooseSpare s g w = some x)
    (hspare : (s.cluster k).state ≠ .spare) (hfree : (s.cluster k).state ≠ .unassigned) : x ≠ k := by
  rintro rfl
  have hx := spareFree_of_chooseSpare h
  simp [spareFree, hspare, hfree] at hx

/-- A cluster taken out of use stays so while repairs that had reserved it take other spares, and memory is left alone. -/
theorem spareGone_keeps (s : State) (g : Nat) {st : ClState} (hspare : st ≠ .spare) (hfree : st ≠ .unassigned) :
    ((s.spareGone g st).cluster g).state = st ∧ (s.spareGone g st).mem = s.mem := by
  unfold State.spareGone State.each
  refine List.foldlRecOn (motive := fun (t : State) => (t.cluster g).state = st ∧ t.mem = s.mem) _ _ ⟨?_, rfl⟩ ?_
  · rw [State.cluster_modCluster_self]
  · rintro t ⟨hstate, hmem⟩ p -
    dsimp only
    split
    · exact ⟨hstate, hmem⟩
    · next r _ =>
      cases hsp : chooseSpare t r.old (t.cluster r.old).widths with
      | none => exact ⟨hstate, hmem⟩
      | some x =>
        have hne : g ≠ x := (ne_of_chooseSpare hsp (hstate ▸ hspare) (hstate ▸ hfree)).symm
        refine ⟨?_, hmem⟩
        rw [cluster_modCfg, cluster_modPart, State.cluster_modCluster, if_neg hne, hstate]

section
variable (s : State) (l : List RepEntry)

@[simp] theorem clusters_repairAdd : (s.repairAdd l).clusters = s.clusters := by
  simp only [State.repairAdd, apply_ite State.clusters, State.rewriteRepair, State.event_clusters, State.measure_clusters]
  exact ite_self _

@[simp] theorem mem_repairAdd : (s.repairAdd l).mem = s.mem := by
  simp only [State.repairAdd, apply_ite State.mem, State.rewriteRepair, State.event_mem, State.measure_mem]
  exact ite_self _

theorem rewriteRepair_repRec : (s.rewriteRepair l).cfg.repRec = l := by simp [State.rewriteRepair]

/-- An added entry is in the record afterwards. -/
theorem mem_repRec_repairAdd {e : RepEntry} (h : e ∈ l) : e ∈ (s.repairAdd l).cfg.repRec := by
  unfold State.repairAdd
  dsimp only
  by_cases hold : e ∈ s.cfg.repRec
  · split
    · exact hold
    · exact rewriteRepair_repRec s _ ▸ List.mem_append_left _ hold
  · have hnew : e ∈ (l.filter (fun e => !s.cfg.repRec.contains e)).eraseDups := by
      simpa [List.mem_eraseDups, hold] using h
    rw [if_neg (by simpa using List.ne_nil_of_mem hnew)]
    exact rewriteRepair_repRec s _ ▸ List.mem_append_right _ hnew

end

end Sys2Proof.Proofs.Repairs
end

section
/-! SUPPORT. Step 2 of a repair (07 R221): the spare takes the shelf, the core stores and the place of the cluster. The statement `Repairs`. -/
namespace Sys2Proof.Proofs.Repairs
open Sys2Proof Sys2Proof.Machine Sys2Proof.Proofs.Registers Sys2Proof.Proofs.Frame Sys2Proof.Proofs.Tables Sys2Proof.Proofs.Reads

/-! ## The copy -/

/-- One byte after a copy. -/
theorem byte_copyMem {s : State} (h : s.MemOk) (src dst n j : Nat) :
    (s.copyMem src dst n).byte j = if dst ≤ j ∧ j < dst + n then s.byte (src + (j - dst)) else s.byte j :=
  tget_tputAll_tslice (tsorted_of_wf h.1) ..

/-- The span of the copied bytes moves. -/
theorem byte_copyMem_inside {s : State} (h : s.MemOk) (src dst : Nat) {n i : Nat} (hi : i < n) :
    (s.copyMem src dst n).byte (dst + i) = s.byte (src + i) := by
  rw [byte_copyMem h, if_pos (by omega), Nat.add_sub_cancel_left]

theorem byte_copyMem_outside {s : State} (h : s.MemOk) (src : Nat) {dst n j : Nat} (hj : j < dst ∨ dst + n ≤ j) :
    (s.copyMem src dst n).byte j = s.byte j := by
  rw [byte_copyMem h, if_neg (by omega)]

section
variable {s : State} (h : s.MemOk) {g x : Nat}
include h

theorem byte_copyCluster_shelf (hx : x < 640) {i : Nat} (hi : i < 0x400000) :
    (s.copyCluster g x).byte (shelfOf x + i) = s.byte (shelfOf g + i) := by
  rw [State.copyCluster, byte_copyMem_outside (State.memOk_copyMem _ _ _ h), byte_copyMem_inside h _ _ hi]
  simp only [shelfOf, shelfBase, coreBase, storeBase]
  omega

theorem byte_copyCluster_stores (hg : g < 640) (hx : x < 640) {i : Nat} (hi : i < 0x200000) :
    (s.copyCluster g x).byte (coreBase (16 * x) + i) = s.byte (coreBase (16 * g) + i) := by
  rw [State.copyCluster, byte_copyMem_inside (State.memOk_copyMem _ _ _ h) _ _ hi, byte_copyMem_outside h]
  simp only [shelfOf, shelfBase, coreBase, storeBase]
  omega

theorem byte_copyCluster_other {a : Nat} (hshelf : a < shelfOf x ∨ shelfOf x + 0x400000 ≤ a)
    (hstores : a < coreBase (16 * x) ∨ coreBase (16 * x) + 0x200000 ≤ a) : (s.copyCluster g x).byte a = s.byte a := by
  rw [State.copyCluster, byte_copyMem_outside (State.memOk_copyMem _ _ _ h) _ hstores, byte_copyMem_outside h _ hshelf]

end

/-! ## The cluster that is loaded -/

/-- What a load or a repair of a cluster leaves alone when it clears nothing: memory, CFG and the partitions. -/
def besideClusters (s : State) : Mem × Cfg × Tbl Part := (s.mem, s.cfg, s.parts)

theorem besideClusters_sampleGroups (s : State) : besideClusters s.sampleGroups = besideClusters s :=
  keeps_foldl besideClusters (fun s g => by rw [sampleGroup_frame]; rfl) _ s

/-- The events of narrow arrays and the seeds of the generators leave the clusters' own records alone. -/
theorem clusters_loadCluster (s : State) (g p : Nat) (w : List (BitVec 16)) (st : ClState) (clear : Bool) :
    (s.loadCluster g p w st clear).clusters = (s.modCluster g (fun _ => { state := st, part := BitVec.ofNat 6 p, widths := w })).clusters := by
  unfold State.loadCluster
  dsimp only
  refine (keeps_foldl State.clusters (fun s a => State.event_clusters ..) _ _).trans ?_
  refine (keeps_foldl State.clusters (fun s i => State.modCore_clusters ..) _ _).trans ?_
  split <;> rfl

theorem besideClusters_loadCluster (s : State) (g p : Nat) (w : List (BitVec 16)) (st : ClState) :
    besideClusters (s.loadCluster g p w st false) = besideClusters s := by
  unfold State.loadCluster
  dsimp only
  refine (keeps_foldl besideClusters (fun s a => by simp [besideClusters]) _ _).trans ?_
  exact (keeps_foldl besideClusters (fun s i => by simp [besideClusters]) _ _).trans rfl

theorem fields_of_besideClusters {s t : State} (h : besideClusters t = besideClusters s) : t.mem = s.mem ∧ t.cfg = s.cfg ∧ t.parts = s.parts := by
  simpa [besideClusters] using h

theorem part_sampleGroups (s : State) (p : Nat) : s.sampleGroups.part p = s.part p := by
  rw [State.part, (fields_of_besideClusters (besideClusters_sampleGroups s)).2.2, State.part]

theorem part_loadCluster (s : State) (g p : Nat) (w : List (BitVec 16)) (st : ClState) (k : Nat) :
    (s.loadCluster g p w st false).part k = s.part k := by
  rw [State.part, (fields_of_besideClusters (besideClusters_loadCluster s g p w st)).2.2, State.part]

/-! ## The place of the cluster -/

section
variable (s : State) (p g x : Nat)

theorem mem_swapCluster : (s.swapCluster p g x false).mem = s.mem := by
  unfold State.swapCluster
  simp only [Bool.false_eq_true, if_false, State.modCluster_mem, (fields_of_besideClusters (besideClusters_loadCluster ..)).1,
    State.modPart_mem, State.dropRoutes, State.modCfg_mem, (fields_of_besideClusters (besideClusters_sampleGroups s)).1]

theorem cluster_swapCluster (h : x ≠ g) : ((s.swapCluster p g x false).cluster x).state = .assigned := by
  have hload (t : State) (w : List (BitVec 16)) : ((t.loadCluster x p w .assigned false).cluster x).state = .assigned := by
    rw [State.cluster, clusters_loadCluster, State.modCluster_clusters, tget_tmod_self]
  unfold State.swapCluster
  simp only [Bool.false_eq_true, if_false, State.cluster_modCluster, if_neg h, hload]

theorem part_swapCluster : ((s.swapCluster p g x false).part p).clusters = (s.part p).clusters.set ((s.part p).clusters.idxOf g) x := by
  unfold State.swapCluster
  simp only [Bool.false_eq_true, if_false, part_modCluster, part_loadCluster, State.part_modPart_self, State.dropRoutes, part_modCfg,
    part_sampleGroups]

end

/-! ## The repair -/

section
variable (s : State) (p x : Nat) (counts : Bool) {r : Repair} (h : r.failed = false)

theorem cfg_repairWith_nil : let c := (s.repairWith p x [] counts r).cfg
    c.rprPhase = .done ∧ c.rprStatus = .ok ∧ c.rprLost = false ∧ c.rprNew = BitVec.ofNat 10 x := by
  simp [State.repairWith]

include h

theorem mem_repairWith_nil : (s.repairWith p x [] counts r).mem = (s.copyCluster r.old x).mem := by
  simp [State.repairWith, mem_swapCluster, h]

theorem part_repairWith_nil : ((s.repairWith p x [] counts r).part p).clusters =
    (s.part p).clusters.set ((s.part p).clusters.idxOf r.old) x := by
  have hcopy : (s.copyCluster r.old x).part p = s.part p := rfl
  simp [State.repairWith, part_swapCluster, h, hcopy]

theorem cluster_repairWith_nil (hne : x ≠ r.old) : ((s.repairWith p x [] counts r).cluster x).state = .assigned := by
  simp [State.repairWith, h, cluster_swapCluster _ _ _ _ hne]

end

theorem repairCopy_of_ready {s : State} {p x : Nat} {r : Repair} (hready : (s.part p).repairs.find? (repairReady s) = some r)
    (hspare : r.spare = some x) (counts : Bool) : s.repairCopy p [] counts = s.repairWith p x [] counts r := by
  unfold State.repairCopy
  rw [hready]
  dsimp only
  rw [hspare]
  rfl

/-! ## The statement -/

/-- Settles O29: a request is `repairAsked`, a failed cluster of no partition is out of use and in the record, and step 2 copies the
cluster and puts the spare in its place. -/
theorem repairs : Obligations.Repairs := by
  unfold Obligations.Repairs
  refine ⟨⟨fun s cluster spare p x halive => ?_, fun s g halive hg => ?_⟩, fun s p x counts r hruns hmem hdef hready hspare hok hne hx hold => ?_⟩
  · refine ⟨fun hdown => ?_, fun hrun hpart hdef hup hin hnone hchosen => ?_⟩
    · rw [exec_repairStart halive, State.repairNow, State.askRepair, if_pos (by exact hdown)]
      rfl
    · have hnow : (named s cluster spare).repairNow =
          (repairAsked (named s cluster spare) cluster.toNat p x (s.cluster cluster.toNat).failed).charge 0 := by
        rw [State.repairNow, State.askRepair, if_neg (by simp [named, hrun])]
        exact requestRepair_of_spare (s := named s cluster spare) hpart hdef hup hin hnone hchosen _
      refine ⟨_, exec_repairStart halive .., ?_⟩
      rw [hnow, part_charge, State.charge_cfg]
      refine ⟨repairs_repairAsked (s := named s cluster spare) hnone x _, ?_, ?_, fun k hk => ?_, rfl, rfl, ?_⟩
      · rw [cluster_charge, cluster_repairAsked, if_pos rfl]
      · rw [cluster_charge, cluster_repairAsked, if_pos rfl]
      · rw [cluster_charge, cluster_repairAsked, if_neg hk]
        rfl
      · rw [charge_frame]
        rfl
  · refine ⟨fun hin hauto => ?_, fun hout => ?_⟩
    · rw [exec_clusterFailure halive hg, State.failCluster, if_pos hin]
      simp [hauto]
    · have hgone := spareGone_keeps s g (st := .failed) (by decide) (by decide)
      refine ⟨_, exec_clusterFailure halive hg, ?_⟩
      rw [State.failCluster, if_neg (by simp [hout])]
      refine ⟨?_, ?_, ?_⟩
      · rw [cluster_charge, State.cluster, clusters_repairAdd]
        exact hgone.1
      · rw [State.charge_cfg]
        exact mem_repRec_repairAdd _ _ List.mem_cons_self
      · rw [State.charge_mem, mem_repairAdd, hgone.2]
  · refine ⟨_, exec_repairCopy hruns hdef [] counts, ?_⟩
    rw [repairCopy_of_ready hready hspare]
    have hbyte (a : Nat) : (s.repairWith p x [] counts r).byte a = (s.copyCluster r.old x).byte a := by
      rw [State.byte, mem_repairWith_nil s p x counts hok, State.byte]
    simp only [hbyte]
    exact ⟨fun i hi => byte_copyCluster_shelf hmem hx hi, fun i hi => byte_copyCluster_stores hmem hold hx hi,
      fun a hshelf hstores => byte_copyCluster_other hmem hshelf hstores, part_repairWith_nil s p x counts hok,
      cluster_repairWith_nil s p x counts hok hne, cfg_repairWith_nil s p x counts⟩

end Sys2Proof.Proofs.Repairs
end

section
/-! SUPPORT. The settings of the module, and the operations of a load that leave them alone (07 R211 to R218). -/
namespace Sys2Proof.Proofs.Settings
open Sys2Proof Sys2Proof.Machine Sys2Proof.Proofs.Frame

/-- CFG, PWR, and FRM but for its lock groups. -/
def settings (s : State) : Cfg × Pwr × Machine.Frm := (s.cfg, s.pwr, { s.frm with groups := [] })

section
variable {s t : State} (h : settings t = settings s)
include h

theorem cfg_of_settings : t.cfg = s.cfg := congrArg Prod.fst h
theorem pwr_of_settings : t.pwr = s.pwr := congrArg (·.2.1) h
theorem period_of_settings : t.frm.period = s.frm.period := congrArg (·.2.2.period) h
theorem epoch_of_settings : t.frm.epoch = s.frm.epoch := congrArg (·.2.2.epoch) h

end

section
variable (s : State)

@[simp] theorem settings_ite {c : Prop} [Decidable c] (s t : State) : settings (if c then s else t) = if c then settings s else settings t :=
  apply_ite settings c s t

@[simp] theorem settings_foldl {α : Type} {f : State → α → State} (h : ∀ s x, settings (f s x) = settings s) (l : List α) :
    settings (l.foldl f s) = settings s := keeps_foldl settings h l s

@[simp] theorem settings_each {f : State → Nat → State} (h : ∀ s n, settings (f s n) = settings s) (l : List Nat) :
    settings (s.each l f) = settings s := keeps_foldl settings h l s

/-! ## Plain updates -/

@[simp] theorem settings_modPart (p : Nat) (f : Part → Part) : settings (s.modPart p f) = settings s := (rfl)
@[simp] theorem settings_modCluster (g : Nat) (f : Cluster → Cluster) : settings (s.modCluster g f) = settings s := (rfl)
@[simp] theorem settings_modCore (c : Nat) (f : Core → Core) : settings (s.modCore c f) = settings s := (rfl)
@[simp] theorem settings_modStream (n : Nat) (f : Stream → Stream) : settings (s.modStream n f) = settings s := (rfl)
@[simp] theorem settings_modGroup (g : Nat) (f : LockGroup → LockGroup) : settings (s.modGroup g f) = settings s := (rfl)
@[simp] theorem settings_modMig (d : Nat) (f : Mig → Mig) : settings (s.modMig d f) = settings s := (rfl)
@[simp] theorem settings_modChan (c : Nat) (f : Chan → Chan) : settings (s.modChan c f) = settings s := (rfl)
@[simp] theorem settings_modStm (f : Stm → Stm) : settings (s.modStm f) = settings s := (rfl)
@[simp] theorem settings_modHlk (f : Hlk → Hlk) : settings (s.modHlk f) = settings s := (rfl)
@[simp] theorem settings_modAud (f : Aud → Aud) : settings (s.modAud f) = settings s := (rfl)
@[simp] theorem settings_wr (a : Nat) (l : List Byte) : settings (s.wr a l) = settings s := (rfl)
@[simp] theorem settings_zero (a n : Nat) : settings (s.zero a n) = settings s := (rfl)
@[simp] theorem settings_event (code source v : Nat) : settings (s.event code source v) = settings s := by simp [settings]
@[simp] theorem settings_charge (n : Nat) : settings (s.charge n) = settings s := by simp [settings]

/-! ## Streams (09) -/

@[simp] theorem settings_tblWr (a : Nat) (l : List Byte) : settings (s.tblWr a l) = settings s := by simp [State.tblWr, State.noLocation]
@[simp] theorem settings_writeBack (n : Nat) : settings (s.writeBack n) = settings s := by simp [State.writeBack]

@[simp] theorem settings_setRange (n : Nat) : settings (s.setRange n) = settings s := by
  unfold State.setRange
  split <;> simp

@[simp] theorem settings_dropEntry : settings s.dropEntry = settings s := by
  unfold State.dropEntry
  split <;> simp

@[simp] theorem settings_useEntry (n : Nat) : settings (s.useEntry n) = settings s := by
  simp [State.useEntry, State.trimCache, State.touchStream]
@[simp] theorem settings_raiseIrq (n : Nat) : settings (s.raiseIrq n) = settings s := by simp [State.raiseIrq]
@[simp] theorem settings_haltStream (n cause : Nat) : settings (s.haltStream n cause) = settings s := by
  simp [State.haltStream, State.irqCause]
@[simp] theorem settings_rerange : settings s.rerange = settings s := by simp [State.rerange]

@[simp] theorem settings_releaseChannel (n : Nat) (c : Cmd) : settings (s.releaseChannel n c) = settings s := by
  unfold State.releaseChannel
  split
  · simp
  · rfl

/-! ## Pages (08) -/

@[simp] theorem settings_writeLeaf (p g : Nat) (l : Leaf) : settings (s.writeLeaf p g l) = settings s := by
  unfold State.writeLeaf
  split <;> simp [State.wrN]

@[simp] theorem settings_unpinPage (p : Nat) (e : Nat × Bool) : settings (s.unpinPage p e) = settings s := by
  unfold State.unpinPage
  split <;> simp

@[simp] theorem settings_freeS (f : Nat) : settings (s.freeS f) = settings s := (rfl)
@[simp] theorem settings_holdS (f v : Nat) : settings (s.holdS f v) = settings s := (rfl)
@[simp] theorem settings_holdB (b v : Nat) : settings (s.holdB b v) = settings s := (rfl)
@[simp] theorem settings_cancelCopies (p : Nat) : settings (s.cancelCopies p) = settings s := by simp [State.cancelCopies]

@[simp] theorem settings_adopt (p : Nat) : settings (s.adopt p) = settings s := by
  unfold State.adopt
  simp
  rfl

/-! ## Partitions and clusters (06, 07) -/

@[simp] theorem settings_sampleGroups : settings s.sampleGroups = settings s := by simp [State.sampleGroups, State.sampleGroup]
@[simp] theorem settings_releaseHoldings (n p : Nat) (c : Cmd) : settings (s.releaseHoldings n p c) = settings s := by
  simp [State.releaseHoldings]
@[simp] theorem settings_returnAll (p : Nat) : settings (s.returnAll p) = settings s := by simp [State.returnAll, State.modCmd]

@[simp] theorem settings_dropRepairs (p : Nat) : settings (s.dropRepairs p) = settings s := by
  refine settings_foldl s (fun s r => ?_) _
  split <;> simp

@[simp] theorem settings_clearPart (p : Nat) : settings (s.clearPart p) = settings s := by simp [State.clearPart, State.unassign]
@[simp] theorem settings_nameSpares (l : List Nat) : settings (s.nameSpares l) = settings s := by simp [State.nameSpares]
@[simp] theorem settings_removePart (p : Nat) : settings (s.removePart p) = settings s := (rfl)
@[simp] theorem settings_regroup (full : Bool) : settings (s.regroup full) = settings s := by simp [State.regroup]
@[simp] theorem settings_ledgerInit (p : Nat) : settings (s.ledgerInit p) = settings s := (rfl)
@[simp] theorem settings_loadCluster (g p : Nat) (w : List (BitVec 16)) (st : ClState) (clear : Bool) :
    settings (s.loadCluster g p w st clear) = settings s := by simp [State.loadCluster]
@[simp] theorem settings_firstTick (p old : Nat) : settings (s.firstTick p old) = settings s := by simp [State.firstTick]

@[simp] theorem settings_startPart (p : Nat) (serial : W64) (first : Option Nat) : settings (s.startPart p serial first) = settings s := by
  unfold State.startPart
  cases first <;> simp

end

end Sys2Proof.Proofs.Settings
end

section
/-! SUPPORT. What APPLY puts in force (07 R211 to R215, R221): the settings, the routes that are left, and the place of a deleted partition. -/
namespace Sys2Proof.Proofs.Loads
open Sys2Proof Sys2Proof.Machine Sys2Proof.Proofs.Frame Sys2Proof.Proofs.Reads Sys2Proof.Proofs.Settings

/-! ## Routes that give way to spares -/

/-- From `c` to `c'` some common routes are gone, none where no column and no cluster is bad. -/
def Thinned (c c' : Cfg) : Prop :=
  ∃ l, c' = { c with routes := l } ∧ l ⊆ c.routes ∧ (c.repRec = [] → c.badCols = [] → l = c.routes)

theorem Thinned.refl (c : Cfg) : Thinned c c := ⟨c.routes, rfl, fun _ h => h, fun _ _ => rfl⟩

theorem Thinned.trans {a b c : Cfg} (h : Thinned a b) (h' : Thinned b c) : Thinned a c := by
  obtain ⟨l, rfl, hl, heq⟩ := h
  obtain ⟨l', rfl, hl', heq'⟩ := h'
  exact ⟨l', rfl, fun _ hr => hl (hl' hr), fun hrec hcols => (heq' hrec hcols).trans (heq hrec hcols)⟩

theorem thinned_foldl {α : Type} {f : State → α → State} (h : ∀ s x, Thinned s.cfg (f s x).cfg) (l : List α) (s : State) :
    Thinned s.cfg (l.foldl f s).cfg := by
  induction l generalizing s with
  | nil => exact .refl _
  | cons x l ih => exact (h s x).trans (ih _)

theorem misfit_of_no_faults {s : State} (hrec : s.cfg.repRec = []) (hcols : s.cfg.badCols = []) (g : Nat) (w : List (BitVec 16)) :
    misfit s g w = false := by
  simp [misfit, badCol, hrec, hcols]

theorem thinned_loadPosition (s : State) (p j : Nat) : Thinned s.cfg (s.loadPosition p j).cfg := by
  unfold State.loadPosition
  dsimp only
  split
  case isTrue => exact cfg_of_settings (settings_loadCluster s ..) ▸ .refl _
  case isFalse hmisfit =>
    split
    case h_1 => exact .refl _
    case h_2 =>
      rw [cfg_of_settings (settings_loadCluster ..), State.event_cfg]
      refine ⟨_, rfl, fun r hr => (List.mem_filter.mp hr).1, fun hrec hcols => ?_⟩
      exact absurd (by simp [misfit_of_no_faults hrec hcols]) hmisfit

/-! ## The stages of APPLY -/

section
variable (s : State) (i : Image)

/-- The partitions the load defines. -/
def placedParts : List (Nat × Part) := if i.delete then [] else i.parts
/-- The partitions that give way. -/
def goneParts : List Nat := if i.isPartial then [i.part] else s.partList

/-- The old configuration has given way, and what a full load sets for the module stands. -/
def cleared : State :=
  let s1 := s.each (goneParts s i) State.clearPart
  (if i.isPartial then s1
   else ((s1.each (s1.clusters.map (·.1)) State.unassign).modCfg (fun c =>
     { c with spares := i.spares, auto := i.auto, parlim := i.parlim, xmod := BitVec.ofNat 16 i.xmod, routes := i.routes })).nameSpares
       i.spares).modCfg (fun c => { c with ranges := rangesAfter s i })

/-- The partitions that are not loaded anew are gone. -/
def emptied : State := (cleared s i).each ((goneParts s i).filter (fun p => !(placedParts i).any (fun e => e.1 = p))) State.removePart

/-- The places of the loaded ones are filled, and their page tables adopted. -/
def filled : State :=
  (placedParts i).foldl (fun s e => s.adopt e.1)
    ((placedParts i).foldl (fun t e => t.modPart e.1 (fun q => freshPart q e.2 (!i.isPartial) (emptied s i).frm.period.toNat)) (emptied s i))

/-- Their clusters are loaded, and the period of a full load is in force. -/
def placed : State :=
  let t := (placedParts i).foldl (fun s e => s.each (List.range e.2.clusters.length) (fun s j => s.loadPosition e.1 j)) (filled s i)
  if i.isPartial then t else t.modFrm (fun f => { f with period := BitVec.ofNat 24 i.period })

/-- Streams, groups and the ledger follow. -/
def settled (s : State) (i : Image) : State :=
  (placedParts i).foldl (fun s e => s.ledgerInit e.1)
    (i.cloc.foldl (fun s c => s.modCluster c.1 (fun k => { k with parity := 0 })) (s.rerange.regroup (!i.isPartial)))

theorem applyLoad_eq : s.applyLoad i = (settled (placed s i) i).charge 0 := by
  unfold State.applyLoad settled placed filled emptied cleared goneParts placedParts
  cases i.isPartial <;> rfl

/-! ## The settings in force -/

/-- CFG as the load declares it, before any spare takes a cluster's place. -/
def declared : Cfg :=
  if i.isPartial then { s.cfg with ranges := rangesAfter s i }
  else { s.cfg with spares := i.spares, auto := i.auto, parlim := i.parlim, xmod := BitVec.ofNat 16 i.xmod, routes := i.routes,
                    ranges := rangesAfter s i }

theorem cfg_filled : (filled s i).cfg = declared s i := by
  have hfilled : settings (filled s i) = settings (cleared s i) := by simp [filled, emptied]
  rw [cfg_of_settings hfilled, cleared, declared]
  split
  case isTrue =>
    have hgone : settings (s.each (goneParts s i) State.clearPart) = settings s := by simp
    rw [State.modCfg_cfg, cfg_of_settings hgone]
  case isFalse =>
    have hgone (l : List Nat) : settings ((s.each (goneParts s i) State.clearPart).each l State.unassign) = settings s := by
      simp [State.unassign]
    rw [State.modCfg_cfg, cfg_of_settings (settings_nameSpares ..), State.modCfg_cfg, cfg_of_settings (hgone _)]

theorem settings_applyLoad : settings (s.applyLoad i) = settings (placed s i) := by
  simp [applyLoad_eq, settled]

theorem thinned_applyLoad : Thinned (declared s i) (s.applyLoad i).cfg := by
  have hpart (t : State) (e : Nat × Part) :
      Thinned t.cfg (t.each (List.range e.2.clusters.length) (fun s j => s.loadPosition e.1 j)).cfg :=
    thinned_foldl (fun s j => thinned_loadPosition s e.1 j) _ t
  rw [cfg_of_settings (settings_applyLoad s i), ← cfg_filled, placed, apply_ite State.cfg, State.modFrm_cfg, ite_self]
  exact thinned_foldl hpart ..

theorem period_applyLoad {i : Image} (h : i.isPartial = false) : (s.applyLoad i).frm.period = BitVec.ofNat 24 i.period := by
  rw [period_of_settings (settings_applyLoad s i), placed, if_neg (by simp [h]), State.modFrm_frm]

/-! ## A partition that is deleted -/

theorem parts_regroup (full : Bool) : (s.regroup full).parts = s.parts :=
  keeps_foldl State.parts (fun s g => State.modGroup_parts s g _) _ s

theorem course_dropRepairs (p : Nat) : course (s.dropRepairs p) = course s := by
  refine course_foldl (fun s r => ?_) _ s
  split <;> simp

theorem course_clearPart (p : Nat) : course (s.clearPart p) = course s := by
  have hreturn (t : State) : course (t.returnAll p) = course t := by simp [State.returnAll]
  simp [State.clearPart, State.unassign, hreturn, course_dropRepairs]

theorem course_cancelCopies (p : Nat) : course (s.cancelCopies p) = course s := by simp [State.cancelCopies]

theorem course_rerange : course s.rerange = course s := by simp [State.rerange]

theorem load_of_bare {x y : Part} (h : bare x = bare y) : x.defined = y.defined ∧ x.serial = y.serial :=
  ⟨(congrArg Part.defined h :), (congrArg Part.serial h :)⟩

/-- Its place is put back to its reset values, all but CFG_PSERIAL. -/
theorem part_applyLoad_of_delete {i : Image} (hpartial : i.isPartial = true) (hdelete : i.delete = true) :
    ((s.applyLoad i).part i.part).defined = false ∧ ((s.applyLoad i).part i.part).serial = (s.part i.part).serial := by
  have hnone : placedParts i = [] := by simp [placedParts, hdelete]
  have hcleared : course (cleared s i) = course s := by
    have hgone : course (s.each (goneParts s i) State.clearPart) = course s := course_each course_clearPart _ s
    rw [cleared, if_pos hpartial, course_modCfg, hgone]
  have hplaced : placed s i = (cleared s i).removePart i.part := by
    simp [placed, filled, emptied, hnone, goneParts, hpartial, State.each]
  have hparts : (s.applyLoad i).parts = (placed s i).rerange.parts := by
    have hparity (t : State) : (i.cloc.foldl (fun s c => s.modCluster c.1 (fun k => { k with parity := 0 })) t).parts = t.parts :=
      keeps_foldl State.parts (fun (s : State) (c : Nat × Nat) => State.modCluster_parts s c.1 _) _ t
    rw [applyLoad_eq, State.charge_parts, settled, hnone, List.foldl_nil, hparity, parts_regroup]
  have hbare : bare ((s.applyLoad i).part i.part) = bare { serial := (s.part i.part).serial } := by
    rw [State.part, hparts, ← State.part, bare_part_of_course (course_rerange _), hplaced, State.removePart, State.part_modPart_self]
    exact congrArg (fun n => bare { serial := n }) (load_of_bare (bare_part_of_course hcleared i.part)).2
  exact load_of_bare hbare

end

end Sys2Proof.Proofs.Loads
end

section
/-! SUPPORT. The steps of a load (07 R212 to R218; 06 R164), and the statement `LoadSteps`. -/
namespace Sys2Proof.Proofs.Loads
open Sys2Proof Sys2Proof.Machine Sys2Proof.Proofs.Frame Sys2Proof.Proofs.Reads Sys2Proof.Proofs.Settings Sys2Proof.Proofs.Repairs

section
variable {s : State} (h : s.fwRuns = true)
include h

/-- A step of Bubarus, while it runs. -/
theorem live_of_fwRuns (f : State → State) : s.live (fun s => if s.fwRuns then f s else s) = f s := by
  rw [State.live_of_alive (alive_of_fwRuns h), if_pos h]

theorem exec_loadVerify (x : Seal) : exec (.loadVerify x.body x.path) s = .next (s.loadVerify x) :=
  congrArg ok (live_of_fwRuns h (fun s => s.loadVerify x))

theorem exec_loadApply : exec .loadApply s = .next s.loadApply := congrArg ok (live_of_fwRuns h State.loadApply)

theorem exec_loadDone : exec .loadDone s = .next s.loadDone := congrArg ok (live_of_fwRuns h State.loadDone)

end

/-! ## VERIFY -/

theorem modCfg_of_eq {s : State} {f : Cfg → Cfg} (h : f s.cfg = s.cfg) : s.modCfg f = s := by rw [State.modCfg, h]

section
variable {s : State} {r : LoadReq} (hqueue : s.cfg.queue = [r])
include hqueue

/-- One load alone has its turn. -/
theorem orderLoads_single : s.orderLoads = s := by
  unfold State.orderLoads
  refine modCfg_of_eq ?_
  rw [hqueue]
  have hsame (f : LoadReq → Bool) : [r].filter f ++ [r].filter (fun r => !f r) = [r] := by
    cases hf : f r <;> simp [hf]
  rw [hsame, ← hqueue]

theorem loadVerify_single (hphase : r.phase = .idle) (hrepair : repairing s = false) (x : Seal) : s.loadVerify x =
    match verifyLoad s r x with
    | .error e => s.failHead (reasonStatus e.1) e.1 (headerPart s r) (headerSerial s r) e.2
    | .ok i =>
      if i.isPartial then
        ((s.setHead (fun r => { r with part := some i.part })).showLoad i.part).headPhase (if (s.part i.part).defined then .wait else .drain)
      else (s.showLoad 0xFF).headPhase .drain := by
  have hruns : headRuns s = true := by simp [headRuns, hqueue, hrepair]
  unfold State.loadVerify
  simp only [hqueue, hphase, hruns, orderLoads_single hqueue, ite_self, ne_eq, not_true_eq_false, decide_false, Bool.not_true, Bool.or_self,
    Bool.false_eq_true, if_false] <;> rfl

end

/-! ### What VERIFY has checked -/

theorem lneed_ok {c : Bool} {reason off : Nat} {u : Unit} (h : lneed c reason off = .ok u) : c = true := by
  unfold lneed at h
  split at h
  · assumption
  · cases h

/-- A step of a reading that succeeds has succeeded itself. -/
theorem bind_ok {α β : Type} {w : LM α} {f : α → LM β} {b : β} (h : (w >>= f) = .ok b) : ∃ a, w = .ok a ∧ f a = .ok b := by
  cases w with
  | error e => cases h
  | ok a => exact ⟨a, rfl, h⟩

/-- A load that passes VERIFY has a signature over the bytes before it and a chain to its anchor (R214). -/
theorem sealed_of_verifyLoad {s : State} {r : LoadReq} {x : Seal} {i : Image} (h : verifyLoad s r x = .ok i) :
    sealCovers x (s.rd r.src i.sigOff) (s.section_ (r.src + i.sigOff)) = true ∧
      sealAnchored x s.cfg.keys i.anchor (s.section_ (r.src + i.sigOff)) = true := by
  unfold verifyLoad at h
  obtain ⟨j, _, h⟩ := bind_ok h
  obtain ⟨_, _, h⟩ := bind_ok h
  obtain ⟨_, hcovers, h⟩ := bind_ok h
  obtain ⟨_, _, h⟩ := bind_ok h
  obtain ⟨_, hanchored, h⟩ := bind_ok h
  have hsame : j = i := by
    dsimp only at h
    split at h
    · obtain ⟨_, _, h⟩ := bind_ok h
      exact Except.ok.inj h
    · obtain ⟨_, _, h⟩ := bind_ok h
      exact Except.ok.inj h
  exact hsame ▸ ⟨lneed_ok hcovers, lneed_ok hanchored⟩

/-! ## APPLY -/

/-- Partitions whose copies a load cancels. -/
def touched (s : State) (i : Image) : List Nat := (if i.isPartial then [i.part] else s.partList ++ i.parts.map (·.1)).eraseDups

/-- The state in which a load applies: samples are taken, waiting copies cancelled, and the phase is APPLY. -/
def applying (s : State) (i : Image) : State := ((touched s i).foldl State.cancelCopies s.sampleGroups).headPhase .apply

section
variable {s : State} {r : LoadReq} {rest : List LoadReq} (hqueue : s.cfg.queue = r :: rest) (hready : applyReady s r = true)
include hqueue hready

theorem loadApply_of_unread {e : Nat × Nat} (himage : readImage s r.src r.len = .error e) (hpart : r.part = none) :
    s.loadApply = s.failHead (reasonStatus e.1) e.1 0xFF (headerSerial s r) e.2 := by
  unfold State.loadApply
  rw [hqueue]
  dsimp only
  rw [if_neg (by simp [hready]), himage]
  simp [State.failApply, hpart]

theorem loadApply_of_applied {i : Image} (himage : readImage s r.src r.len = .ok i) (hcopies : copiesRun (applying s i) (touched s i) = false)
    (htables : tablesOk (applying s i) (placedParts i) = true) :
    s.loadApply = (((applying s i).applyLoad i).setHead (fun r => { r with applied := true })).takeBoot r := by
  unfold State.loadApply
  rw [hqueue]
  dsimp only
  rw [if_neg (by simp [hready]), himage]
  have hgood : ¬ (!tablesOk (applying s i) (placedParts i)) = true := by simp [htables]
  exact (if_neg (Bool.eq_false_iff.mp hcopies)).trans (if_neg hgood)

end

/-- The state a load leaves that has applied. -/
def applied (s : State) (r : LoadReq) (i : Image) : State :=
  (((applying s i).applyLoad i).setHead (fun r => { r with applied := true })).takeBoot r

section
variable {s : State} {r : LoadReq} {rest : List LoadReq} (hqueue : s.cfg.queue = r :: rest) (i : Image)
include hqueue

theorem cfg_applying : (applying s i).cfg = { s.cfg with phase := .apply, queue := { r with phase := .apply } :: rest } := by
  have hcancelled : ((touched s i).foldl State.cancelCopies s.sampleGroups).cfg = s.cfg := by
    refine cfg_of_settings (s := s) ?_
    simp
  rw [applying, State.headPhase, State.modCfg_cfg, hcancelled, hqueue]

/-- The settings a load leaves that has applied: as declared, less the routes that give way; the load has applied, and the boot range in force
is its own. -/
theorem cfg_applied : ∃ l, (applied s r i).cfg = { declared (applying s i) i with
      routes := l, queue := { r with phase := .apply, applied := true } :: rest,
      bootRange := if r.part.isSome then s.cfg.bootRange else if r.flash then some r.src else none } ∧
    l ⊆ (declared (applying s i) i).routes ∧ (s.cfg.repRec = [] → s.cfg.badCols = [] → l = (declared (applying s i) i).routes) := by
  obtain ⟨l, hcfg, hsub, hall⟩ := thinned_applyLoad (applying s i) i
  have hdeclared : (declared (applying s i) i).queue = { r with phase := .apply } :: rest ∧ (declared (applying s i) i).bootRange = s.cfg.bootRange ∧
      (declared (applying s i) i).repRec = s.cfg.repRec ∧ (declared (applying s i) i).badCols = s.cfg.badCols := by
    unfold declared
    rw [cfg_applying hqueue]
    split <;> exact ⟨rfl, rfl, rfl, rfl⟩
  obtain ⟨hhead, hboot, hrec, hcols⟩ := hdeclared
  refine ⟨l, ?_, hsub, fun h h' => hall (hrec.trans h) (hcols.trans h')⟩
  unfold applied State.takeBoot State.setHead
  split
  case isTrue => rw [State.modCfg_cfg, hcfg, hhead, ← hboot]
  case isFalse => rw [State.modCfg_cfg, State.modCfg_cfg, hcfg, hhead]

end

theorem frm_applied (s : State) (r : LoadReq) (i : Image) : (applied s r i).frm = ((applying s i).applyLoad i).frm := by
  unfold applied State.takeBoot
  split <;> rfl

theorem parts_applied (s : State) (r : LoadReq) (i : Image) : (applied s r i).parts = ((applying s i).applyLoad i).parts := by
  unfold applied State.takeBoot
  split <;> rfl

/-! ### A load that deletes its partition -/

/-- The copies that run at an engine. -/
def runningCopies (s : State) (d : Nat) : List PageCopy := (s.migOf d).running

theorem runningCopies_cancelCopies (s : State) (p : Nat) : runningCopies (s.cancelCopies p) = runningCopies s := by
  refine keeps_foldl runningCopies (fun s d => ?_) _ s
  have hfreed (l : List PageCopy) :
      (l.foldl (fun s c => if c.frame = 0 then s else s.freeS (c.frame - 1)) s).mig = s.mig :=
    keeps_foldl State.mig (fun s c => by split <;> rfl) l s
  funext k
  simp only [runningCopies, State.migOf_modMig]
  split
  case isTrue hk => simp only [State.migOf, hfreed, hk]
  case isFalse => simp only [State.migOf, hfreed]

theorem copiesRun_applying (s : State) (i : Image) (ps : List Nat) : copiesRun (applying s i) ps = copiesRun s ps := by
  have hsampled : runningCopies s.sampleGroups = runningCopies s :=
    keeps_foldl runningCopies (fun s g => by rw [sampleGroup_frame]; rfl) _ s
  have hrunning : runningCopies (applying s i) = runningCopies s :=
    (keeps_foldl runningCopies runningCopies_cancelCopies _ _).trans hsampled
  have hany (t : State) : copiesRun t ps = [0, 1, 2, 3].any (fun d => (runningCopies t d).any (fun c => ps.contains c.part)) := rfl
  rw [hany, hany, hrunning]

theorem serial_applying (s : State) (i : Image) (p : Nat) : ((applying s i).part p).serial = (s.part p).serial := by
  have hcancelled : course ((touched s i).foldl State.cancelCopies s.sampleGroups) = course s.sampleGroups :=
    course_foldl course_cancelCopies _ _
  rw [applying, State.headPhase, part_modCfg, ← part_sampleGroups s p]
  exact (load_of_bare (bare_part_of_course hcancelled p)).2

/-! ## DONE -/

/-- The states and SERIALs of the partitions. -/
def standing (s : State) : Nat → PState × W64 := fun k => ((s.part k).state, (s.part k).serial)

theorem standing_ite {c : Prop} [Decidable c] (s t : State) : standing (if c then s else t) = if c then standing s else standing t :=
  apply_ite standing c s t

theorem standing_modGroup (s : State) (g : Nat) (f : LockGroup → LockGroup) : standing (s.modGroup g f) = standing s := (rfl)

theorem standing_modPart {f : Part → Part} (h : ∀ q, ((f q).state, (f q).serial) = (q.state, q.serial)) (s : State) (p : Nat) :
    standing (s.modPart p f) = standing s := by
  funext k
  simp only [standing, State.part_modPart]
  split
  case isTrue hk => rw [h, hk]
  case isFalse => rfl

/-- A first tick leaves the state and the SERIAL of every partition. -/
theorem standing_firstTick (s : State) (p old : Nat) : standing (s.firstTick p old) = standing s := by
  simp [State.firstTick, standing_ite, standing_modPart, standing_modGroup]

theorem clusters_firstTick (s : State) (p old : Nat) : (s.firstTick p old).clusters = s.clusters := by
  simp [State.firstTick, apply_ite State.clusters, State.modGroup]

theorem mem_firstTick (s : State) (p old : Nat) : (s.firstTick p old).mem = s.mem := by
  simp [State.firstTick, apply_ite State.mem, State.modGroup]

/-- A cluster that is loading is assigned as its partition starts. -/
def startCluster (s : State) (g : Nat) : State :=
  s.modCluster g (fun k => if k.state == .loading then { k with state := .assigned } else k)

theorem cluster_startClusters {g : Nat} (l : List Nat) (s : State)
    (h : (s.cluster g).state = .assigned ∨ (g ∈ l ∧ (s.cluster g).state = .loading)) :
    ((l.foldl startCluster s).cluster g).state = .assigned := by
  induction l generalizing s with
  | nil => exact h.elim id (fun h => absurd h.1 List.not_mem_nil)
  | cons k l ih =>
    refine ih (startCluster s k) ?_
    rw [startCluster, State.cluster_modCluster]
    by_cases hk : g = k
    · subst hk
      rcases h with h | ⟨-, h⟩ <;> simp [h]
    · rw [if_neg hk]
      exact h.imp_right (fun h => ⟨(List.mem_cons.mp h.1).resolve_left hk, h.2⟩)

/-- The partition's own change as it starts. -/
def startedPart (s : State) (p : Nat) (serial : W64) : State :=
  ((s.part p).clusters.foldl startCluster s).modPart p (fun q =>
    { q with serial := serial, state := if q.goDown then .down else .running, goDown := false })

section
variable {s : State} {p : Nat} (h : (s.part p).goDown = false) (serial : W64)
include h

theorem startPart_of_up : s.startPart p serial none = (startedPart s p serial).firstTick p (s.part p).next := by
  unfold State.startPart
  dsimp only
  rw [if_neg (by simp [h])]
  rfl

theorem part_startPart : ((s.startPart p serial none).part p).state = .running ∧ ((s.startPart p serial none).part p).serial = serial := by
  have hparts : ((s.part p).clusters.foldl startCluster s).parts = s.parts := keeps_foldl State.parts (f := startCluster) (fun _ _ => rfl) _ s
  have hstarted : standing (s.startPart p serial none) p = (.running, serial) := by
    rw [startPart_of_up h, standing_firstTick, startedPart, standing, State.part_modPart_self, State.part, hparts, ← State.part, h]
    rfl
  exact ⟨congrArg Prod.fst hstarted, congrArg Prod.snd hstarted⟩

theorem cluster_startPart {g : Nat} (hg : g ∈ (s.part p).clusters) (hloading : (s.cluster g).state = .loading) :
    ((s.startPart p serial none).cluster g).state = .assigned := by
  rw [startPart_of_up h, State.cluster, clusters_firstTick, startedPart, State.modPart_clusters]
  exact cluster_startClusters _ s (.inr ⟨hg, hloading⟩)

theorem mem_startPart : (s.startPart p serial none).mem = s.mem := by
  rw [startPart_of_up h, mem_firstTick, startedPart, State.modPart_mem]
  exact keeps_foldl State.mem (fun s g => State.modCluster_mem ..) _ s

end

/-- What DONE of a full load sets for the module (06 R164). -/
theorem settings_startAll (s : State) (serial : W64) : settings (s.startAll serial) = settings
    ((s.modFrm (fun f => { f with epoch := some (stepTo 0 s.frm.period.toNat (s.time + 2400)) })).modPwr
      (fun w => { w with stage := .running })) := by
  simp [State.startAll]

theorem stage_measure (s : State) (kind : Nat) (res : Status) (item : List Byte) (detail : W64) :
    (s.measure kind res item detail).pwr.stage = s.pwr.stage := by
  unfold State.measure
  dsimp only
  split
  · rfl
  · rw [State.event_pwr]

/-- The report of a load that has ended leaves the stage of the module. -/
theorem stage_endLoad (s : State) (r : LoadReq) (st : Status) (reason part : Nat) (serial : W64) (off : Nat) :
    (s.endLoad r st reason part serial off).pwr.stage = s.pwr.stage := by
  unfold State.endLoad
  dsimp only
  split <;> split <;> simp [State.modCmd, stage_measure]

/-- The state DONE leaves: the load is off the queue, and reported. -/
def doneWith (t : State) (r : LoadReq) (rest : List LoadReq) (part : Nat) (serial : W64) : State :=
  (t.modCfg (fun c => { c with queue := rest, phase := .done })).endLoad r .ok 0 part serial 0

section
variable (t : State) (r : LoadReq) (rest : List LoadReq) (part : Nat) (serial : W64)

theorem cfg_doneWith : (doneWith t r rest part serial).cfg.queue = rest ∧ (doneWith t r rest part serial).cfg.phase = .done ∧
    (doneWith t r rest part serial).cfg.status = .ok := by
  simp [doneWith]

theorem reports_doneWith (hcmd : r.cmd = none) : Reports t (doneWith t r rest part serial) :=
  (reports_modCfg ..).trans (reports_endLoad hcmd ..)

theorem stage_doneWith : (doneWith t r rest part serial).pwr.stage = t.pwr.stage := by
  rw [doneWith, stage_endLoad, State.modCfg_pwr]

end

theorem Reports.parts {s t : State} (h : Reports s t) : t.parts = s.parts := (congrArg State.parts h :)
theorem Reports.clusters {s t : State} (h : Reports s t) : t.clusters = s.clusters := (congrArg State.clusters h :)
theorem Reports.frm {s t : State} (h : Reports s t) : t.frm = s.frm := (congrArg State.frm h :)
theorem Reports.mem {s t : State} (h : Reports s t) : t.mem = s.mem := (congrArg State.mem h :)

section
variable {s : State} {r : LoadReq} {rest : List LoadReq} (hqueue : s.cfg.queue = r :: rest) (happlied : r.applied = true)
include hqueue happlied

theorem loadDone_of_part {p : Nat} (hpart : r.part = some p) (hdef : (s.part p).defined = true) :
    s.loadDone = doneWith (s.startPart p (headerSerial s r) none) r rest p (headerSerial s r) := by
  unfold State.loadDone doneWith
  rw [hqueue]
  simp [happlied, hpart, hdef]

theorem loadDone_of_full (hpart : r.part = none) :
    s.loadDone = doneWith (s.startAll (headerSerial s r)) r rest 0xFF (headerSerial s r) := by
  unfold State.loadDone doneWith
  rw [hqueue]
  simp [happlied, hpart]

end

/-! ## The statement -/

section
variable {s : State} {r : LoadReq} {rest : List LoadReq} {i : Image} (hqueue : s.cfg.queue = r :: rest)
include hqueue

/-- What a full load has put in force (R211 to R215; 17 R487). -/
theorem applied_of_full (hfull : i.isPartial = false) : let t := applied s r i
    t.frm.period = BitVec.ofNat 24 i.period ∧ t.cfg.spares = i.spares ∧ (∀ x ∈ t.cfg.routes, x ∈ i.routes) ∧
      (s.cfg.repRec = [] → s.cfg.badCols = [] → t.cfg.routes = i.routes) ∧ t.cfg.ranges = i.ranges ∧
      (r.part = none → t.cfg.bootRange = if r.flash then some r.src else none) ∧
      t.cfg.queue = { r with phase := .apply, applied := true } :: rest := by
  obtain ⟨l, hcfg, hsub, hall⟩ := cfg_applied hqueue i
  have hdeclared : declared (applying s i) i = { (applying s i).cfg with
      spares := i.spares, auto := i.auto, parlim := i.parlim, xmod := BitVec.ofNat 16 i.xmod, routes := i.routes, ranges := i.ranges } := by
    rw [declared, if_neg (by simp [hfull]), rangesAfter, if_neg (by simp [hfull])]
  rw [hdeclared] at hcfg hsub hall
  dsimp only
  rw [frm_applied, period_applyLoad _ hfull, hcfg]
  exact ⟨rfl, rfl, fun _ hx => hsub hx, hall, rfl, fun hpart => by simp [hpart], rfl⟩

/-- A load with DELETE has removed its partition and its ranges (R215). -/
theorem applied_of_delete (hpartial : i.isPartial = true) (hdelete : i.delete = true) : let t := applied s r i
    (t.part i.part).defined = false ∧ (t.part i.part).serial = (s.part i.part).serial ∧
      t.cfg.ranges = s.cfg.ranges.filter (fun x => x.part ≠ i.part) := by
  obtain ⟨l, hcfg, -, -⟩ := cfg_applied hqueue i
  obtain ⟨hdefined, hserial⟩ := part_applyLoad_of_delete (applying s i) hpartial hdelete
  have hranges : (declared (applying s i) i).ranges = s.cfg.ranges.filter (fun x => x.part ≠ i.part) := by
    rw [declared, if_pos hpartial]
    simp [rangesAfter, hpartial, hdelete, cfg_applying hqueue]
  dsimp only
  rw [State.part, parts_applied, hcfg]
  exact ⟨hdefined, hserial.trans (serial_applying ..), hranges⟩

end

/-- A loaded partition runs, with its clusters assigned (R211). -/
theorem doneWith_of_part {s : State} {r : LoadReq} {p : Nat} (hcmd : r.cmd = none) (hup : (s.part p).goDown = false) (rest : List LoadReq)
    (serial : W64) : let t := doneWith (s.startPart p serial none) r rest p serial
    (t.part p).state = .running ∧ (t.part p).serial = serial ∧
      (∀ g ∈ (s.part p).clusters, (s.cluster g).state = .loading → (t.cluster g).state = .assigned) ∧ t.mem = s.mem := by
  have hreports := reports_doneWith (s.startPart p serial none) r rest p serial hcmd
  obtain ⟨hstate, hserial⟩ := part_startPart hup serial
  dsimp only
  rw [State.part, hreports.parts, ← State.part, hreports.mem]
  refine ⟨hstate, hserial, fun g hg hloading => ?_, mem_startPart hup _⟩
  rw [State.cluster, hreports.clusters]
  exact cluster_startPart hup _ hg hloading

/-- Settles O28: VERIFY is `loadVerify_single`, APPLY puts in force what `applied_of_full` and `applied_of_delete` say, and DONE is
`loadDone_of_part` or `loadDone_of_full`. -/
theorem loadSteps : Obligations.LoadSteps := by
  unfold Obligations.LoadSteps
  refine ⟨fun s r x hruns hqueue hphase hrepair => ?_, fun s r rest hruns hqueue hready => ?_, fun s r rest hruns hqueue happlied hcmd => ?_⟩
  · have hverify := loadVerify_single hqueue hphase hrepair x
    refine ⟨fun e he hcmd => ?_, fun i hi hpartial => ?_, fun i hi hfull => ?_, fun i hi => sealed_of_verifyLoad hi⟩ <;>
      refine ⟨_, exec_loadVerify hruns x, ?_⟩
    · have hcfg := cfg_failHead hqueue (reasonStatus e.1) e.1 (headerPart s r) (headerSerial s r) e.2
      rw [hverify, he, hcfg]
      exact ⟨rfl, rfl, rfl, rfl, hcfg ▸ reports_failHead hqueue hcmd .., rfl, rfl⟩
    · simp only [hi, hpartial, if_true] at hverify
      rw [hverify]
      exact ⟨⟨by simp [State.headPhase, State.showLoad, State.setHead, hqueue], rfl⟩, rfl⟩
    · simp only [hi, hfull, Bool.false_eq_true, if_false] at hverify
      rw [hverify]
      exact ⟨by simp [State.headPhase, State.showLoad, hqueue], rfl, rfl⟩
  · refine ⟨fun e he hpart hcmd => ?_, fun i hi hfull hdelete => ?_, fun i hi hpartial hdelete hcopies => ?_⟩
    · have hcfg := cfg_failHead hqueue (reasonStatus e.1) e.1 0xFF (headerSerial s r) e.2
      refine ⟨_, exec_loadApply hruns, ?_⟩
      rw [loadApply_of_unread hqueue hready he hpart, hcfg]
      exact ⟨rfl, rfl, rfl, hcfg ▸ reports_failHead hqueue hcmd ..⟩
    · intro ps s1 hcopies htables
      have htouched : touched s i = ps := by rw [touched, if_neg (by simp [hfull])]
      have hplaced : placedParts i = i.parts := by rw [placedParts, if_neg (by simp [hdelete])]
      have happlying : applying s i = s1 := by rw [applying, htouched]
      have hdone := loadApply_of_applied hqueue hready hi (by rwa [happlying, htouched]) (by rwa [happlying, hplaced])
      obtain ⟨hperiod, hspares, hroutes, hall, hranges, hboot, hhead⟩ := applied_of_full hqueue hfull
      exact ⟨_, (exec_loadApply hruns).trans (congrArg _ hdone), hperiod, hspares, hroutes, hall, hranges, hboot, _, _, hhead, rfl, rfl⟩
    · have htouched : touched s i = [i.part] := by rw [touched, if_pos hpartial]; rfl
      have hplaced : placedParts i = [] := by rw [placedParts, if_pos hdelete]
      have hdone := loadApply_of_applied hqueue hready hi (by rwa [copiesRun_applying, htouched]) (by rw [hplaced]; rfl)
      exact ⟨_, (exec_loadApply hruns).trans (congrArg _ hdone), applied_of_delete hqueue hpartial hdelete⟩
  · refine ⟨fun p hpart hdef hup => ?_, fun hpart => ?_⟩
    · obtain ⟨hrest, hphase, hstatus⟩ := cfg_doneWith (s.startPart p (headerSerial s r) none) r rest p (headerSerial s r)
      obtain ⟨hstate, hserial, hclusters, hmem⟩ := doneWith_of_part hcmd hup rest (headerSerial s r)
      exact ⟨_, (exec_loadDone hruns).trans (congrArg _ (loadDone_of_part hqueue happlied hpart hdef)), hstate, hserial, hrest, hphase, hstatus,
        hclusters, hmem⟩
    · have hall := settings_startAll s (headerSerial s r)
      have hreports := reports_doneWith (s.startAll (headerSerial s r)) r rest 0xFF (headerSerial s r) hcmd
      refine ⟨_, (exec_loadDone hruns).trans (congrArg _ (loadDone_of_full hqueue happlied hpart)), ?_⟩
      rw [stage_doneWith, hreports.frm, pwr_of_settings hall, epoch_of_settings hall]
      exact ⟨rfl, rfl, cfg_doneWith ..⟩

end Sys2Proof.Proofs.Loads
end

section
/-! SUPPORT. Partitions that a failure takes down (07 R226, R227; 01 R30, R36), and the refutation of the statement `FailuresTakeDown`. -/
namespace Sys2Proof.Proofs.Repairs
open Sys2Proof Sys2Proof.Machine Sys2Proof.Proofs.Frame Sys2Proof.Proofs.Reads

/-! ## Where every listed partition is defined -/

/-- The partition is defined, and it is down or has a tick coming. -/
def FallsLater (q : Part) : Prop := q.defined = true ∧ (q.state = .down ∨ q.next ≠ 0)

/-- Such a partition is marked for its next tick, if it is not down. -/
def marked (q : Part) : Part := if q.state = .down then q else { q with goDown := true }

theorem fallsLater_marked {q : Part} : FallsLater (marked q) ↔ FallsLater q := by
  unfold marked
  split <;> rfl

theorem state_marked (q : Part) : (marked q).state = q.state := by
  unfold marked
  split <;> rfl

theorem goDown_marked (q : Part) : (marked q).goDown = (q.goDown || q.state != .down) := by
  unfold marked
  split <;> simp [*]

theorem part_fall {s : State} {p : Nat} (h : FallsLater (s.part p)) (k : Nat) :
    (s.fall p).part k = if k = p then marked (s.part p) else s.part k := by
  obtain ⟨hdef, htick⟩ := h
  unfold State.fall marked
  by_cases hdown : (s.part p).state = .down
  · simp only [hdown, beq_self_eq_true, Bool.or_true, if_true]
    split
    case isTrue hk => rw [hk]
    case isFalse => rfl
  · simp only [hdef, hdown, Bool.not_true, Bool.false_or, beq_iff_eq, if_false, if_neg (htick.resolve_left hdown), State.part_modPart]

theorem goDown_falls (l : List Nat) {s : State} (h : ∀ p ∈ l, FallsLater (s.part p)) (k : Nat) :
    ((s.each l State.fall).part k).goDown = ((s.part k).goDown || ((s.part k).state != .down && decide (k ∈ l))) := by
  induction l generalizing s with
  | nil => simp [State.each]
  | cons p l ih =>
    have hp := h p List.mem_cons_self
    have hrest : ∀ q ∈ l, FallsLater ((s.fall p).part q) := by
      intro q hq
      rw [part_fall hp]
      split
      · exact fallsLater_marked.mpr hp
      · exact h q (List.mem_cons_of_mem _ hq)
    have hfall := ih hrest
    rw [State.each] at hfall
    rw [State.each, List.foldl_cons, hfall, part_fall hp]
    by_cases hk : k = p
    · subst hk
      rw [if_pos rfl, goDown_marked, state_marked]
      cases (s.part k).goDown <;> cases (s.part k).state != .down <;> simp
    · simp [hk]

/-- A failure takes down the partitions it concerns at their next ticks, where the ones listed as defined are defined. -/
theorem goDown_fallAll {s : State} (hdef : ∀ p ∈ s.partList, (s.part p).defined = true) (htick : tickComes s) (which : Part → Nat → Bool)
    {p : Nat} (hp : p ∈ s.partList) :
    ((s.fallAll which).part p).goDown = ((s.part p).goDown || ((s.part p).state != .down && which (s.part p) p)) := by
  have hlater : ∀ q ∈ s.partList.filter (fun p => which (s.part p) p), FallsLater (s.part q) :=
    fun q hq => have hq := (List.mem_filter.mp hq).1; ⟨hdef q hq, htick q hq⟩
  rw [State.fallAll, goDown_falls _ hlater]
  simp [List.mem_filter, hp]

/-! ## A table that lists a partition twice -/

/-- The module with partition 0 listed twice: the entry that is read does not define it, and a later one does. -/
def twiceListed : State := { State.reset with parts := [(0, { next := 1 }), (0, { defined := true })] }

theorem twiceListed_not_canonical : twf {} twiceListed.parts = false := by decide

/-- Refutes O30: the statement takes every partition that `State.partList` names for defined, which a table that is not of canonical form
need not give. In `twiceListed` the die controller of CD0 fails, and partition 0, homed there, is listed, is not down and has a tick coming;
the entry that is read does not define it, so that it is not marked to go down. Where the listed partitions are defined, the marks are those of
the statement (`goDown_fallAll`). -/
theorem not_failuresTakeDown : ¬ Obligations.FailuresTakeDown := by
  intro h
  obtain ⟨-, hdie, -⟩ := h
  have htick : tickComes twiceListed := by
    unfold tickComes
    decide
  obtain ⟨t, hexec, -, -, hdown, -⟩ := hdie twiceListed 0 rfl (by decide) htick
  cases hexec
  exact absurd (hdown 0 (by decide)) (by decide)

end Sys2Proof.Proofs.Repairs
end

section
/-! SUPPORT. The stream table, the cache of its entries and interrupts (09 R269 to R273, R300): what the writes of the module into the
table change, what the use of an entry changes, and what each leaves alone. -/
namespace Sys2Proof.Proofs.Streams
open Sys2Proof Sys2Proof.Machine Sys2Proof.Proofs.Registers Sys2Proof.Proofs.Frame

/-! ## What streams change -/

/-- The state without memory and the event recorder, which are all that a write into the table changes. -/
def apart (s : State) : State := { s with mem := [], evr := {} }

/-- The state without what the operations of streams change. -/
def beside (s : State) : State := { s with mem := [], evr := {}, stm := {}, parts := [], hlk := {} }

theorem eq_of_beside {s t : State} (h : beside t = beside s) :
    t = { s with mem := t.mem, evr := t.evr, stm := t.stm, parts := t.parts, hlk := t.hlk } :=
  congrArg (fun u : State => { u with mem := t.mem, evr := t.evr, stm := t.stm, parts := t.parts, hlk := t.hlk }) h

/-- A change that spares memory, the recorder and the host link. -/
theorem stm_parts_frame {s t : State} (h : beside t = beside s) (hmem : t.mem = s.mem) (hevr : t.evr = s.evr) (hhlk : t.hlk = s.hlk) :
    t = { s with stm := t.stm, parts := t.parts } := by
  have hframe := eq_of_beside h
  rw [hmem, hevr, hhlk] at hframe
  exact hframe

section
variable {s t : State} (h : apart t = apart s)
include h

theorem beside_of_apart : beside t = beside s := (congrArg beside h :)
theorem stm_of_apart : t.stm = s.stm := (congrArg State.stm h :)
theorem parts_of_apart : t.parts = s.parts := (congrArg State.parts h :)
theorem hlk_of_apart : t.hlk = s.hlk := (congrArg State.hlk h :)
theorem stream_of_apart (n : Nat) : t.stream n = s.stream n := (congrArg (State.stream · n) h :)
theorem part_of_apart (p : Nat) : t.part p = s.part p := (congrArg (State.part · p) h :)
theorem locate_of_apart (a : Nat) : locate t a = locate s a := (congrArg (locate · a) h :)
theorem entryAddr_of_apart (n : Nat) : entryAddr t n = entryAddr s n := (congrArg (entryAddr · n) h :)
theorem recordAt_of_apart (n : Nat) : recordAt t n = recordAt s n := (congrArg (recordAt · n) h :)

end

@[simp] theorem apart_wr (s : State) (a : Nat) (l : List Byte) : apart (s.wr a l) = apart s := rfl

@[simp] theorem apart_event (s : State) (code source v : Nat) : apart (s.event code source v) = apart s := by
  rw [event_frame]
  rfl

@[simp] theorem apart_noLocation (s : State) (p : Option Nat) (a : Nat) : apart (s.noLocation p a) = apart s := apart_event ..

/-! ## Writes into the table (R269, R272) -/

@[simp] theorem apart_tblWr (s : State) (a : Nat) (l : List Byte) : apart (s.tblWr a l) = apart s := by
  unfold State.tblWr
  split
  · exact apart_wr s a l
  · exact apart_noLocation s none a

@[simp] theorem locate_tblWr (s : State) (a : Nat) (l : List Byte) (b : Nat) : locate (s.tblWr a l) b = locate s b :=
  locate_of_apart (apart_tblWr s a l) b

theorem byte_event (s : State) (code source v x : Nat) : (s.event code source v).byte x = s.byte x := by
  simp only [State.byte, State.event_mem]

theorem byte_tblWr_other (s : State) {a x : Nat} {l : List Byte} (h : x < a ∨ a + l.length ≤ x) : (s.tblWr a l).byte x = s.byte x := by
  unfold State.tblWr
  split
  · exact s.memSameBut_wr a l x h
  · exact byte_event ..

theorem tblWr_evr {s : State} {a : Nat} (h : locate s a = .mem) (l : List Byte) : (s.tblWr a l).evr = s.evr := by
  simp [State.tblWr, h]

section
variable (s : State) (n : Nat)

@[simp] theorem apart_writeBack : apart (s.writeBack n) = apart s := by simp [State.writeBack]
@[simp] theorem apart_writeError : apart (s.writeError n) = apart s := by simp [State.writeError]
@[simp] theorem apart_writeTail : apart (s.writeTail n) = apart s := by simp [State.writeTail, State.writePhases]

@[simp] theorem writeBack_stm : (s.writeBack n).stm = s.stm := stm_of_apart (apart_writeBack s n)
@[simp] theorem writeBack_parts : (s.writeBack n).parts = s.parts := parts_of_apart (apart_writeBack s n)
@[simp] theorem writeBack_hlk : (s.writeBack n).hlk = s.hlk := hlk_of_apart (apart_writeBack s n)
@[simp] theorem stream_writeBack (k : Nat) : (s.writeBack n).stream k = s.stream k := stream_of_apart (apart_writeBack s n) k
@[simp] theorem part_writeBack (p : Nat) : (s.writeBack n).part p = s.part p := part_of_apart (apart_writeBack s n) p
@[simp] theorem beside_writeBack : beside (s.writeBack n) = beside s := beside_of_apart (apart_writeBack s n)

@[simp] theorem writeTail_hlk : (s.writeTail n).hlk = s.hlk := hlk_of_apart (apart_writeTail s n)
@[simp] theorem stream_writeTail (k : Nat) : (s.writeTail n).stream k = s.stream k := stream_of_apart (apart_writeTail s n) k
@[simp] theorem part_writeTail (p : Nat) : (s.writeTail n).part p = s.part p := part_of_apart (apart_writeTail s n) p
@[simp] theorem beside_writeTail : beside (s.writeTail n) = beside s := beside_of_apart (apart_writeTail s n)
@[simp] theorem entryAddr_writeTail (k : Nat) : entryAddr (s.writeTail n) k = entryAddr s k := entryAddr_of_apart (apart_writeTail s n) k

@[simp] theorem writeError_stm : (s.writeError n).stm = s.stm := stm_of_apart (apart_writeError s n)
@[simp] theorem writeError_parts : (s.writeError n).parts = s.parts := parts_of_apart (apart_writeError s n)
@[simp] theorem stream_writeError (k : Nat) : (s.writeError n).stream k = s.stream k := stream_of_apart (apart_writeError s n) k

/-- The module's fields lie in the entry's 64 bytes (R272). -/
theorem memSameBut_writeBack : s.MemSameBut (s.writeBack n) (entryAddr s n) 64 := by
  intro x hx
  simp only [State.writeBack]
  repeat rw [byte_tblWr_other]
  all_goals simp only [length_leBytes, List.length_append, List.length_cons, List.length_nil]; omega

theorem memSameBut_writeTail : s.MemSameBut (s.writeTail n) (entryAddr s n) 64 := by
  intro x hx
  simp only [State.writeTail, State.writePhases]
  repeat rw [byte_tblWr_other]
  all_goals simp only [length_leBytes, List.length_cons, List.length_nil]; omega

theorem memSameBut_writeError : s.MemSameBut (s.writeError n) (entryAddr s n + 0x28) 2 := by
  intro x hx
  exact byte_tblWr_other s (by simpa only [length_leBytes] using hx)

end

/-- A write-back into an entry that is there reports nothing. -/
theorem writeBack_evr {s : State} {n : Nat} (h : entryThere s n) : (s.writeBack n).evr = s.evr := by
  have h0 : locate s (entryAddr s n) = .mem := h 0 (by decide)
  have h20 := h 0x20 (by decide)
  have h24 := h 0x24 (by decide)
  have h28 := h 0x28 (by decide)
  simp only [State.writeBack]
  repeat rw [tblWr_evr]
  all_goals simpa only [locate_tblWr]

/-! ## The cache of entries (R270) -/

/-- The state without the cache: every entry's place in it, and its clock. -/
def uncached (s : State) : State × (Nat → Stream) :=
  ({ s with stm := { s.stm with streams := [], useClock := 0 } }, fun k => { s.stream k with cached := 0 })

theorem uncached_cachedAs (s : State) (n c : Nat) : uncached (s.modStream n (fun x => { x with cached := c })) = uncached s := by
  refine congrArg (Prod.mk _) (funext fun k => ?_)
  rw [State.stream_modStream]
  split
  case isTrue hk => rw [hk]
  case isFalse => rfl

theorem uncached_dropEntry (s : State) : uncached s.dropEntry = uncached s := by
  unfold State.dropEntry
  split
  · exact uncached_cachedAs ..
  · rfl

theorem uncached_useEntry (s : State) (n : Nat) : uncached (s.useEntry n) = uncached s := by
  have htrim : uncached (s.useEntry n) = uncached (s.touchStream n) := keeps_foldl uncached (fun s _ => uncached_dropEntry s) _ _
  rw [htrim]
  exact (uncached_cachedAs ..).trans rfl

section
variable {s t : State} (h : uncached t = uncached s)
include h

theorem frame_of_uncached : t = { s with stm := t.stm } := (congrArg (fun u => ({ u.1 with stm := t.stm } : State)) h :)
theorem mem_of_uncached : t.mem = s.mem := (congrArg (·.1.mem) h :)
theorem evr_of_uncached : t.evr = s.evr := (congrArg (·.1.evr) h :)
theorem parts_of_uncached : t.parts = s.parts := (congrArg (·.1.parts) h :)
theorem hlk_of_uncached : t.hlk = s.hlk := (congrArg (·.1.hlk) h :)
theorem status_of_uncached : t.stm.status = s.stm.status := (congrArg (·.1.stm.status) h :)
theorem sinfo_of_uncached : t.stm.sinfo = s.stm.sinfo := (congrArg (·.1.stm.sinfo) h :)
theorem locate_of_uncached (a : Nat) : locate t a = locate s a := (congrArg (locate ·.1 a) h :)
theorem entryAddr_of_uncached (n : Nat) : entryAddr t n = entryAddr s n := (congrArg (entryAddr ·.1 n) h :)
theorem beside_of_uncached : beside t = beside s := (congrArg (beside ·.1) h :)
theorem stream_of_uncached (k : Nat) : t.stream k = { s.stream k with cached := (t.stream k).cached } :=
  (congrArg (fun u => ({ u.2 k with cached := (t.stream k).cached } : Stream)) h :)

end

section
variable (s : State) (n : Nat)

/-- A use of an entry changes no stream but for its place in the cache. -/
theorem stream_useEntry (k : Nat) : ∃ c, (s.useEntry n).stream k = { s.stream k with cached := c } :=
  ⟨_, stream_of_uncached (uncached_useEntry s n) k⟩

theorem useEntry_frame : s.useEntry n = { s with stm := (s.useEntry n).stm } := frame_of_uncached (uncached_useEntry s n)

@[simp] theorem useEntry_mem : (s.useEntry n).mem = s.mem := mem_of_uncached (uncached_useEntry s n)
@[simp] theorem useEntry_evr : (s.useEntry n).evr = s.evr := evr_of_uncached (uncached_useEntry s n)
@[simp] theorem useEntry_parts : (s.useEntry n).parts = s.parts := parts_of_uncached (uncached_useEntry s n)
@[simp] theorem useEntry_hlk : (s.useEntry n).hlk = s.hlk := hlk_of_uncached (uncached_useEntry s n)
@[simp] theorem useEntry_status : (s.useEntry n).stm.status = s.stm.status := status_of_uncached (uncached_useEntry s n)
@[simp] theorem useEntry_sinfo : (s.useEntry n).stm.sinfo = s.stm.sinfo := sinfo_of_uncached (uncached_useEntry s n)
@[simp] theorem part_useEntry (p : Nat) : (s.useEntry n).part p = s.part p := by simp only [State.part, useEntry_parts]
@[simp] theorem byte_useEntry (x : Nat) : (s.useEntry n).byte x = s.byte x := by simp only [State.byte, useEntry_mem]
@[simp] theorem locate_useEntry (a : Nat) : locate (s.useEntry n) a = locate s a := locate_of_uncached (uncached_useEntry s n) a
@[simp] theorem entryAddr_useEntry (k : Nat) : entryAddr (s.useEntry n) k = entryAddr s k := entryAddr_of_uncached (uncached_useEntry s n) k
@[simp] theorem beside_useEntry : beside (s.useEntry n) = beside s := beside_of_uncached (uncached_useEntry s n)

@[simp] theorem entryAddr_modStream (f : Stream → Stream) (k : Nat) : entryAddr (s.modStream n f) k = entryAddr s k := rfl
@[simp] theorem entryAddr_modPart (f : Part → Part) (k : Nat) : entryAddr (s.modPart n f) k = entryAddr s k := rfl
@[simp] theorem byte_modPart (f : Part → Part) (x : Nat) : (s.modPart n f).byte x = s.byte x := rfl
@[simp] theorem byte_modStream (f : Stream → Stream) (x : Nat) : (s.modStream n f).byte x = s.byte x := rfl
@[simp] theorem locate_modStream (f : Stream → Stream) (a : Nat) : locate (s.modStream n f) a = locate s a := rfl
@[simp] theorem beside_modStream (f : Stream → Stream) : beside (s.modStream n f) = beside s := rfl
@[simp] theorem part_modStream (f : Stream → Stream) (p : Nat) : (s.modStream n f).part p = s.part p := rfl
@[simp] theorem beside_modPart (f : Part → Part) : beside (s.modPart n f) = beside s := rfl
@[simp] theorem beside_modStm (f : Stm → Stm) : beside (s.modStm f) = beside s := rfl
@[simp] theorem beside_modHlk (f : Hlk → Hlk) : beside (s.modHlk f) = beside s := rfl
@[simp] theorem beside_wr (a : Nat) (l : List Byte) : beside (s.wr a l) = beside s := rfl

end

end Sys2Proof.Proofs.Streams
end

section
/-! SUPPORT. Doorbells and the bases of the tables (09 R269, R280 to R282, R302), and the statements `CommandDoorbell` and `StreamBases`. -/
namespace Sys2Proof.Proofs.Streams
open Sys2Proof Sys2Proof.Machine

/-! ## The doorbell word (R280) -/

section
variable {s : State} {n i : Nat} (hs : s.alive = true) (hn : n < 16384) (hi : i < 65536)

theorem doorbell_fields (k : Nat) (hn : n < 16384) (hi : i < 65536) :
    fieldNat (k * 2 ^ 31 + n * 65536 + i) 29 16 = n ∧ fieldNat (k * 2 ^ 31 + n * 65536 + i) 15 0 = i := by
  simp only [fieldNat, Nat.shiftRight_eq_div_pow]
  omega

include hn hi

theorem doorbell_command (s : State) : s.doorbell (n * 65536 + i) = s.cmdDoorbell n i := by
  have hkind : bitAt (n * 65536 + i) 31 = false := Nat.testBit_lt_two_pow (by omega)
  obtain ⟨hstream, hindex⟩ := doorbell_fields 0 hn hi
  simp only [Nat.zero_mul, Nat.zero_add] at hstream hindex
  simp [State.doorbell, hkind, hstream, hindex]

theorem doorbell_completion (s : State) : s.doorbell (2 ^ 31 + n * 65536 + i) = s.headDoorbell n i := by
  have hkind : bitAt (2 ^ 31 + n * 65536 + i) 31 = true := by
    rw [bitAt, Nat.add_assoc, Nat.testBit_two_pow_add_eq, Nat.testBit_lt_two_pow (by omega)]
    rfl
  obtain ⟨hstream, hindex⟩ := doorbell_fields 1 hn hi
  simp only [Nat.one_mul] at hstream hindex
  unfold State.doorbell
  rw [hkind, hstream, hindex]
  rfl

include hs

theorem exec_commandTailDoorbell : exec (.commandTailDoorbell n i) s = .next (s.cmdDoorbell n i) := by
  have harm : exec (.commandTailDoorbell n i) s = execCommandTailDoorbell n i s := rfl
  rw [harm, execCommandTailDoorbell, State.live_of_alive hs, Nat.mod_eq_of_lt hn, Nat.mod_eq_of_lt hi, doorbell_command hn hi]
  rfl

theorem exec_completionHeadDoorbell : exec (.completionHeadDoorbell n i) s = .next (s.headDoorbell n i) := by
  have harm : exec (.completionHeadDoorbell n i) s = execCompletionHeadDoorbell n i s := rfl
  rw [harm, execCompletionHeadDoorbell, State.live_of_alive hs, Nat.mod_eq_of_lt hn, Nat.mod_eq_of_lt hi, doorbell_completion hn hi]
  rfl

end

/-! ## An accepted doorbell (R281, R282) -/

/-- The module uses the entry, changes the stream, and writes the entry back. -/
def accepted (s : State) (n : Nat) (f : Stream → Stream) : State := ((s.useEntry n).modStream n f).writeBack n

section
variable (s : State) (n : Nat) (f : Stream → Stream)

theorem stream_accepted : ∃ c, (accepted s n f).stream n = f { s.stream n with cached := c } := by
  obtain ⟨c, hc⟩ := stream_useEntry s n n
  exact ⟨c, by rw [accepted, stream_writeBack, State.stream_modStream_self, hc]⟩

theorem memSameBut_accepted : s.MemSameBut (accepted s n f) (entryAddr s n) 64 := by
  intro x hx
  rw [accepted, memSameBut_writeBack _ n x (by simpa using hx), byte_modStream, byte_useEntry]

theorem accepted_evr (h : entryThere s n) : (accepted s n f).evr = s.evr := by
  have hthere : entryThere ((s.useEntry n).modStream n f) n := by
    intro k hk
    simpa using h k hk
  rw [accepted, writeBack_evr hthere, State.modStream_evr, useEntry_evr]

theorem accepted_frame :
    accepted s n f = { s with stm := (accepted s n f).stm, mem := (accepted s n f).mem, evr := (accepted s n f).evr } := by
  have hframe : beside (accepted s n f) = beside s := by simp [accepted]
  have hparts : (accepted s n f).parts = s.parts := by simp [accepted]
  have hhlk : (accepted s n f).hlk = s.hlk := by simp [accepted]
  have h := eq_of_beside hframe
  rw [hparts, hhlk] at h
  exact h

end

/-! ## Command doorbells (R281) -/

/-- R281 accepts INDEX as TAIL. -/
def TailOk (x : Stream) (i : Nat) : Prop :=
  x.state ≠ .idle ∧ i < 2 ^ x.clog2 ∧
    (x.tail.toNat + 2 ^ x.clog2 - x.head.toNat) % 2 ^ x.clog2 ≤ (i + 2 ^ x.clog2 - x.head.toNat) % 2 ^ x.clog2

theorem cmdDoorbell_accepted {s : State} {n i : Nat} (h : TailOk (s.stream n) i) :
    s.cmdDoorbell n i = accepted s n (fun x => { x with tail := BitVec.ofNat 16 i, stuck := false }) := by
  obtain ⟨hstate, hindex, hpending⟩ := h
  simp [State.cmdDoorbell, accepted, hstate, hindex, hpending]

theorem cmdDoorbell_ignored {s : State} {n i : Nat} (h : ¬ TailOk (s.stream n) i) :
    s.cmdDoorbell n i = (s.useEntry n).event 0x0300 n i := by
  refine if_neg fun hok => h ?_
  simpa [TailOk, and_assoc] using hok

/-- Settles O19: an accepted doorbell is `accepted` with the new TAIL, and any other is counted. -/
theorem commandDoorbell : Obligations.CommandDoorbell := by
  intro s n i hs hn hi x N pending old
  refine ⟨fun hok => ?_, fun hbad => ?_⟩
  · obtain ⟨c, hstream⟩ := stream_accepted s n (fun x => { x with tail := BitVec.ofNat 16 i, stuck := false })
    have hindex : (BitVec.ofNat 16 i).toNat = i := by rw [BitVec.toNat_ofNat]; omega
    refine ⟨_, (exec_commandTailDoorbell hs hn hi).trans (congrArg _ (cmdDoorbell_accepted hok)), ?_⟩
    rw [hstream]
    refine ⟨rfl, rfl, rfl, ?_, rfl, rfl, memSameBut_accepted s n _, accepted_evr s n _, accepted_frame ..⟩
    simpa only [hindex] using hok.2.2
  · exact (exec_commandTailDoorbell hs hn hi).trans (congrArg _ (cmdDoorbell_ignored hbad))

/-! ## Completion doorbells (R282) -/

theorem headDoorbell_accepted {s : State} {n i : Nat} (hstate : (s.stream n).state ≠ .idle) (hi : i < 2 ^ (s.stream n).plog2) :
    s.headDoorbell n i = accepted s n (fun x => { x with phead := BitVec.ofNat 16 i }) := by
  simp [State.headDoorbell, accepted, hstate, hi]

theorem headDoorbell_ignored {s : State} {n i : Nat} (h : (s.stream n).state = .idle ∨ 2 ^ (s.stream n).plog2 ≤ i) :
    s.headDoorbell n i = (s.useEntry n).event 0x0300 n i := by
  refine if_neg fun hok => ?_
  simp only [Bool.and_eq_true, bne_iff_ne, decide_eq_true_eq] at hok
  exact h.elim hok.1 (Nat.not_le_of_lt hok.2)

/-! ## The bases (R269, R302) -/

theorem allIdle_iff (s : State) : allIdle s = true ↔ ∀ e ∈ s.stm.streams, e.2.state = .idle := by
  simp [allIdle, List.all_eq_true]

theorem state_tget_map {f : Stream → Stream} (hf : ∀ x, (f x).state = x.state) (l : Tbl Stream) (n : Nat) :
    (tget ({} : Stream) (l.map (fun e => (e.1, f e.2))) n).state = (tget ({} : Stream) l n).state := by
  induction l with
  | nil => rfl
  | cons e l ih =>
    by_cases hk : e.1 = n
    · simp [tget, hk, hf]
    · simpa [tget, hk] using ih

/-- Entries that leave the cache keep the states of their streams. -/
theorem state_setTableBase {s : State} (h : allIdle s = true) (v n : Nat) : ((s.setTableBase v).stream n).state = (s.stream n).state := by
  rw [State.setTableBase, if_pos h]
  exact state_tget_map (f := fun x => { x with cached := 0 }) (fun _ => rfl) s.stm.streams n

section
variable {s : State} (hs : s.alive = true) (v : W64)
include hs

theorem exec_stmTableBaseWrite : exec (.stmTableBaseWrite v) s = .next (s.setTableBase v.toNat) :=
  congrArg ok (State.live_of_alive hs _)

theorem exec_stmArgBaseWrite : exec (.stmArgBaseWrite v) s = .next (s.setArgBase v.toNat) :=
  congrArg ok (State.live_of_alive hs _)

end

/-- Settles O23: the test of R269 is `allIdle`; where it holds the base is set, and elsewhere the write is counted. -/
theorem streamBases : Obligations.StreamBases := by
  refine ⟨fun s n => rfl, fun s v hs hidle => ⟨?_, ?_⟩, fun s v hs hbusy => ?_⟩
  · have hall := (allIdle_iff s).mpr hidle
    refine ⟨_, exec_stmTableBaseWrite hs v, ?_, state_setTableBase hall v.toNat, ?_⟩ <;> rw [State.setTableBase, if_pos hall]
    · exact BitVec.toNat_ofNat ..
    · rfl
  · have hall := (allIdle_iff s).mpr hidle
    refine ⟨_, exec_stmArgBaseWrite hs v, ?_, ?_⟩ <;> rw [State.setArgBase, if_pos hall]
    · exact BitVec.toNat_ofNat ..
    · rfl
  · have hnot : ¬ allIdle s = true := by
      rw [allIdle_iff]
      obtain ⟨e, he, hstate⟩ := hbusy
      exact fun hall => hstate (hall e he)
    exact ⟨(exec_stmTableBaseWrite hs v).trans (congrArg _ (if_neg hnot)), (exec_stmArgBaseWrite hs v).trans (congrArg _ (if_neg hnot))⟩

end Sys2Proof.Proofs.Streams
end

section
/-! SUPPORT. The actions of STM_SCMD (09 R274 to R276, R302), and the statement `StreamActions`. -/
namespace Sys2Proof.Proofs.Streams
open Sys2Proof Sys2Proof.Machine Sys2Proof.Proofs.Registers Sys2Proof.Proofs.Frame

/-! ## Interrupts and pools -/

section
variable (s : State) (n : Nat)

@[simp] theorem stream_event (code source v k : Nat) : (s.event code source v).stream k = s.stream k := by simp [State.stream]
@[simp] theorem entryAddr_event (code source v k : Nat) : entryAddr (s.event code source v) k = entryAddr s k := by simp [entryAddr]

theorem stream_irqCause : ∃ a, (s.irqCause n).stream n = { s.stream n with irqWant := a } := by
  rw [State.irqCause, State.stream_modStream_self]
  split
  · exact ⟨_, rfl⟩
  · exact ⟨_, rfl⟩

theorem stream_raiseIrq : ∃ a b, (s.raiseIrq n).stream n = { s.stream n with irqWant := a, irqDone := b } := by
  unfold State.raiseIrq
  dsimp only
  split
  · exact ⟨_, _, State.stream_modStream_self ..⟩
  · exact ⟨_, _, rfl⟩

/-- An interrupt changes its stream and the host link. -/
theorem raiseIrq_frame : ∃ l h, s.raiseIrq n = { s with stm := { s.stm with streams := l }, hlk := h } := by
  unfold State.raiseIrq
  dsimp only
  split
  · exact ⟨_, _, rfl⟩
  · exact ⟨_, _, rfl⟩

@[simp] theorem raiseIrq_mem : (s.raiseIrq n).mem = s.mem := by
  obtain ⟨l, h, heq⟩ := raiseIrq_frame s n
  rw [heq]
@[simp] theorem raiseIrq_parts : (s.raiseIrq n).parts = s.parts := by
  obtain ⟨l, h, heq⟩ := raiseIrq_frame s n
  rw [heq]
@[simp] theorem entryAddr_raiseIrq (k : Nat) : entryAddr (s.raiseIrq n) k = entryAddr s k := by
  obtain ⟨l, h, heq⟩ := raiseIrq_frame s n
  rw [heq]
  rfl

/-- A change of CREDITS changes the pool of the stream's partition alone. -/
theorem poolBy_frame (delta : Int) : s.poolBy n delta = { s with parts := (s.poolBy n delta).parts } := by
  unfold State.poolBy
  dsimp only
  split <;> rfl

@[simp] theorem poolBy_stm (delta : Int) : (s.poolBy n delta).stm = s.stm := (congrArg State.stm (poolBy_frame s n delta) :)
@[simp] theorem poolBy_mem (delta : Int) : (s.poolBy n delta).mem = s.mem := (congrArg State.mem (poolBy_frame s n delta) :)
@[simp] theorem poolBy_evr (delta : Int) : (s.poolBy n delta).evr = s.evr := (congrArg State.evr (poolBy_frame s n delta) :)
@[simp] theorem poolBy_hlk (delta : Int) : (s.poolBy n delta).hlk = s.hlk := (congrArg State.hlk (poolBy_frame s n delta) :)
@[simp] theorem beside_poolBy (delta : Int) : beside (s.poolBy n delta) = beside s := (congrArg beside (poolBy_frame s n delta) :)
@[simp] theorem byte_poolBy (delta : Int) (x : Nat) : (s.poolBy n delta).byte x = s.byte x := by simp only [State.byte, poolBy_mem]
@[simp] theorem stream_poolBy (delta : Int) (k : Nat) : (s.poolBy n delta).stream k = s.stream k := by
  simp only [State.stream, poolBy_stm]
@[simp] theorem entryAddr_poolBy (delta : Int) (k : Nat) : entryAddr (s.poolBy n delta) k = entryAddr s k := by
  simp only [entryAddr, poolBy_stm]

theorem setRange_frame : ∃ f, s.setRange n = s.modStream n f := by
  unfold State.setRange
  split
  · exact ⟨_, rfl⟩
  · exact ⟨_, rfl⟩

@[simp] theorem byte_setRange (x : Nat) : (s.setRange n).byte x = s.byte x := by
  obtain ⟨f, hf⟩ := setRange_frame s n
  rw [hf, byte_modStream]
@[simp] theorem entryAddr_setRange (k : Nat) : entryAddr (s.setRange n) k = entryAddr s k := by
  obtain ⟨f, hf⟩ := setRange_frame s n
  rw [hf, entryAddr_modStream]

@[simp] theorem byte_scmdStatus (st : Status) (x : Nat) : (s.scmdStatus st).byte x = s.byte x := rfl
@[simp] theorem entryAddr_scmdStatus (st : Status) (k : Nat) : entryAddr (s.scmdStatus st) k = entryAddr s k := rfl
@[simp] theorem stream_scmdStatus (st : Status) (k : Nat) : (s.scmdStatus st).stream k = s.stream k := rfl

end

/-! ## The register (R302) -/

/-- STM_SCMD.STREAM names a stream. -/
def selected (s : State) (n : Nat) : State := s.modStm (fun m => { m with stream := BitVec.ofNat 14 n })

section
variable {s : State} {n : Nat} (hs : s.alive = true) (hn : n < 16384)
include hs hn

theorem live_scmd (a : Nat) : ok (s.live (fun s => s.scmd (n % 16384) a)) = .next (s.scmd n a) := by
  rw [State.live_of_alive hs, Nat.mod_eq_of_lt hn]
  rfl

theorem exec_scmdSetStream : exec (.scmdSetStream n) s = .next (selected s n) := live_scmd hs hn 0
theorem exec_arm : exec (.arm n) s = .next (((selected s n).actArm n).useEntry n) := live_scmd hs hn 1
theorem exec_halt : exec (.halt n) s = .next (((selected s n).actHalt n).useEntry n) := live_scmd hs hn 2
theorem exec_disarm : exec (.disarm n) s = .next (((selected s n).useEntry n).actDisarm n) := live_scmd hs hn 3
theorem exec_reload : exec (.reload n) s = .next (((selected s n).actReload n).useEntry n) := live_scmd hs hn 4
theorem exec_query : exec (.query n) s = .next (((selected s n).actQuery n).useEntry n) := live_scmd hs hn 5

theorem exec_reservedAction {a : BitVec 4} (ha : 6 ≤ a.toNat) :
    exec (.reservedAction n a) s = .next ((selected s n).scmdStatus .bound) := by
  have harm : exec (.reservedAction n a) s = execReservedAction n a s := rfl
  rw [harm, execReservedAction, State.live_of_alive hs, if_pos ha, Nat.mod_eq_of_lt hn]
  unfold State.scmd
  split
  case h_7 => rfl
  all_goals omega

end

/-! ## A refused action (R272, R275) -/

section
variable (s : State) (n : Nat) (st : Status)

@[simp] theorem scmdStatus_mem : (s.scmdStatus st).mem = s.mem := rfl
@[simp] theorem scmdStatus_evr : (s.scmdStatus st).evr = s.evr := rfl
@[simp] theorem scmdStatus_hlk : (s.scmdStatus st).hlk = s.hlk := rfl
@[simp] theorem scmdStatus_parts : (s.scmdStatus st).parts = s.parts := rfl
@[simp] theorem beside_scmdStatus : beside (s.scmdStatus st) = beside s := rfl
@[simp] theorem scmdStatus_stm : (s.scmdStatus st).stm = { s.stm with status := st } := rfl

theorem stream_actionRefused :
    (s.actionRefused n st).stream n = { s.stream n with error := BitVec.ofNat 16 (256 * st.code) } := by
  rw [State.actionRefused, stream_writeError, State.stream_modStream_self]
  rfl

@[simp] theorem actionRefused_status : (s.actionRefused n st).stm.status = st := by simp [State.actionRefused]
@[simp] theorem actionRefused_parts : (s.actionRefused n st).parts = s.parts := by
  rw [State.actionRefused, writeError_parts]
  rfl

theorem memSameBut_actionRefused : s.MemSameBut (s.actionRefused n st) (entryAddr s n + 0x28) 2 :=
  fun x hx => memSameBut_writeError ((s.scmdStatus st).modStream n _) n x hx

end

/-- From `s` to `t` an action on stream `n` was refused with this status (R272, R275). -/
def Refused (s t : State) (n : Nat) (st : Status) : Prop :=
  (t.stream n).state = (s.stream n).state ∧ t.stm.status = st ∧ (t.stream n).error = BitVec.ofNat 16 (256 * st.code) ∧ t.parts = s.parts ∧
    s.MemSameBut t (entryAddr s n + 0x28) 2

theorem refused_actionRefused (s : State) (n : Nat) (st : Status) : Refused s (s.actionRefused n st) n st := by
  refine ⟨?_, by simp, ?_, by simp, memSameBut_actionRefused s n st⟩ <;> rw [stream_actionRefused]

/-- The entry is used after an action, or before it. -/
theorem refused_useEntry {s t : State} {n : Nat} {st : Status} (h : Refused s t n st) : Refused s (t.useEntry n) n st := by
  obtain ⟨hstate, hstatus, herror, hparts, hmem⟩ := h
  obtain ⟨c, hc⟩ := stream_useEntry t n n
  refine ⟨?_, (useEntry_status t n).trans hstatus, ?_, (useEntry_parts t n).trans hparts, fun x hx => ?_⟩
  · rw [hc, hstate]
  · rw [hc, herror]
  · rw [byte_useEntry, hmem x hx]

/-! ## ARM (R274, R275) -/

/-- What ARM makes of an IDLE stream whose entry has been taken. -/
def armedFresh (y : Stream) : Stream :=
  { y with state := .armed, tail := y.head, cutTail := y.head, phead := y.ptail, completed := 0, cmds := [], fetched := [], retrying := false,
           stuck := false, rereads := 0, reload := none, waited := none }

section
variable {s : State} {n : Nat} (hidle : (s.stream n).state = .idle) (hmem : locate s (entryAddr s n) = .mem)
include hidle hmem

/-- ARM that passes the checks: the stream is armed, the pool takes its credits, and the entry is written back. -/
theorem actArm_passed (hok : armOk s n (s.rd (entryAddr s n) 64) = true) :
    let y := ((s.setRange n).stream n).take (s.rd (entryAddr s n) 64)
    s.actArm n = ((((s.setRange n).modStream n (fun _ => armedFresh y)).poolBy n (y.credits.toNat : Int)).scmdStatus .ok).writeBack n := by
  simp [State.actArm, Stream.live, hidle, hmem, hok, armedFresh]

theorem actArm_failed (hbad : armOk s n (s.rd (entryAddr s n) 64) = false) : s.actArm n = s.actionRefused n .badStream := by
  simp [State.actArm, Stream.live, hidle, hmem, hbad]

section
variable (hok : armOk s n (s.rd (entryAddr s n) 64) = true)
include hok

theorem stream_actArm : (s.actArm n).stream n = armedFresh (((s.setRange n).stream n).take (s.rd (entryAddr s n) 64)) := by
  rw [actArm_passed hidle hmem hok, stream_writeBack, stream_scmdStatus, stream_poolBy, State.stream_modStream_self]

theorem actArm_status : (s.actArm n).stm.status = .ok := by
  rw [actArm_passed hidle hmem hok, writeBack_stm]
  rfl

theorem memSameBut_actArm : s.MemSameBut (s.actArm n) (entryAddr s n) 64 := by
  intro x hx
  rw [actArm_passed hidle hmem hok, memSameBut_writeBack]
  · simp
  · simpa

end

end

/-! ## HALT (R274, R276) -/

/-- A halted stream before its entry is written back. -/
def stopped (s : State) (n cause : Nat) : State :=
  (((s.modStream n (fun x => x.stopAs .halted)).event 0x0306 n cause).irqCause n).raiseIrq n

theorem haltStream_live {s : State} {n : Nat} (h : (s.stream n).live = true) (cause : Nat) :
    s.haltStream n cause = (stopped s n cause).writeBack n := by
  simp [State.haltStream, h, stopped]

section
variable (s : State) (n cause : Nat)

theorem stream_stopped : ∃ a b, (stopped s n cause).stream n = { (s.stream n).stopAs .halted with irqWant := a, irqDone := b } := by
  obtain ⟨a, b, hraise⟩ := stream_raiseIrq (((s.modStream n (fun x => x.stopAs .halted)).event 0x0306 n cause).irqCause n) n
  obtain ⟨w, hcause⟩ := stream_irqCause ((s.modStream n (fun x => x.stopAs .halted)).event 0x0306 n cause) n
  refine ⟨a, b, ?_⟩
  rw [stopped, hraise, hcause, stream_event, State.stream_modStream_self]

theorem byte_stopped (x : Nat) : (stopped s n cause).byte x = s.byte x := by simp [stopped, State.byte, State.irqCause]
theorem entryAddr_stopped : entryAddr (stopped s n cause) n = entryAddr s n := by simp [stopped, State.irqCause]
theorem stopped_parts : (stopped s n cause).parts = s.parts := by simp [stopped, State.irqCause]

end

section
variable {s : State} {n : Nat} (h : (s.stream n).live = true)
include h

theorem actHalt_live : s.actHalt n = ((stopped s n 1).writeBack n).scmdStatus .ok := by
  rw [State.actHalt, if_pos h, haltStream_live h]

theorem stream_actHalt : ∃ a b, (s.actHalt n).stream n = { (s.stream n).stopAs .halted with irqWant := a, irqDone := b } := by
  obtain ⟨a, b, hstream⟩ := stream_stopped s n 1
  exact ⟨a, b, by rw [actHalt_live h, stream_scmdStatus, stream_writeBack, hstream]⟩

theorem memSameBut_actHalt : s.MemSameBut (s.actHalt n) (entryAddr s n) 64 := by
  intro x hx
  rw [actHalt_live h, byte_scmdStatus, memSameBut_writeBack, byte_stopped]
  rwa [entryAddr_stopped]

theorem actHalt_status : (s.actHalt n).stm.status = .ok := by rw [actHalt_live h]; rfl

theorem actHalt_parts : (s.actHalt n).parts = s.parts := by
  rw [actHalt_live h, scmdStatus_parts, writeBack_parts, stopped_parts]

end

/-! ## DISARM (R274, R276) -/

/-- The held records that DISARM drops are counted (10 R321). -/
def heldDropped (s : State) (n : Nat) : State := (List.replicate (s.stream n).heldUnacked 0).foldl (fun s _ => s.event 0x0406 0 n) s

theorem apart_heldDropped (s : State) (n : Nat) : apart (heldDropped s n) = apart s :=
  keeps_foldl apart (fun s _ => apart_event s 0x0406 0 n) _ s

theorem byte_heldDropped (s : State) (n x : Nat) : (heldDropped s n).byte x = s.byte x :=
  keeps_foldl (State.byte · x) (fun s _ => byte_event s 0x0406 0 n x) _ s

/-- What DISARM leaves of a stream. -/
def disarmed (x : Stream) : Stream :=
  { (x.stopAs .idle) with
      cached := 0, held := 0, heldUnacked := 0, heldIrq := [], inflight := [], irqWant := false, irqBatches := [], heldWait := none,
      reload := none, waited := none }

section
variable {s : State} {n : Nat}

theorem actDisarm_done (hidle : (s.stream n).state ≠ .idle) (hrun : (s.stream n).state ≠ .running) (hcmds : (s.stream n).cmds = []) :
    s.actDisarm n = (((((heldDropped s n).poolBy n (-((s.stream n).credits.toNat : Int))).modStream n disarmed).scmdStatus .ok).writeBack n) := by
  have hmay : ((s.stream n).state == .armed || (s.stream n).state == .halted || (s.stream n).state == .hostLost
      || (s.stream n).state == .faulted) = true := by
    revert hidle hrun
    cases (s.stream n).state <;> decide
  simp only [State.actDisarm, hmay, hcmds, List.isEmpty_nil, Bool.and_self, if_true]
  rfl

theorem actDisarm_refused (hcmds : (s.stream n).cmds ≠ []) : s.actDisarm n = s.actionRefused n .bound := by
  simp [State.actDisarm, hcmds]

section
variable (hidle : (s.stream n).state ≠ .idle) (hrun : (s.stream n).state ≠ .running) (hcmds : (s.stream n).cmds = [])
include hidle hrun hcmds

theorem stream_actDisarm : (s.actDisarm n).stream n = disarmed (s.stream n) := by
  rw [actDisarm_done hidle hrun hcmds, stream_writeBack, stream_scmdStatus, State.stream_modStream_self, stream_poolBy,
    stream_of_apart (apart_heldDropped s n)]

theorem actDisarm_status : (s.actDisarm n).stm.status = .ok := by
  rw [actDisarm_done hidle hrun hcmds, writeBack_stm]
  rfl

theorem memSameBut_actDisarm : s.MemSameBut (s.actDisarm n) (entryAddr s n) 64 := by
  intro x hx
  rw [actDisarm_done hidle hrun hcmds, memSameBut_writeBack, byte_scmdStatus, byte_modStream, byte_poolBy, byte_heldDropped]
  simpa [entryAddr_of_apart (apart_heldDropped s n)]

end

end

/-! ## RELOAD (R276) -/

theorem byteAt_lt (l : List Byte) (i : Nat) : byteAt l i < 256 := (l.getD i 0).isLt

theorem limit_lt (x : Stream) : x.limit < 256 := by
  have hcredits : x.credits.toNat < 256 := x.credits.isLt
  unfold Stream.limit
  split
  · exact Nat.lt_of_le_of_lt (Nat.min_le_left ..) hcredits
  · exact hcredits

/-- What RELOAD takes from an entry, for the next admission window; the limit of admission until then. -/
def reread (x : Stream) (e : List Byte) : StreamCtl :=
  { prio := BitVec.ofNat 2 (byteAt e 3), gang := BitVec.ofNat 16 (bytesN e 4 2), credits := BitVec.ofNat 8 x.limit,
    msixEn := bitAt (bytesN e 0x12 2) 15, vector := BitVec.ofNat 11 (bytesN e 0x12 2) }

/-- What RELOAD makes of a stream. -/
def reloaded (e : List Byte) (r : StreamCtl) (x : Stream) : Stream := { x with credits := BitVec.ofNat 8 (byteAt e 6), reload := some r }

/-- No more commands may be admitted than before (R276). -/
theorem limit_reloaded (x : Stream) (e : List Byte) : (reloaded e (reread x e) x).limit ≤ x.limit := by
  have hlimit : (BitVec.ofNat 8 x.limit).toNat = x.limit := by
    rw [BitVec.toNat_ofNat, Nat.mod_eq_of_lt (limit_lt x)]
  show Min.min _ (BitVec.ofNat 8 x.limit).toNat ≤ _
  rw [hlimit]
  exact Nat.min_le_right ..

/-- An admission window puts in force what RELOAD took up. -/
theorem stream_takeReload {s : State} {n : Nat} {r : StreamCtl} (h : (s.stream n).reload = some r) : (s.takeReload n).stream n =
    { s.stream n with prio := r.prio, gang := r.gang, msixEn := r.msixEn, vector := r.vector, reload := none } := by
  rw [State.takeReload, h, State.stream_modStream_self]

section
variable {s : State} {n : Nat}

theorem actReload_idle (h : (s.stream n).state = .idle) : s.actReload n = s.actionRefused n .bound := by
  simp [State.actReload, h]

theorem actReload_done (hidle : (s.stream n).state ≠ .idle) (hmem : locate s (entryAddr s n) = .mem) {e : List Byte}
    (he : s.rd (entryAddr s n) 64 = e) (hcred : byteAt e 6 ≠ 0) (hprio : byteAt e 3 < 4) (hzero : fieldNat (bytesN e 0x12 2) 14 11 = 0)
    (hcmds : (s.stream n).cmds.length ≤ byteAt e 6) :
    s.actReload n =
      ((s.modStream n (reloaded e (reread (s.stream n) e))).poolBy n ((byteAt e 6 : Int) - (s.stream n).credits.toNat)).scmdStatus .ok := by
  have hprio' : ¬ 4 ≤ byteAt e 3 := Nat.not_le_of_lt hprio
  have hcmds' : ¬ byteAt e 6 < (s.stream n).cmds.length := Nat.not_lt_of_le hcmds
  unfold State.actReload
  simp only [he, hidle, hmem, hcred, hprio', hzero, hcmds', beq_iff_eq, bne_self_eq_false, Bool.false_eq_true, ne_eq, decide_false,
    not_true_eq_false, Bool.or_self, if_false]
  rfl

end

/-- Beside STM and the pools RELOAD changes nothing. -/
theorem actReload_spec {s : State} {n : Nat} {f : Stream → Stream} {delta : Int}
    (h : (selected s n).actReload n = (((selected s n).modStream n f).poolBy n delta).scmdStatus .ok) :
    ((selected s n).actReload n).stm.status = .ok ∧ let t := ((selected s n).actReload n).useEntry n
      t = { s with stm := t.stm, parts := t.parts } := by
  rw [h]
  exact ⟨rfl, stm_parts_frame (by simp [selected]) (by simp [selected]) (by simp [selected]) (by simp [selected])⟩

/-! ## QUERY (R302) -/

/-- STM_SINFO from its fields. -/
def packInfo (code pinned k range part n cmds limit head : Nat) : Nat :=
  code * 2 ^ 56 + pinned * 2 ^ 55 + k * 2 ^ 53 + range * 2 ^ 52 + part * 2 ^ 46 + n * 2 ^ 32 + cmds * 2 ^ 24 + limit * 2 ^ 16 + head

/-- Every field of STM_SINFO can be read from it. -/
theorem packInfo_fields {code pinned k range part n cmds limit head : Nat} (hcode : code < 256) (hpinned : pinned < 2) (hk : k < 4)
    (hrange : range < 2) (hpart : part < 64) (hn : n < 16384) (hcmds : cmds < 256) (hlimit : limit < 256) (hhead : head < 65536) :
    let v := (BitVec.ofNat 64 (packInfo code pinned k range part n cmds limit head)).toNat
    v / 2 ^ 56 = code ∧ v / 2 ^ 32 % 16384 = n ∧ v / 2 ^ 16 % 256 = limit ∧ v % 65536 = head := by
  have hfits : packInfo code pinned k range part n cmds limit head < 2 ^ 64 := by
    unfold packInfo
    omega
  intro v
  have hv : v = packInfo code pinned k range part n cmds limit head := by
    rw [← Nat.mod_eq_of_lt hfits]
    exact BitVec.toNat_ofNat ..
  rw [hv, packInfo]
  omega

/-- STM_SINFO as QUERY fills it. -/
def queryInfo (s : State) (n : Nat) : Nat :=
  let x := s.stream n
  let r := rangeOf s n
  packInfo x.state.code (b2n (r.any (·.pinned))) (match r with | some r => r.k.toNat | none => 0) (b2n r.isSome)
    (match r with | some r => r.part | none => 0) n x.cmds.length x.limit x.head.toNat

theorem actQuery_status (s : State) (n : Nat) : (s.actQuery n).stm.status = .ok := rfl
theorem actQuery_sinfo (s : State) (n : Nat) : (s.actQuery n).stm.sinfo = BitVec.ofNat 64 (queryInfo s n) := rfl

theorem b2n_lt (b : Bool) : b2n b < 2 := by cases b <;> decide

theorem queryInfo_fields {s : State} {n : Nat} (hn : n < 16384) (hcmds : (s.stream n).cmds.length < 256)
    (hpart : ∀ r, rangeOf s n = some r → r.part < 64) :
    let v := (BitVec.ofNat 64 (queryInfo s n)).toNat
    v / 2 ^ 56 = (s.stream n).state.code ∧ v / 2 ^ 32 % 16384 = n ∧ v / 2 ^ 16 % 256 = (s.stream n).limit ∧
      v % 65536 = (s.stream n).head.toNat := by
  have hcode : (s.stream n).state.code < 256 := by cases (s.stream n).state <;> decide
  cases hrange : rangeOf s n with
  | none =>
    simp only [queryInfo, hrange]
    exact packInfo_fields hcode (b2n_lt _) (by decide) (b2n_lt _) (by decide) hn hcmds (limit_lt _) (BitVec.isLt _)
  | some r =>
    simp only [queryInfo, hrange]
    exact packInfo_fields hcode (b2n_lt _) r.k.isLt (b2n_lt _) (hpart r hrange) hn hcmds (limit_lt _) (BitVec.isLt _)

/-! ## The statement -/

/-- Settles O22: each clause is the action on the state with STREAM set (`selected`), with the entry used before or after it. -/
theorem streamActions : Obligations.StreamActions := by
  refine ⟨fun s n hs hn hidle hmem => ⟨fun hok => ?_, fun hbad => ?_⟩, fun s n hs hn hlive => ?_, fun s n hs hn hidle hrun hcmds => ?_,
    fun s n hs hn hcmds => ?_, fun s n hs hn hidle hmem => ?_, fun s n hs hn hidle => ?_,
    fun s n hs hn hcmds hpart => ?_, fun s n hs hn => ⟨exec_scmdSetStream hs hn, fun a ha => exec_reservedAction hs hn ha⟩⟩
  · have hstream := stream_actArm (s := selected s n) hidle hmem hok
    have hstatus := actArm_status (s := selected s n) hidle hmem hok
    have hbytes := memSameBut_actArm (s := selected s n) hidle hmem hok
    obtain ⟨c, hc⟩ := stream_useEntry ((selected s n).actArm n) n n
    refine ⟨_, exec_arm hs hn, ?_⟩
    rw [hc, hstream]
    exact ⟨rfl, rfl, rfl, rfl, rfl, (useEntry_status ..).trans hstatus, fun x hx => (byte_useEntry ..).trans (hbytes x hx)⟩
  · have hdone := actArm_failed (s := selected s n) hidle hmem hbad
    obtain ⟨hstate, hstatus, herror, hparts, hbytes⟩ := refused_useEntry (refused_actionRefused (selected s n) n .badStream)
    rw [← hdone] at hstate hstatus herror hparts hbytes
    exact ⟨_, exec_arm hs hn, hstate.trans hidle, hstatus, herror, hparts, hbytes⟩
  · obtain ⟨a, b, hstream⟩ := stream_actHalt (s := selected s n) hlive
    have hstatus := actHalt_status (s := selected s n) hlive
    have hbytes := memSameBut_actHalt (s := selected s n) hlive
    have hparts := actHalt_parts (s := selected s n) hlive
    obtain ⟨c, hc⟩ := stream_useEntry ((selected s n).actHalt n) n n
    refine ⟨_, exec_halt hs hn, ?_⟩
    rw [hc, hstream]
    exact ⟨rfl, rfl, rfl, (useEntry_status ..).trans hstatus, fun x hx => (byte_useEntry ..).trans (hbytes x hx),
      (useEntry_parts ..).trans hparts⟩
  · obtain ⟨c, hc⟩ := stream_useEntry (selected s n) n n
    have hidle' : (((selected s n).useEntry n).stream n).state ≠ .idle := by rw [hc]; exact hidle
    have hrun' : (((selected s n).useEntry n).stream n).state ≠ .running := by rw [hc]; exact hrun
    have hcmds' : (((selected s n).useEntry n).stream n).cmds = [] := by rw [hc]; exact hcmds
    have hbytes := memSameBut_actDisarm hidle' hrun' hcmds'
    rw [entryAddr_useEntry] at hbytes
    refine ⟨_, exec_disarm hs hn, ?_, actDisarm_status hidle' hrun' hcmds', fun x hx => (hbytes x hx).trans (byte_useEntry ..)⟩
    rw [stream_actDisarm hidle' hrun' hcmds']
    rfl
  · obtain ⟨c, hc⟩ := stream_useEntry (selected s n) n n
    have hcmds' : (((selected s n).useEntry n).stream n).cmds ≠ [] := by rw [hc]; exact hcmds
    obtain ⟨hstate, hstatus, -⟩ := refused_actionRefused ((selected s n).useEntry n) n .bound
    refine ⟨_, (exec_disarm hs hn).trans (congrArg _ (actDisarm_refused hcmds')), hstate.trans ?_, hstatus⟩
    rw [hc]
    rfl
  · intro e hcred hprio hzero hcmds
    have hdone := actReload_done (s := selected s n) hidle hmem (e := e) rfl hcred hprio hzero hcmds
    obtain ⟨hstatus, hframe⟩ := actReload_spec hdone
    obtain ⟨c, hc⟩ := stream_useEntry ((selected s n).actReload n) n n
    have hstream : (((selected s n).actReload n).useEntry n).stream n =
        { reloaded e (reread (s.stream n) e) (s.stream n) with cached := c } := by
      rw [hc, hdone, stream_scmdStatus, stream_poolBy, State.stream_modStream_self]
      rfl
    have hcredits : (BitVec.ofNat 8 (byteAt e 6)).toNat = byteAt e 6 := Nat.mod_eq_of_lt (byteAt_lt e 6)
    refine ⟨_, exec_reload hs hn, ?_⟩
    rw [stream_takeReload (congrArg Stream.reload hstream), hstream]
    exact ⟨rfl, limit_reloaded _ e, rfl, rfl, rfl, (useEntry_status ..).trans hstatus, hframe, rfl, hcredits, rfl, rfl, rfl, rfl⟩
  · obtain ⟨hstate, hstatus, -⟩ := refused_useEntry (refused_actionRefused (selected s n) n .bound)
    rw [← actReload_idle (s := selected s n) hidle] at hstate hstatus
    exact ⟨_, exec_reload hs hn, hstatus, hstate.trans hidle⟩
  · obtain ⟨hstate, hstream, hlimit, hhead⟩ := queryInfo_fields hn hcmds hpart
    have hsinfo : (((selected s n).actQuery n).useEntry n).stm.sinfo = BitVec.ofNat 64 (queryInfo s n) :=
      (useEntry_sinfo ..).trans (actQuery_sinfo ..)
    refine ⟨_, exec_query hs hn, (useEntry_status ..).trans (actQuery_status ..), ?_, ?_, ?_, ?_, fun k => ?_, useEntry_frame ..⟩
    · rw [hsinfo, hstate]
    · rw [hsinfo, hstream]
    · rw [hsinfo, hlimit]
    · rw [hsinfo, hhead]
    · obtain ⟨c, hc⟩ := stream_useEntry ((selected s n).actQuery n) n k
      rw [hc]
      rfl

end Sys2Proof.Proofs.Streams
end

section
/-! SUPPORT. A completion ring without room (09 R282, R299): what waits there is marked and kept. The statement `CompletionDoorbell`. -/
namespace Sys2Proof.Proofs.Streams
open Sys2Proof Sys2Proof.Machine

/-! ## What a full ring keeps -/

/-- A stream's record without its commands and the marks of waiting and of interrupts. -/
def unmarked (x : Stream) : Stream := { x with cmds := [], heldWait := none, irqBatches := [], irqWant := false, irqDone := false }

/-- Memory, the partitions, and of stream `n` its record without marks and the number of its commands. -/
def kept (s : State) (n : Nat) : Mem × Tbl Part × Stream × Nat := (s.mem, s.parts, unmarked (s.stream n), (s.stream n).cmds.length)

theorem kept_modStream (s : State) (n : Nat) {f : Stream → Stream}
    (hf : ∀ x, unmarked (f x) = unmarked x ∧ (f x).cmds.length = x.cmds.length) : kept (s.modStream n f) n = kept s n := by
  obtain ⟨hmark, hlen⟩ := hf (s.stream n)
  simp only [kept, State.stream_modStream_self, State.modStream_mem, State.modStream_parts, hmark, hlen]

theorem kept_modCmd (s : State) (n : Nat) (seq : BitVec 16) (f : Cmd → Cmd) : kept (s.modCmd n seq f) n = kept s n :=
  kept_modStream s n fun _ => ⟨rfl, List.length_map ..⟩

theorem kept_raiseIrq (s : State) (n : Nat) : kept (s.raiseIrq n) n = kept s n := by
  obtain ⟨a, b, hstream⟩ := stream_raiseIrq s n
  simp only [kept, raiseIrq_mem, raiseIrq_parts, hstream]
  rfl

theorem kept_raiseBatches (s : State) (n : Nat) : kept (s.raiseBatches n) n = kept s n := by
  rw [State.raiseBatches, kept_raiseIrq]
  split
  · rfl
  · exact kept_modStream s n fun _ => ⟨rfl, rfl⟩

section
variable {s t : State} {n : Nat} (h : kept t n = kept s n)
include h

theorem mem_of_kept : t.mem = s.mem := (congrArg (·.1) h :)
theorem parts_of_kept : t.parts = s.parts := (congrArg (·.2.1) h :)
theorem ptail_of_kept : (t.stream n).ptail = (s.stream n).ptail := (congrArg (·.2.2.1.ptail) h :)
theorem inflight_of_kept : (t.stream n).inflight = (s.stream n).inflight := (congrArg (·.2.2.1.inflight) h :)
theorem lseq_of_kept : (t.stream n).lseq = (s.stream n).lseq := (congrArg (·.2.2.1.lseq) h :)
theorem length_of_kept : (t.stream n).cmds.length = (s.stream n).cmds.length := (congrArg (·.2.2.2) h :)

end

/-! ## A full ring -/

/-- The ring of stream `n` is full, with no record in flight, and the host is not lost. -/
def RingFull (s : State) (n : Nat) : Prop :=
  (s.stream n).state ≠ .hostLost ∧ (s.stream n).inflight = [] ∧
    ((s.stream n).ptail.toNat + 1) % 2 ^ (s.stream n).plog2 = (s.stream n).phead.toNat

theorem ringFull_of_kept {s t : State} {n : Nat} (h : kept t n = kept s n) (hfull : RingFull s n) : RingFull t n :=
  (congrArg (fun u => u.2.2.1.state ≠ .hostLost ∧ u.2.2.1.inflight = [] ∧
    (u.2.2.1.ptail.toNat + 1) % 2 ^ u.2.2.1.plog2 = u.2.2.1.phead.toNat) h :).mpr hfull

section
variable {s : State} {n : Nat} (hfull : RingFull s n)
include hfull

theorem RingFull.ringFull : (s.stream n).ringFull = true := by
  obtain ⟨-, hinflight, hroom⟩ := hfull
  rw [Stream.ringFull, hinflight]
  exact decide_eq_true hroom

/-- A held record is marked as waiting (10 R321). -/
theorem kept_sendHeld (k i : Nat) : kept (s.sendHeld n k i) n = kept s n := by
  cases k with
  | zero => rfl
  | succ k =>
    unfold State.sendHeld
    dsimp only
    rw [if_pos hfull.ringFull]
    exact kept_modStream s n fun _ => ⟨rfl, rfl⟩

/-- A try that writes nothing: at most it marks a command as waiting (R299). -/
def MarksOnly (s : State) (n : Nat) : RecTry → Prop
  | .no => True
  | .sent t => kept t n = kept s n
  | .final _ => False

theorem tryRecord_full (dp : Bool) : MarksOnly s n (s.tryRecord n dp) := by
  unfold State.tryRecord
  dsimp only
  split
  · trivial
  · split
    · trivial
    · split
      · split
        case isTrue hlost => exact absurd (by simpa using hlost) hfull.1
        case isFalse =>
          rw [if_pos hfull.ringFull]
          split
          · trivial
          · split
            · trivial
            · exact kept_modStream s n fun _ => ⟨rfl, List.length_map ..⟩
      · trivial

end

theorem kept_writeRecords (dp : Bool) (fuel : Nat) {s : State} {n : Nat} (hfull : RingFull s n) :
    kept (State.writeRecords dp fuel s n) n = kept s n := by
  induction fuel generalizing s with
  | zero => rfl
  | succ fuel ih =>
    have hmarks := tryRecord_full hfull dp
    unfold State.writeRecords
    split
    · rfl
    · next h => rw [h] at hmarks; exact (ih (ringFull_of_kept hmarks hfull)).trans hmarks
    · next h => rw [h] at hmarks; exact hmarks.elim

/-- Nothing is written into a full ring at a decision point. -/
theorem kept_records {s : State} {n : Nat} (hfull : RingFull s n) : kept (s.records n) n = kept s n := by
  unfold State.records
  dsimp only
  rw [kept_raiseBatches]
  split
  · have hheld := kept_sendHeld hfull ((s.stream n).heldUnacked - (s.stream n).inflight.length)
      ((s.stream n).held - ((s.stream n).heldUnacked - (s.stream n).inflight.length))
    exact (kept_writeRecords true 600 (ringFull_of_kept hheld hfull)).trans hheld
  · exact kept_writeRecords true 600 hfull

/-- A command that completes while the ring is full is kept, its credit with it. -/
theorem kept_completeNow {s : State} {n : Nat} (hfull : RingFull s n) (c : Cmd) (st : Status) (result : W64) :
    kept (s.completeNow n c st result) n = kept s n := by
  have hdone := kept_modCmd s n c.seq (fun d => d.finish st 0 result c.tick)
  rw [State.completeNow, State.recordsNow, kept_raiseBatches]
  exact (kept_writeRecords false 600 (ringFull_of_kept hdone hfull)).trans hdone

theorem exec_nop {s : State} {n : Nat} {c : Cmd} (hs : s.alive = true) (hnext : nextOf s n 0 = some c) :
    exec (.nop n) s = .next (s.completeNow n c .ok 0) := by
  have harm : exec (.nop n) s = execNop n s := rfl
  rw [harm, execNop, State.live_of_alive hs, hnext]
  rfl

/-- Settles O20: an accepted doorbell is `accepted` with the new PHEAD; of a full ring, what `kept` names stays. -/
theorem completionDoorbell : Obligations.CompletionDoorbell := by
  refine ⟨fun s n i hs hn hi => ⟨fun hstate hindex => ?_, fun hbad => ?_⟩, fun s n hstate hinflight hroom => ?_,
    fun s n c hs hnext hcmds hinflight _ _ hstate hroom => ?_⟩
  · obtain ⟨c, hstream⟩ := stream_accepted s n (fun x => { x with phead := BitVec.ofNat 16 i })
    refine ⟨_, (exec_completionHeadDoorbell hs hn hi).trans (congrArg _ (headDoorbell_accepted hstate hindex)), ?_⟩
    rw [hstream]
    exact ⟨rfl, rfl, rfl, memSameBut_accepted s n _, accepted_evr s n _, accepted_frame ..⟩
  · exact (exec_completionHeadDoorbell hs hn hi).trans (congrArg _ (headDoorbell_ignored hbad))
  · have h := kept_records ⟨hstate, hinflight, hroom⟩
    exact ⟨mem_of_kept h, ptail_of_kept h, (inflight_of_kept h).trans hinflight, lseq_of_kept h, length_of_kept h, parts_of_kept h⟩
  · have hlost : (s.stream n).state ≠ .hostLost := by rw [hstate]; decide
    have h := kept_completeNow ⟨hlost, hinflight, hroom⟩ c .ok 0
    exact ⟨_, exec_nop hs hnext, mem_of_kept h, (length_of_kept h).trans (by rw [hcmds]; rfl), lseq_of_kept h, parts_of_kept h⟩

end Sys2Proof.Proofs.Streams
end

section
/-! SUPPORT. Commands that complete at their admission tick (09 R286, R293, R294): the record, the credit, the counter and the interrupt
(R298, R300), and the statement `CommandCompletions`. -/
namespace Sys2Proof.Proofs.Streams
open Sys2Proof Sys2Proof.Machine Sys2Proof.Proofs.Registers

/-! ## Reads of memory -/

theorem rdBytes_congr {m m' : Mem} {a k : Nat} (h : ∀ x, a ≤ x → x < a + k → tget 0 m' x = tget 0 m x) : rdBytes m' a k = rdBytes m a k := by
  induction k generalizing a with
  | zero => rfl
  | succ k ih => rw [rdBytes, rdBytes, h a (by omega) (by omega), ih fun x hlo hhi => h x (by omega) (by omega)]

theorem rd_congr {s t : State} {a k : Nat} (h : ∀ x, a ≤ x → x < a + k → t.byte x = s.byte x) : t.rd a k = s.rd a k := rdBytes_congr h

theorem length_recordBytes {c : Cmd} (h : c.bytes.length = 64) (n : Nat) (rph : Bool) (st : Status) (reason : BitVec 8) (result : W64)
    (tick : Nat) : (recordBytes n rph c st reason result tick).length = 32 := by
  simp [recordBytes, h]

/-! ## The oldest command finishes (R278, R279) -/

/-- What the partition has again once the command gives back its place in the slot table. -/
def returned (n : Nat) (d : Cmd) (had : Bool) (q : Part) : Part :=
  { q with slots := q.slots.filter (fun u => !(u.stream = n && u.seq = d.seq)), redFree := q.redFree + (if had then 4 else 0),
           pageFree := q.pageFree + d.refs }

/-- The command holds a place in the slot table of the partition. -/
def holdsSlot (u : State) (n p : Nat) (d : Cmd) : Bool := (u.part p).slots.any (fun u => u.stream = n && u.seq = d.seq)

/-- A command without pins that is no DMA returns only its place in the slot table. -/
theorem releaseHoldings_plain {d : Cmd} (hop : opOf d ≠ 2) (hpins : d.pins = []) (u : State) (n p : Nat) :
    u.releaseHoldings n p d = u.modPart p (returned n d (holdsSlot u n p d)) := by
  unfold opOf at hop
  simp only [State.releaseHoldings, if_neg hop, hpins, List.foldl_nil]
  rfl

/-- What a stream is once the record of its only command is written. -/
def finished (d : Cmd) (x : Stream) : Stream :=
  { x with cmds := [], lseq := d.seq, completed := x.completed + 1, state := if x.state == .running then .armed else x.state }

section
variable {u : State} {n : Nat} {d : Cmd} (hcmds : (u.stream n).cmds = [d]) (hrange : (u.stream n).inRange = true) (hop : opOf d ≠ 2)
  (hpins : d.pins = [])
include hcmds hrange hop hpins

theorem finishHead_only : let p := (u.stream n).part.toNat
    u.finishHead n = (((u.modPart p (returned n d (holdsSlot u n p d))).modPart p (fun q => { q with credFree := q.credFree + 1 })).modStream n
      (finished d)).writeBack n := by
  simp only [State.finishHead, hcmds, hrange, if_true, releaseHoldings_plain hop hpins, List.isEmpty_nil, Bool.and_true]
  rfl

theorem stream_finishHead : (u.finishHead n).stream n = finished d (u.stream n) := by
  rw [finishHead_only hcmds hrange hop hpins, stream_writeBack, State.stream_modStream_self]
  rfl

/-- The credit returns (R279). -/
theorem credFree_finishHead :
    ((u.finishHead n).part (u.stream n).part.toNat).credFree = (u.part (u.stream n).part.toNat).credFree + 1 := by
  rw [finishHead_only hcmds hrange hop hpins, part_writeBack, part_modStream, State.part_modPart_self, State.part_modPart_self]
  rfl

theorem memSameBut_finishHead : u.MemSameBut (u.finishHead n) (entryAddr u n) 64 := by
  intro x hx
  rw [finishHead_only hcmds hrange hop hpins, memSameBut_writeBack _ n x (by simpa using hx), byte_modStream, byte_modPart,
    byte_modPart]

theorem finishHead_hlk : (u.finishHead n).hlk = u.hlk := by
  rw [finishHead_only hcmds hrange hop hpins, writeBack_hlk, State.modStream_hlk, State.modPart_hlk, State.modPart_hlk]

theorem beside_finishHead : beside (u.finishHead n) = beside u := by
  rw [finishHead_only hcmds hrange hop hpins, beside_writeBack, beside_modStream, beside_modPart, beside_modPart]

end

/-! ## The record (R298, R299) -/

/-- The batches that make a cause once a record has been written (R300). -/
def batches (x : Stream) (irq : Bool) : List Nat :=
  if irq && x.msixEn && !x.irqBatches.contains x.batch then x.irqBatches ++ [x.batch] else x.irqBatches

theorem batchIrq_eq (x : Stream) (irq : Bool) : x.batchIrq irq = { x with irqBatches := batches x irq } := by
  unfold Stream.batchIrq batches
  split <;> rfl

/-- PTAIL advances round the ring (R298). -/
theorem ptail_advancePtail {x : Stream} (hlog : x.plog2 ≤ 16) (hptail : x.ptail.toNat < 2 ^ x.plog2) :
    x.advancePtail.ptail.toNat = (x.ptail.toNat + 1) % 2 ^ x.plog2 := by
  have hsize : 2 ^ x.plog2 ≤ 2 ^ 16 := Nat.pow_le_pow_right (by decide) hlog
  by_cases hlast : x.ptail.toNat + 1 = 2 ^ x.plog2
  · simp [Stream.advancePtail, hlast]
  · have hnext : x.ptail.toNat + 1 < 2 ^ x.plog2 := by omega
    have hone : (1 : BitVec 16).toNat = 1 := rfl
    simp only [Stream.advancePtail, hlast, if_false, Nat.mod_eq_of_lt hnext, BitVec.toNat_add, hone]
    omega

/-- The record `b` of the oldest command stands at PTAIL; the command has not finished. -/
def recordWritten (s : State) (n : Nat) (b : List Byte) (irq : Bool) : State :=
  (((s.wr (recordAt s n) b).modStream n (fun x => x.advancePtail.batchIrq irq)).writeTail n).useEntry n

section
variable (s : State) (n : Nat) (b : List Byte) (irq : Bool)

theorem stream_recordWritten : ∃ c, (recordWritten s n b irq).stream n =
    { (s.stream n).advancePtail with irqBatches := batches (s.stream n) irq, cached := c } := by
  obtain ⟨c, hc⟩ := stream_useEntry (((s.wr (recordAt s n) b).modStream n (fun x => x.advancePtail.batchIrq irq)).writeTail n) n n
  refine ⟨c, ?_⟩
  rw [recordWritten, hc, stream_writeTail, State.stream_modStream_self, batchIrq_eq]
  rfl

@[simp] theorem entryAddr_recordWritten : entryAddr (recordWritten s n b irq) n = entryAddr s n := by
  rw [recordWritten, entryAddr_useEntry, entryAddr_writeTail, entryAddr_modStream]
  rfl

theorem byte_recordWritten {x : Nat} (hx : x < entryAddr s n ∨ entryAddr s n + 64 ≤ x) :
    (recordWritten s n b irq).byte x = (s.wr (recordAt s n) b).byte x := by
  rw [recordWritten, byte_useEntry, memSameBut_writeTail _ n x (by simpa [entryAddr] using hx), byte_modStream]

theorem part_recordWritten (p : Nat) : (recordWritten s n b irq).part p = s.part p := by
  rw [recordWritten, part_useEntry, part_writeTail, part_modStream]
  rfl

theorem recordWritten_hlk : (recordWritten s n b irq).hlk = s.hlk := by simp [recordWritten]
theorem beside_recordWritten : beside (recordWritten s n b irq) = beside s := by simp [recordWritten]

end

/-- A record that ends with a status other than OK or with the INTERRUPT flag makes its batch a cause (R300). -/
def wantsIrq (d : Cmd) (st : Status) : Bool := decide (st ≠ .ok) || bitAt (byteAt d.bytes 1) 0

/-- The record stands and the command is finished. -/
def recordDone (s : State) (n : Nat) (d : Cmd) (st : Status) (result : W64) (tick : Nat) : State :=
  (recordWritten s n (recordBytes n (s.stream n).rph d st 0 result tick) (wantsIrq d st)).finishHead n

theorem tryRecord_none {s : State} {n : Nat} (h : (s.stream n).cmds = []) (dp : Bool) : s.tryRecord n dp = .no := by
  unfold State.tryRecord
  dsimp only
  split
  · rfl
  · rw [h]
    rfl

/-! ### After the record -/

section
variable {s : State} {n : Nat} {d : Cmd} (h : loneCommand s n d)
include h

/-- The command is still the stream's only one. -/
theorem lone_recordWritten (b : List Byte) (irq : Bool) : let x := (recordWritten s n b irq).stream n
    x.cmds = [d] ∧ x.inRange = true ∧ d.pins = [] ∧ x.part = (s.stream n).part := by
  obtain ⟨-, -, hrange, hcmds, -, hpins, -⟩ := h
  obtain ⟨c, hc⟩ := stream_recordWritten s n b irq
  rw [hc]
  exact ⟨hcmds, hrange, hpins, rfl⟩

section
variable (hop : opOf d ≠ 2) (st : Status) (result : W64) (tick : Nat)
include hop

/-- The stream at the end of its only command, but for its place in the cache. -/
theorem stream_recordDone : ∃ c, (recordDone s n d st result tick).stream n =
    finished d { (s.stream n).advancePtail with irqBatches := batches (s.stream n) (wantsIrq d st), cached := c } := by
  obtain ⟨hcmds, hrange, hpins, -⟩ := lone_recordWritten h (recordBytes n (s.stream n).rph d st 0 result tick) (wantsIrq d st)
  obtain ⟨c, hc⟩ := stream_recordWritten s n (recordBytes n (s.stream n).rph d st 0 result tick) (wantsIrq d st)
  exact ⟨c, by rw [recordDone, stream_finishHead hcmds hrange hop hpins, hc]⟩

theorem byte_recordDone {x : Nat} (hx : x < entryAddr s n ∨ entryAddr s n + 64 ≤ x) : (recordDone s n d st result tick).byte x =
    (s.wr (recordAt s n) (recordBytes n (s.stream n).rph d st 0 result tick)).byte x := by
  obtain ⟨hcmds, hrange, hpins, -⟩ := lone_recordWritten h (recordBytes n (s.stream n).rph d st 0 result tick) (wantsIrq d st)
  rw [recordDone, memSameBut_finishHead hcmds hrange hop hpins x (by simpa using hx), byte_recordWritten _ _ _ _ hx]

theorem credFree_recordDone : ((recordDone s n d st result tick).part (s.stream n).part.toNat).credFree =
    (s.part (s.stream n).part.toNat).credFree + 1 := by
  obtain ⟨hcmds, hrange, hpins, hpart⟩ := lone_recordWritten h (recordBytes n (s.stream n).rph d st 0 result tick) (wantsIrq d st)
  have hcred := credFree_finishHead hcmds hrange hop hpins
  rw [hpart, part_recordWritten] at hcred
  exact hcred

theorem recordDone_hlk : (recordDone s n d st result tick).hlk = s.hlk := by
  obtain ⟨hcmds, hrange, hpins, -⟩ := lone_recordWritten h (recordBytes n (s.stream n).rph d st 0 result tick) (wantsIrq d st)
  rw [recordDone, finishHead_hlk hcmds hrange hop hpins, recordWritten_hlk]

theorem beside_recordDone : beside (recordDone s n d st result tick) = beside s := by
  obtain ⟨hcmds, hrange, hpins, -⟩ := lone_recordWritten h (recordBytes n (s.stream n).rph d st 0 result tick) (wantsIrq d st)
  rw [recordDone, beside_finishHead hcmds hrange hop hpins, beside_recordWritten]

end

end

/-! ### The records of the stream -/

section
variable {s : State} {n : Nat} {d : Cmd} {st : Status} {result : W64} {tick : Nat} (h : loneCommand s n d)
  (hphase : d.phase = .complete st 0 result tick)
include h hphase

theorem tryRecord_lone (dp : Bool) : s.tryRecord n dp = .final (recordDone s n d st result tick) := by
  obtain ⟨-, hstate, -, hcmds, -, -, hwait, hinflight, hunacked, hheld, -, -, -, hroom, -, hmem, -⟩ := h
  have hhost : ((s.stream n).state == .hostLost) = false := by rw [hstate]; rfl
  have hout : (s.stream n).outOf d.seq = 0 := by rw [Stream.outOf, hunacked]; rfl
  have hnotfull : (s.stream n).ringFull = false := by
    rw [Stream.ringFull, hinflight]
    exact decide_eq_false hroom
  have hcmd : (s.stream n).cmds[(s.stream n).inflight.length - (s.stream n).heldUnacked]? = some d := by rw [hcmds, hinflight, hheld]; rfl
  have hnone : ((s.stream n).state != .hostLost && decide ((s.stream n).inflight.length < (s.stream n).heldUnacked)) = false := by
    rw [hheld, hinflight]; simp
  have hat : locate s ((s.stream n).pring.toNat + 32 * (Stream.nextPlace ([] : List Flying).length (s.stream n)).ptail.toNat) = .mem := hmem
  unfold State.tryRecord
  dsimp only
  rw [hnone, hcmd, if_neg Bool.false_ne_true]
  dsimp only
  rw [hphase]
  dsimp only
  rw [hhost, hout, hnotfull, hwait, hinflight, if_neg Bool.false_ne_true, if_neg (Nat.lt_irrefl 0), if_neg Bool.false_ne_true,
    if_neg (by simp)]
  dsimp only
  rw [hat]
  rfl

/-- The record is written, and then there is no other to write. -/
theorem recordsNow_lone (hop : opOf d ≠ 2) : s.recordsNow n = (recordDone s n d st result tick).raiseBatches n := by
  obtain ⟨c, hc⟩ := stream_recordDone h hop st result tick
  have hnone : (recordDone s n d st result tick).tryRecord n false = .no := tryRecord_none (by rw [hc]; rfl) false
  have hwrite : State.writeRecords false (598 + 1 + 1) s n = recordDone s n d st result tick := by
    rw [State.writeRecords, tryRecord_lone h hphase]
    dsimp only
    rw [State.writeRecords, hnone]
  exact congrArg (State.raiseBatches · n) hwrite

end

section
variable (s : State) (n : Nat)

theorem raiseBatches_frame : ∃ l h, s.raiseBatches n = { s with stm := { s.stm with streams := l }, hlk := h } := by
  unfold State.raiseBatches
  split
  · exact raiseIrq_frame s n
  · obtain ⟨l, h, heq⟩ := raiseIrq_frame (s.modStream n Stream.batchDone) n
    exact ⟨l, h, heq⟩

theorem byte_raiseBatches (x : Nat) : (s.raiseBatches n).byte x = s.byte x := by
  obtain ⟨l, h, heq⟩ := raiseBatches_frame s n
  rw [heq]
  rfl
theorem part_raiseBatches (p : Nat) : (s.raiseBatches n).part p = s.part p := by
  obtain ⟨l, h, heq⟩ := raiseBatches_frame s n
  rw [heq]
  rfl
theorem beside_raiseBatches : beside (s.raiseBatches n) = beside s := by
  obtain ⟨l, h, heq⟩ := raiseBatches_frame s n
  rw [heq]
  rfl

theorem stream_raiseBatches : ∃ b w i, (s.raiseBatches n).stream n = { s.stream n with irqBatches := b, irqWant := w, irqDone := i } := by
  unfold State.raiseBatches
  split
  · obtain ⟨w, i, h⟩ := stream_raiseIrq s n
    exact ⟨_, w, i, h⟩
  · obtain ⟨w, i, h⟩ := stream_raiseIrq (s.modStream n Stream.batchDone) n
    rw [State.stream_modStream_self] at h
    exact ⟨_, w, i, h⟩

end

/-! ## The completion -/

section
variable {s : State} {n : Nat} {d : Cmd} {st : Status} {result : W64} (h : loneCommand s n d)
  (hphase : d.phase = .complete st 0 result d.tick) (hop : opOf d ≠ 2)
include h hphase hop

theorem byte_recordsNow {x : Nat} (hentry : x < entryAddr s n ∨ entryAddr s n + 64 ≤ x) : (s.recordsNow n).byte x =
    (s.wr (recordAt s n) (recordBytes n (s.stream n).rph d st 0 result d.tick)).byte x := by
  rw [recordsNow_lone h hphase hop, byte_raiseBatches, byte_recordDone h hop st result d.tick hentry]

theorem recorded_recordsNow : recorded s (s.recordsNow n) n d st result := by
  have hbytes := fun x => byte_recordsNow h hphase hop (x := x)
  have hbeside : beside (s.recordsNow n) = beside s := by
    rw [recordsNow_lone h hphase hop, beside_raiseBatches, beside_recordDone h hop]
  have hcred : ((s.recordsNow n).part (s.stream n).part.toNat).credFree = (s.part (s.stream n).part.toNat).credFree + 1 := by
    rw [recordsNow_lone h hphase hop, part_raiseBatches, credFree_recordDone h hop]
  obtain ⟨b, w, i, hraised⟩ := stream_raiseBatches (recordDone s n d st result d.tick) n
  obtain ⟨c, hdone⟩ := stream_recordDone h hop st result d.tick
  rw [hdone, ← recordsNow_lone h hphase hop] at hraised
  obtain ⟨-, hstate, -, -, hlen, -, -, -, -, -, -, hlog, hptail, -, -, -, hdisjoint⟩ := h
  have hread := State.rd_wr s (recordAt s n) (recordBytes n (s.stream n).rph d st 0 result d.tick)
  rw [length_recordBytes hlen] at hread
  refine ⟨(rd_congr fun x hlo hhi => hbytes x (by omega)).trans hread, ?_⟩
  rw [hraised]
  refine ⟨rfl, ?_, rfl, rfl, ptail_advancePtail hlog hptail, hcred, eq_of_beside hbeside⟩
  exact if_pos (beq_iff_eq.mpr hstate)

end

/-! ## Completion at the admission tick (R286, R293, R294) -/

theorem stream_modCmd_only {s : State} {n : Nat} {c : Cmd} (hcmds : (s.stream n).cmds = [c]) (f : Cmd → Cmd) :
    (s.modCmd n c.seq f).stream n = { s.stream n with cmds := [f c] } := by
  simp [State.modCmd, hcmds]

/-- The state in which command `c` has completed and its record is still to be written. -/
def completedAt (s : State) (n : Nat) (c : Cmd) (st : Status) (result : W64) : State :=
  s.modCmd n c.seq (fun d => d.finish st 0 result c.tick)

section
variable {s : State} {n : Nat} {c : Cmd} (h : loneCommand s n c) (st : Status) (result : W64)
include h

theorem stream_completedAt : (completedAt s n c st result).stream n = { s.stream n with cmds := [c.finish st 0 result c.tick] } := by
  obtain ⟨-, -, -, hcmds, -⟩ := h
  exact stream_modCmd_only hcmds _

theorem recordAt_completedAt : recordAt (completedAt s n c st result) n = recordAt s n := by
  rw [recordAt, stream_completedAt h]
  rfl

theorem loneCommand_completedAt : loneCommand (completedAt s n c st result) n (c.finish st 0 result c.tick) := by
  have hstream := stream_completedAt h st result
  have hat := recordAt_completedAt h st result
  obtain ⟨halive, hstate, hrange, -, hlen, hpins, hwait, hrest⟩ := h
  unfold loneCommand
  rw [hstream, hat]
  exact ⟨halive, hstate, hrange, rfl, hlen, hpins, hwait, hrest⟩

theorem phase_finish : (c.finish st 0 result c.tick).phase = .complete st 0 result c.tick := by
  obtain ⟨-, -, -, -, -, -, -, -, -, -, hlost, -⟩ := h
  simp [Cmd.finish, hlost, Status.lostOver]

section
variable (hop : opOf c ≠ 2)
include hop

theorem completeNow_recorded : recorded s (s.completeNow n c st result) n c st result := by
  have hdone := recorded_recordsNow (loneCommand_completedAt h st result) (phase_finish h st result) hop
  unfold recorded at hdone
  rw [stream_completedAt h, recordAt_completedAt h] at hdone
  exact hdone

/-- Beside its record and the stream's entry a command that completes leaves memory alone. -/
theorem completeNow_byte {x : Nat} (hrecord : x < recordAt s n ∨ recordAt s n + 32 ≤ x)
    (hentry : x < entryAddr s n ∨ entryAddr s n + 64 ≤ x) :
    (s.completeNow n c st result).byte x = s.byte x := by
  have hlone := loneCommand_completedAt h st result
  have hwritten := byte_recordsNow hlone (phase_finish h st result) hop hentry
  obtain ⟨-, -, -, -, hlen, -⟩ := hlone
  rw [recordAt_completedAt h] at hwritten
  exact hwritten.trans (State.memSameBut_wr _ _ _ x (by rwa [length_recordBytes hlen]))

end

end

/-! ## Interrupts (R300) -/

/-- With no command left the stream's present batch is closed. -/
theorem batchOpen_none {x : Stream} (hcmds : x.cmds = []) : x.batchOpen = false := by
  simp [Stream.batchOpen, hcmds]

theorem stream_modHlk (s : State) (f : Hlk → Hlk) (k : Nat) : (s.modHlk f).stream k = s.stream k := rfl

section
variable {u : State} {n : Nat} (hwant : (u.stream n).irqWant = false)

include hwant in
theorem raiseBatches_none (hbatches : (u.stream n).irqBatches = []) : u.raiseBatches n = u := by
  simp [State.raiseBatches, State.raiseIrq, hbatches, hwant]

/-- The only batch with a cause is complete: the vector is raised. -/
theorem raiseBatches_one (hbatches : (u.stream n).irqBatches = [(u.stream n).batch]) (hcmds : (u.stream n).cmds = [])
    (hinflight : (u.stream n).inflight = []) (hfired : (u.stream n).irqDone = false) (hneeds : u.hlk.needhs = false)
    (hlink : linkHolds u = false) :
    (u.raiseBatches n).hlk.msix = (u.stream n).vector :: u.hlk.msix ∧ ((u.raiseBatches n).stream n).irqDone = true := by
  have hdone : (u.stream n).batchDone = { u.stream n with irqBatches := [], irqWant := true } := by
    simp [Stream.batchDone, hbatches, hinflight, batchOpen_none hcmds]
  have hlink' : linkHolds (u.modStream n Stream.batchDone) = false := hlink
  have hraise : u.raiseBatches n = (u.modStream n Stream.batchDone).raiseIrq n := by simp [State.raiseBatches, hbatches]
  rw [hraise, State.raiseIrq, State.stream_modStream_self, hdone]
  simp only [hfired, hlink', State.modStream_hlk, hneeds, Bool.not_false, Bool.and_self, if_true]
  rw [stream_modHlk, State.stream_modStream_self]
  exact ⟨rfl, rfl⟩

end

/-- The command's completion raises the stream's vector if it makes a cause, and not otherwise. -/
theorem completeNow_irq {s : State} {n : Nat} {c : Cmd} (h : loneCommand s n c) (hop : opOf c ≠ 2) (hen : (s.stream n).msixEn = true)
    (hfired : (s.stream n).irqDone = false) (hwant : (s.stream n).irqWant = false) (hbatches : (s.stream n).irqBatches = [])
    (hneeds : s.hlk.needhs = false) (hlink : linkHolds s = false) (st : Status) (result : W64) :
    (s.completeNow n c st result).hlk.msix = (if wantsIrq c st then [(s.stream n).vector] else []) ++ s.hlk.msix ∧
      ((s.completeNow n c st result).stream n).irqDone = wantsIrq c st := by
  have hlone := loneCommand_completedAt h st result
  obtain ⟨k, hdone⟩ := stream_recordDone hlone hop st result c.tick
  have hhlk : _ = s.hlk := recordDone_hlk hlone hop st result c.tick
  have hnow : s.completeNow n c st result = (recordDone (completedAt s n c st result) n (c.finish st 0 result c.tick) st result
    c.tick).raiseBatches n := recordsNow_lone hlone (phase_finish h st result) hop
  have hinflight : (s.stream n).inflight = [] := by
    obtain ⟨-, -, -, -, -, -, -, hinflight, -⟩ := h
    exact hinflight
  have hbatch : batches (s.stream n) (wantsIrq c st) = if wantsIrq c st then [(s.stream n).batch] else [] := by
    simp [batches, hen, hbatches]
  rw [stream_completedAt h] at hdone
  generalize recordDone _ _ _ _ _ _ = u at hdone hhlk hnow
  rw [hnow]
  cases hirq : wantsIrq c st with
  | false =>
    rw [hirq] at hbatch
    rw [raiseBatches_none (by rw [hdone]; exact hwant) (by rw [hdone]; exact (congrArg (batches _) hirq).trans hbatch), hhlk, hdone]
    exact ⟨rfl, hfired⟩
  | true =>
    rw [hirq] at hbatch
    have hlinkU : linkHolds u = false := by rw [← hlink, linkHolds, hhlk, linkHolds]
    obtain ⟨hmsix, hraised⟩ := raiseBatches_one (u := u) (n := n) (by rw [hdone]; exact (congrArg (batches _) hirq).trans hbatch)
      (by rw [hdone]; rfl) (by rw [hdone]; exact hinflight) (by rw [hdone]; exact hfired) (by rw [hhlk]; exact hneeds) hlinkU
    rw [hdone, hhlk] at hmsix
    exact ⟨hmsix, hraised⟩

/-! ## The commands -/

theorem nextOf_lone {s : State} {n op : Nat} {c : Cmd} (h : loneCommand s n c) (hphase : c.phase = .admitted) (hop : opOf c = op) :
    nextOf s n op = some c := by
  obtain ⟨-, -, -, hcmds, -⟩ := h
  simp [nextOf, hcmds, hphase, hop]

section
variable {s : State} {n : Nat} {c : Cmd} (hs : s.alive = true)
include hs

theorem exec_fence (hnext : nextOf s n 7 = some c) : exec (.fence n) s = .next (s.completeNow n c .ok 0) := by
  have harm : exec (.fence n) s = execFence n s := rfl
  rw [harm, execFence, State.live_of_alive hs, hnext]
  rfl

theorem exec_wait (hnext : nextOf s n 9 = some c) (hin : c.timedOut = false) :
    exec (.wait n) s = .next (s.completeNow n c .ok c.waitVal) := by
  have harm : exec (.wait n) s = execWait n s := rfl
  rw [harm, execWait, State.live_of_alive hs, hnext]
  dsimp only
  rw [hin, if_neg Bool.false_ne_true]
  rfl

theorem exec_waitTimeout (hnext : nextOf s n 9 = some c) (hout : c.timedOut = true) :
    exec (.waitTimeout n) s = .next (s.completeNow n c .stopped c.waitVal) := by
  have harm : exec (.waitTimeout n) s = execWaitTimeout n s := rfl
  rw [harm, execWaitTimeout, State.live_of_alive hs, hnext]
  dsimp only
  rw [hout, if_pos rfl]
  rfl

theorem exec_signal (hnext : nextOf s n 8 = some c) : let r := s.addSignal (bytesN c.bytes 8 8) (bytesN c.bytes 0x10 8)
    exec (.signal n) s = .next (r.2.completeNow n c r.1 0) := by
  have harm : exec (.signal n) s = execSignal n s := rfl
  dsimp only
  rw [harm, execSignal, State.live_of_alive hs, hnext]
  rfl

end

/-! ### SIGNAL (R294) -/

theorem addSignal_there {s : State} {a : Nat} (h : locate s a = .mem) (v : Nat) :
    s.addSignal a v = (.ok, s.wrN a 8 ((s.rdN a 8 + v) % 2 ^ 64)) := if_pos (beq_iff_eq.mpr h)

theorem addSignal_nowhere {s : State} {a : Nat} (h : locate s a = .none) (v : Nat) : s.addSignal a v = (.busError, s.noLocation none a) :=
  if_neg (by simp [h])

section
variable {s t u : State} {n : Nat} {c : Cmd} (h : apart t = apart s)
include h

theorem loneCommand_of_apart (hlone : loneCommand s n c) : loneCommand t n c := (congrArg (loneCommand · n c) h :).mpr hlone

theorem recorded_of_apart {st : Status} {result : W64} (hdone : recorded t u n c st result) : recorded s u n c st result :=
  (congrArg (recorded · u n c st result) h :).mp hdone

end

theorem rdN_congr {s t : State} {a k : Nat} (h : ∀ x, a ≤ x → x < a + k → t.byte x = s.byte x) : t.rdN a k = s.rdN a k :=
  congrArg leNat (rdBytes_congr h)

theorem rdN_wrN (s : State) (a k v : Nat) : (s.wrN a k v).rdN a k = v % 256 ^ k := by
  have hread := State.rd_wr s a (leBytes k v)
  rw [length_leBytes] at hread
  rw [← leNat_leBytes k v, ← hread]
  rfl

theorem byte_wrN_other (s : State) {a k x : Nat} (v : Nat) (h : x < a ∨ a + k ≤ x) : (s.wrN a k v).byte x = s.byte x :=
  s.memSameBut_wr a (leBytes k v) x (by rwa [length_leBytes])

/-! ### The statement -/

theorem alive_of_lone {s : State} {n : Nat} {c : Cmd} (h : loneCommand s n c) : s.alive = true := by
  obtain ⟨hs, -⟩ := h
  exact hs

/-- A command of the module that completes `c`, which is no DMA. -/
theorem completes {s : State} {n : Nat} {c : Cmd} (h : loneCommand s n c) (hop : opOf c ≠ 2) {i : Instr} {st : Status} {result : W64}
    (hexec : exec i s = .next (s.completeNow n c st result)) : ∃ t, exec i s = .next t ∧ recorded s t n c st result ∧
      ∀ x, (x < recordAt s n ∨ recordAt s n + 32 ≤ x) → (x < entryAddr s n ∨ entryAddr s n + 64 ≤ x) → t.byte x = s.byte x :=
  ⟨_, hexec, completeNow_recorded h st result hop, fun _ hrecord hentry => completeNow_byte h st result hop hrecord hentry⟩

section
variable {s : State} {n : Nat} {c : Cmd} (h : loneCommand s n c) (hphase : c.phase = .admitted) (hop : opOf c = 8)
include h hphase hop

/-- A counter in memory, away from the record and the entry, holds the sum modulo 2^64. -/
theorem signal_there {k : Nat} (hk : bytesN c.bytes 8 8 = k) (hmem : locate s k = .mem)
    (hrecord : k + 8 ≤ recordAt s n ∨ recordAt s n + 32 ≤ k) (hentry : k + 8 ≤ entryAddr s n ∨ entryAddr s n + 64 ≤ k) :
    ∃ t, exec (.signal n) s = .next t ∧ recorded s t n c .ok 0 ∧ t.rdN k 8 = (s.rdN k 8 + bytesN c.bytes 0x10 8) % 2 ^ 64 ∧
      ∀ x, (x < recordAt s n ∨ recordAt s n + 32 ≤ x) → (x < entryAddr s n ∨ entryAddr s n + 64 ≤ x) → (x < k ∨ k + 8 ≤ x) →
        t.byte x = s.byte x := by
  have hdma : opOf c ≠ 2 := by omega
  have hexec := exec_signal (alive_of_lone h) (nextOf_lone h hphase hop)
  rw [hk, addSignal_there hmem] at hexec
  dsimp only at hexec
  generalize hv : (s.rdN k 8 + bytesN c.bytes 0x10 8) % 2 ^ 64 = v at hexec ⊢
  have hapart : apart (s.wrN k 8 v) = apart s := apart_wr ..
  have hat := recordAt_of_apart hapart n
  have hea := entryAddr_of_apart hapart n
  have hlone := loneCommand_of_apart hapart h
  have hbytes := fun x => completeNow_byte hlone .ok 0 hdma (x := x)
  rw [hat, hea] at hbytes
  refine ⟨_, hexec, recorded_of_apart hapart (completeNow_recorded hlone .ok 0 hdma), ?_,
    fun x hr he hx => (hbytes x hr he).trans (byte_wrN_other s v hx)⟩
  rw [rdN_congr fun x hlo hhi => hbytes x (by omega) (by omega), rdN_wrN]
  omega

theorem signal_nowhere (hnone : locate s (bytesN c.bytes 8 8) = .none) :
    ∃ t, exec (.signal n) s = .next t ∧ recorded s t n c .busError 0 ∧
      ∀ x, (x < recordAt s n ∨ recordAt s n + 32 ≤ x) → (x < entryAddr s n ∨ entryAddr s n + 64 ≤ x) → t.byte x = s.byte x := by
  have hdma : opOf c ≠ 2 := by omega
  have hexec := exec_signal (alive_of_lone h) (nextOf_lone h hphase hop)
  rw [addSignal_nowhere hnone] at hexec
  have hapart := apart_noLocation s none (bytesN c.bytes 8 8)
  have hat := recordAt_of_apart hapart n
  have hea := entryAddr_of_apart hapart n
  have hlone := loneCommand_of_apart hapart h
  have hbytes := fun x => completeNow_byte hlone .busError 0 hdma (x := x)
  rw [hat, hea] at hbytes
  exact ⟨_, hexec, recorded_of_apart hapart (completeNow_recorded hlone .busError 0 hdma),
    fun x hr he => (hbytes x hr he).trans (byte_event ..)⟩

end

/-- Settles O24: each of the commands is `State.completeNow`, a SIGNAL after its addition; what that does is `completeNow_recorded`,
`completeNow_byte` and `completeNow_irq`. -/
theorem commandCompletions : Obligations.CommandCompletions := by
  refine ⟨fun s n c h hphase => ?_, fun s n c h hphase hen hfired hwant hbatches hneeds hlink => ?_⟩
  · have hs := alive_of_lone h
    refine ⟨fun hop => ?_, fun hop => ?_, fun hop hin => ?_, fun hop hout => ?_, fun hop => signal_there h hphase hop rfl,
      fun hop => signal_nowhere h hphase hop⟩
    · exact completes h (by omega) (exec_nop hs (nextOf_lone h hphase hop))
    · exact completes h (by omega) (exec_fence hs (nextOf_lone h hphase hop))
    · exact completes h (by omega) (exec_wait hs (nextOf_lone h hphase hop) hin)
    · exact completes h (by omega) (exec_waitTimeout hs (nextOf_lone h hphase hop) hout)
  · have hs := alive_of_lone h
    have hirq := fun hop => completeNow_irq h hop hen hfired hwant hbatches hneeds hlink
    refine ⟨fun hop => ?_, fun hop hout => ?_⟩
    · exact ⟨_, exec_nop hs (nextOf_lone h hphase hop), hirq (by omega) .ok 0⟩
    · obtain ⟨hmsix, -⟩ := hirq (by omega) .stopped c.waitVal
      exact ⟨_, exec_waitTimeout hs (nextOf_lone h hphase hop) hout, hmsix⟩

end Sys2Proof.Proofs.Streams
end

section
/-! SUPPORT. The start of RUN, LOAD_BITSTREAM and DMA (08 R252; 09 R288, R295; 11 R325), and the statement `RunDmaLoadStart`. -/
namespace Sys2Proof.Proofs.Streams
open Sys2Proof Sys2Proof.Machine Sys2Proof.Proofs.Registers

/-! ## A command that starts -/

theorem find?_mem_cmds {s : State} {n op : Nat} {c : Cmd} (h : nextOf s n op = some c) : c ∈ (s.stream n).cmds := List.mem_of_find?_eq_some h

/-- The command of the stream with this sequence number has changed. -/
theorem modCmd_changes {s : State} {n : Nat} {c : Cmd} (h : c ∈ (s.stream n).cmds) (f : Cmd → Cmd) :
    f c ∈ ((s.modCmd n c.seq f).stream n).cmds := by
  rw [State.modCmd, State.stream_modStream_self]
  exact List.mem_map.mpr ⟨c, h, if_pos rfl⟩

theorem startCmd_started {s : State} {n op : Nat} {c : Cmd} (h : nextOf s n op = some c) :
    ∃ d ∈ ((s.startCmd n c.seq).stream n).cmds, d.seq = c.seq ∧ d.phase = .started :=
  ⟨_, modCmd_changes (find?_mem_cmds h) _, rfl, rfl⟩

section
variable {s : State} {n : Nat} {c : Cmd} (hs : s.alive = true)
include hs

theorem exec_run (hnext : nextOf s n 1 = some c) : exec (.run n) s = .next (s.runStart n c) := by
  have harm : exec (.run n) s = execRun n s := rfl
  rw [harm, execRun, State.live_of_alive hs, hnext]
  rfl

theorem exec_loadBitstream (hnext : nextOf s n 0xA = some c) : exec (.loadBitstream n) s = .next (s.loadCmd n c) := by
  have harm : exec (.loadBitstream n) s = execLoadBitstream n s := rfl
  rw [harm, execLoadBitstream, State.live_of_alive hs, hnext]
  rfl

theorem exec_dma (hnext : nextOf s n 2 = some c) : exec (.dma n) s = .next (s.dmaHere n c) := by
  have harm : exec (.dma n) s = execDma n s := rfl
  rw [harm, execDma, State.live_of_alive hs, hnext]
  rfl

/-- A RUN whose turn it is has its footprint sent to the engines (R252). -/
theorem exec_footprintPin (hfind : (s.stream n).cmds.find? Cmd.unpinned = some c) (hturn : nextPin s (s.stream n).part.toNat = some c.adm) :
    exec (.footprintPin n) s = .next ((s.advanceTo c.tick).footprintPin n c) := by
  have harm : exec (.footprintPin n) s = execFootprintPin n s := rfl
  rw [harm, execFootprintPin, State.live_of_alive hs, hfind]
  exact congrArg ok (if_pos hturn)

end

/-! ## RUN (R288) -/

theorem length_argBlock {c : Cmd} (h : c.bytes.length = 64) (n slot : Nat) : (argBlock n slot c).length = 64 := by
  simp [argBlock, h]

/-- RUN starts, and its argument block is written where that is memory. -/
theorem runStart_there {s : State} {n : Nat} {c : Cmd} {u : SlotUse}
    (hslot : (s.part (s.stream n).part.toNat).slots.find? (fun u => u.stream = n && u.seq = c.seq) = some u)
    (hmem : locate s (s.stm.argBase.toNat + 4096 * (s.stream n).part.toNat + 64 * u.slot) = .mem) :
    s.runStart n c = (s.startCmd n c.seq).wr (s.stm.argBase.toNat + 4096 * (s.stream n).part.toNat + 64 * u.slot) (argBlock n u.slot c) := by
  unfold State.runStart
  dsimp only
  rw [hslot]
  exact if_pos (beq_iff_eq.mpr hmem)

/-! ## Footprints (08 R252) -/

theorem readLeaf_of_leafAddr {s : State} {p g a : Nat} (h : leafAddr s (s.part p).ptBase.toNat g = some a) :
    readLeaf s p g = some (leafOf (s.rdN a 8) (s.rdN (a + 8) 8)) := by
  rw [readLeaf, h]
  rfl

/-- Every field of a leaf entry fits its place (R242). -/
def Fits (l : Leaf) : Prop :=
  l.state < 16 ∧ l.pinS < 128 ∧ l.pinB < 128 ∧ l.bframe < 4194304 ∧ l.sframe < 1048576 ∧ l.lastUse < 65536 ∧ l.prior < 16 ∧ l.hstack < 16 ∧
    l.retain < 4

theorem fieldNat_lt (v hi lo : Nat) : fieldNat v hi lo < 2 ^ (hi + 1 - lo) := Nat.mod_lt _ (Nat.two_pow_pos _)

theorem fits_leafOf (w0 w1 : Nat) : Fits (leafOf w0 w1) :=
  ⟨fieldNat_lt .., fieldNat_lt .., fieldNat_lt .., fieldNat_lt .., fieldNat_lt .., fieldNat_lt .., fieldNat_lt .., fieldNat_lt ..,
    fieldNat_lt ..⟩

theorem words_of_fits {l : Leaf} (h : Fits l) : l.w0 < 2 ^ 64 ∧ l.w1 < 2 ^ 64 := by
  obtain ⟨hstate, hpinS, hpinB, hbframe, hsframe, hlastUse, hprior, hhstack, hretain⟩ := h
  have hstay := b2n_lt l.stay
  simp only [Leaf.w0, Leaf.w1]
  omega

/-- A leaf entry whose fields fit stands in memory as it is written. -/
theorem leafSet_writeLeaf {s : State} {p g a : Nat} {l : Leaf} (h : leafAddr s (s.part p).ptBase.toNat g = some a) (h0 : l.w0 < 2 ^ 64)
    (h1 : l.w1 < 2 ^ 64) : leafSet s (s.writeLeaf p g l) a l := by
  have hwrite : s.writeLeaf p g l = (s.wrN a 8 l.w0).wrN (a + 8) 8 l.w1 := by
    rw [State.writeLeaf, h]
  rw [hwrite]
  refine ⟨?_, ?_, fun x hx => ?_⟩
  · rw [rdN_congr fun x hlo hhi => byte_wrN_other (s.wrN a 8 l.w0) l.w1 (by omega), rdN_wrN]
    omega
  · rw [rdN_wrN]
    omega
  · rw [byte_wrN_other _ _ (by omega), byte_wrN_other _ _ (by omega)]

theorem wrN_wrN_frame (s : State) (a b j k v w : Nat) : ∃ m, (s.wrN a j v).wrN b k w = { s with mem := m } := ⟨_, rfl⟩

theorem writeLeaf_frame (s : State) (p g : Nat) (l : Leaf) : ∃ m, s.writeLeaf p g l = { s with mem := m } := by
  unfold State.writeLeaf
  split
  · exact wrN_wrN_frame ..
  · exact ⟨_, rfl⟩

/-- The leaf entry once a pin has been taken in frame `f`. -/
def pinned (l : Leaf) (f : Nat) : Leaf := { l with lastUse := f % 65536, pinS := l.pinS + 1 }

theorem fits_pinned {l : Leaf} (h : Fits l) (hpins : l.pinS < 127) (f : Nat) : Fits (pinned l f) := by
  obtain ⟨hstate, -, hpinB, hbframe, hsframe, -, hrest⟩ := h
  exact ⟨hstate, Nat.succ_lt_succ hpins, hpinB, hbframe, hsframe, Nat.mod_lt _ (by decide), hrest⟩

/-- A page with a stacked frame takes one stacked-tier pin and its LAST_USE (R252). -/
theorem pinPage_stacked {s : State} {p : Nat} {e : Nat × Bool} {l : Leaf} (hleaf : readLeaf s p e.1 = some l)
    (hstate : l.state = 1 ∨ l.state = 3 ∨ l.state = 4) :
    s.pinPage p e = (some (e.1, true), s.writeLeaf p e.1 (pinned l (s.part p).frame.toNat)) := by
  have hcode : pageStateOf l.state = some .stacked ∨ pageStateOf l.state = some .bothClean ∨ pageStateOf l.state = some .bothDirty :=
    hstate.imp (congrArg pageStateOf ·) (Or.imp (congrArg pageStateOf ·) (congrArg pageStateOf ·))
  unfold State.pinPage
  dsimp only
  rw [hleaf]
  dsimp only
  obtain h | h | h := hcode <;> rw [h] <;> rfl

/-- The footprint of one such page, sent to the engines. -/
theorem footprintPin_stacked {s : State} {n : Nat} {c : Cmd} {g : Program} {e : Nat × Bool} {l : Leaf}
    (hprog : programOf s (s.stream n).part.toNat (byteAt c.bytes 8) = some g) (hfoot : footprint s g = [e])
    (hleaf : readLeaf s (s.stream n).part.toNat e.1 = some l) (hstate : l.state = 1 ∨ l.state = 3 ∨ l.state = 4) :
    s.footprintPin n c =
      (s.writeLeaf (s.stream n).part.toNat e.1 (pinned l (s.part (s.stream n).part.toNat).frame.toNat)).modCmd n c.seq
        (fun c => { c with pins := [(e.1, true)], pinned := true }) := by
  unfold State.footprintPin
  dsimp only
  rw [hprog]
  dsimp only
  rw [hfoot, State.pinAll, pinPage_stacked hleaf hstate]
  rfl

/-- What the pin of such a page leaves: its leaf entry, and the command that took it. -/
theorem footprintPin_spec {s : State} {n a : Nat} {c : Cmd} {g : Program} {e : Nat × Bool} {l : Leaf} (hmem : c ∈ (s.stream n).cmds)
    (hprog : programOf s (s.stream n).part.toNat (byteAt c.bytes 8) = some g) (hfoot : footprint s g = [e])
    (haddr : leafAddr s (s.part (s.stream n).part.toNat).ptBase.toNat e.1 = some a)
    (hleaf : readLeaf s (s.stream n).part.toNat e.1 = some l) (hstate : l.state = 1 ∨ l.state = 3 ∨ l.state = 4) (hpins : l.pinS < 127) :
    let t := s.footprintPin n c
    leafSet s t a (pinned l (s.part (s.stream n).part.toNat).frame.toNat) ∧
      (∃ d ∈ (t.stream n).cmds, d.seq = c.seq ∧ d.pins = [(e.1, true)] ∧ d.pinned = true) ∧ t = { s with mem := t.mem, stm := t.stm } := by
  have hfits : Fits l := by
    rw [readLeaf_of_leafAddr haddr] at hleaf
    exact Option.some.inj hleaf ▸ fits_leafOf ..
  obtain ⟨hw0, hw1⟩ := words_of_fits (fits_pinned hfits hpins (s.part (s.stream n).part.toNat).frame.toNat)
  have hset := leafSet_writeLeaf haddr hw0 hw1
  rw [footprintPin_stacked hprog hfoot hleaf hstate]
  obtain ⟨m, hframe⟩ := writeLeaf_frame s (s.stream n).part.toNat e.1 (pinned l (s.part (s.stream n).part.toNat).frame.toNat)
  rw [hframe] at hset ⊢
  exact ⟨hset, ⟨_, modCmd_changes hmem _, rfl, rfl, rfl⟩, rfl⟩

/-! ### Reads that time does not change -/

section
variable (s : State) (t : Nat)

theorem stream_advanceTo (n : Nat) : (s.advanceTo t).stream n = s.stream n := by simp only [State.stream, State.advanceTo_stm]
theorem part_advanceTo (p : Nat) : (s.advanceTo t).part p = s.part p := by simp only [State.part, State.advanceTo_parts]
theorem byte_advanceTo (x : Nat) : (s.advanceTo t).byte x = s.byte x := by simp only [State.byte, State.advanceTo_mem]
theorem rdN_advanceTo (a k : Nat) : (s.advanceTo t).rdN a k = s.rdN a k := by simp only [State.rdN, State.advanceTo_mem]
theorem programOf_advanceTo (p prog : Nat) : programOf (s.advanceTo t) p prog = programOf s p prog := by
  simp only [programOf, part_advanceTo]
theorem footprint_advanceTo (g : Program) : footprint (s.advanceTo t) g = footprint s g := by simp only [footprint, rdN_advanceTo]
theorem leafAddr_advanceTo (base g : Nat) : leafAddr (s.advanceTo t) base g = leafAddr s base g := by
  simp only [leafAddr, rdN_advanceTo]
theorem readLeaf_advanceTo (p g : Nat) : readLeaf (s.advanceTo t) p g = readLeaf s p g := by
  simp only [readLeaf, leafAddr_advanceTo, part_advanceTo, rdN_advanceTo]

end

/-! ## DMA (11 R325) -/

/-- A DMA command joins the queue of its channel, behind those there. -/
theorem queueDma_spec (s : State) (n : Nat) (c : Cmd) : ∃ r : DmaRun,
    ((s.queueDma n c).chan (byteAt c.bytes 0x10)).queue = (s.chan (byteAt c.bytes 0x10)).queue ++ [r] ∧ r.stream = n ∧ r.seq = c.seq ∧
      r.addr = bytesN c.bytes 8 8 ∧ r.prio.toNat = byteAt c.bytes 0x11 % 4 ∧ r.tick = c.tick ∧ r.descs = c.descs ∧ r.here = false :=
  ⟨_, congrArg Chan.queue (State.chan_modChan_self ..), rfl, rfl, rfl, BitVec.toNat_ofNat .., rfl, rfl, rfl⟩

/-! ## The statement -/

/-- Settles O25: every command is its named operation; a footprint is one leaf entry written (`footprintPin_stacked`, `leafSet_writeLeaf`). -/
theorem runDmaLoadStart : Obligations.RunDmaLoadStart := by
  refine ⟨fun s n c u hs hnext hlen hslot => ?_, fun s n a c g e l hs hfind hturn hprog hfoot haddr hleaf hstate hpins => ?_,
    fun s n c hs hnext hroom => ?_, fun s n c => ⟨queueDma_spec s n c, fun k hk => ?_, rfl⟩, fun s n c hs hnext => ?_⟩
  · intro a hmem
    have hblock := length_argBlock hlen n u.slot
    have hread := State.rd_wr (s.startCmd n c.seq) a (argBlock n u.slot c)
    rw [hblock] at hread
    exact ⟨_, (exec_run hs hnext).trans (congrArg _ (runStart_there hslot hmem)), hread,
      fun x hx => State.memSameBut_wr (s.startCmd n c.seq) a _ x (by rwa [hblock]), startCmd_started hnext, rfl⟩
  · have hstream := stream_advanceTo s c.tick n
    have hspec := footprintPin_spec (s := s.advanceTo c.tick) (n := n) (c := c) (g := g) (e := e) (a := a) (l := l)
    simp only [hstream, part_advanceTo, programOf_advanceTo, footprint_advanceTo, leafAddr_advanceTo, readLeaf_advanceTo] at hspec
    obtain ⟨⟨hw0, hw1, hbytes⟩, hcmds, hframe⟩ :=
      hspec (List.mem_of_find?_eq_some hfind) hprog hfoot haddr hleaf hstate hpins
    exact ⟨_, exec_footprintPin hs hfind hturn, ⟨hw0, hw1, fun x hx => (hbytes x hx).trans (byte_advanceTo s c.tick x)⟩, hcmds, hframe⟩
  · exact ⟨_, (exec_loadBitstream hs hnext).trans (congrArg _ (if_pos hroom)), rfl, startCmd_started hnext, rfl⟩
  · rw [State.queueDma, State.chan_modChan, if_neg hk]
  · refine ⟨_, exec_dma hs hnext, ?_, ?_, fun k hk => ?_, startCmd_started hnext, rfl⟩
    · rw [State.dmaHere, State.chan_modChan_self]
      rfl
    · rw [State.dmaHere, State.chan_modChan_self]
      rfl
    · rw [State.dmaHere, State.chan_modChan, if_neg hk]
      rfl

end Sys2Proof.Proofs.Streams
end
